-- ==== Sys2Proof/Word.lean ====
section
/-! DEFINITION. The word types of the MV9400 (spec/00_scope.md R6): bytes, 32-bit register and instruction
words, 64-bit values, and 32-bit lane masks. Everything that computes on them is under Sys2Proof/Machine/. -/

namespace Sys2Proof

/-- One byte of memory. -/
abbrev Byte := BitVec 8

/-- A lane register, a uniform register or an instruction word. -/
abbrev Word := BitVec 32

/-- A control register, a program counter or a virtual address. -/
abbrev DWord := BitVec 64

/-- One bit for each of the 32 lane positions of an issue group (R176). -/
abbrev LaneMask := BitVec 32

end Sys2Proof
end

