-- ==== Sys2Proof/Syntax.lean ====
section
/-! DEFINITION. The steps of the MV9400: one constructor of Instr for each row of spec/opcode_table.json.

Rows that are instructions carry the fields of their words (spec/07_isa_formats.md, Table 7-1): short forms an
SForm, long and literal forms an LForm. The other rows are steps of the agents around the threads: the boot ROM,
firmware, the host, the batch former, engines, links. Their arguments say what the step acts on. What is left to
the agent (which free frame, which block) comes from State.choice, not from the constructor. -/

namespace Sys2Proof

/-- The type codes of Table 7-4, in code order 0 to 15. -/
inductive Ty where
  | ui32 | si32 | ui64 | si64 | ui16 | si16 | ui8 | si8
  | f32 | f16 | bf16 | f8e4m3 | f8e5m2 | f4e2m1 | cb4 | b
  deriving DecidableEq, Repr

/-- GN and GP of Word 0 (R193). -/
structure Guard where
  neg : Bool
  p   : BitVec 4
  deriving DecidableEq, Repr

/-- A short form, LEN 00: Word 0 alone (Table 7-1). -/
structure SForm where
  g : Guard
  d : BitVec 6
  a : BitVec 6
  b : BitVec 6
  deriving DecidableEq, Repr

/-- LEN 01, 10 and 11 (Table 7-1). -/
inductive LongKind where
  | l | sl | ll
  deriving DecidableEq, Repr

/-- A long or literal form. In LEN 10 there is no Word 1 and no Word 2: their fields hold 0 and `ty` holds the
short-form default of the major (R191). `lit` is 0 in LEN 01. -/
structure LForm where
  kind : LongKind
  g    : Guard
  d    : BitVec 6
  a    : BitVec 6
  b    : BitVec 6
  c    : BitVec 6
  f    : BitVec 8
  la   : BitVec 4
  ty   : Ty
  m    : BitVec 4
  s    : BitVec 3
  x    : BitVec 3
  w2   : Word
  lit  : DWord
  deriving DecidableEq, Repr

/-- A mailbox: PF0's or that of the virtual function of partition `pid` (R28, R42). -/
inductive Fn where
  | pf0
  | vf (pid : Nat)
  deriving DecidableEq, Repr

/-- A die-to-die link (R14): ring link r joins CDr and CD(r+1 mod 4); iod d joins CDd and the IOD. -/
inductive DieLink where
  | ring (r : Nat)
  | iod (d : Nat)
  deriving DecidableEq, Repr

/-- What the hardware reports during a start (Table 12 of R54: LINK_TRAIN, NEAR_TEST, CLOCK_LOCK, THERMAL). -/
inductive StartHw where
  | good | linkTrain | nearTest | clockLock | thermal
  deriving DecidableEq, Repr

/-- What a scrub finds in a sector (R21). -/
inductive SectorError where
  | none | corrected | uncorrectable
  deriving DecidableEq, Repr

/-- The TYPE codes of a remote message (Table 3-7). -/
inductive MsgType where
  | rld | rst | ratom | copyWrite | multicast
  | readData | storeAck | atomicResult | copyCompletion | error
  deriving DecidableEq, Repr

/-- A remote message: the header of Table 3-7, its data bytes, and which bytes of the addressed line they are (log 18, DESIGN CHOICE). -/
structure Msg where
  dst   : Nat
  src   : Nat
  type  : MsgType
  seq   : BitVec 16
  low   : BitVec 16
  spart : Nat
  len   : Nat
  opc   : BitVec 8
  retx  : Bool
  addr  : Nat
  offs  : List Nat
  data  : List Byte
  deriving DecidableEq, Repr

/-- Who issues or is named: the lanes `mask` of issue group `group` of the workgroup in slot `slot` of core
`core`, or that workgroup's control thread (R176, R183). -/
inductive ThreadRef where
  | lanes (core slot group : Nat) (mask : LaneMask)
  | ctrl (core slot : Nat)
  deriving DecidableEq, Repr

/-- The steps of spec/opcode_table.json: first those with arguments, then those without, each in its order. -/
inductive Instr where
  /-- DEVICE_RESET (R53). -/
  | deviceReset (hw : StartHw)
  /-- HOST_LINK_TIMEOUT (R29). -/
  | hostLinkTimeout (lostAt : Nat)
  /-- LINK_FAILURE (R17). -/
  | linkFailure (link : DieLink)
  /-- LINK_RETIRE (R17). -/
  | linkRetire (ring : Nat)
  /-- DIE_LOST (R18). -/
  | dieLost (die : Nat)
  /-- LANE_FAILURE (R30). -/
  | laneFailure (port lanes : Nat)
  /-- FLIT_RECEIVE (R32): the 256 bytes of a flit as they arrive at a port. -/
  | flitReceive (port : Nat) (flit : List Byte)
  /-- REMOTE_RETRANSMIT (R94). -/
  | remoteRetransmit (tag : Nat)
  /-- FABRIC_TIMEOUT (R94). -/
  | fabricTimeout (tag : Nat)
  /-- EPOCH_REPORT (R123). -/
  | epochReport (group dev : Nat)
  /-- FABRIC_DEVICE_REMOVE (R123). -/
  | fabricDeviceRemove (group dev : Nat)
  /-- FABRIC_BARRIER_ARRIVAL (R302). -/
  | fabricBarrierArrival (group dev : Nat)
  /-- FABRIC_BARRIER_RELEASE (R302). -/
  | fabricBarrierRelease (group : Nat)
  /-- POWER_THROTTLE (R26). -/
  | powerThrottle (watts : Nat)
  /-- THERMAL_THROTTLE (R27). -/
  | thermalThrottle (celsius : Nat)
  /-- THERMAL_TRIP (R27). -/
  | thermalTrip (celsius : Nat)
  /-- SCRUB (R21). -/
  | scrub (sector : Nat) (found : SectorError)
  /-- CTX_LOAD (R126). -/
  | ctxLoad (pid : Nat)
  /-- CTX_UNLOAD (R128). -/
  | ctxUnload (pid : Nat)
  /-- CTX_HALT (R127). -/
  | ctxHalt (pid : Nat)
  /-- CTX_RESUME (R127). -/
  | ctxResume (pid : Nat)
  /-- POOL_CREATE (R96). -/
  | poolCreate (pid : Nat)
  /-- POOL_DESTROY (R97). -/
  | poolDestroy (pid : Nat)
  /-- ATTEST (R58). -/
  | attest (pid : Nat)
  /-- HEALTH (R44). -/
  | health (fn : Fn)
  /-- MBDOOR_IGNORED (R41). -/
  | mbdoorIgnored (fn : Fn) (seq : BitVec 16)
  /-- NEGOTIATE_ALGORITHMS (R57). -/
  | negotiateAlgorithms (ecdsaP256 sha256 : Bool)
  /-- GET_CERTIFICATE (R57). -/
  | getCertificate (offset length : Nat)
  /-- CHALLENGE (R57). -/
  | challenge (nonce : List Byte)
  /-- GET_MEASUREMENTS (R57). -/
  | getMeasurements (index : Nat)
  /-- ADMISSION_WRITE (R37). -/
  | admissionWrite (pid ctx offset : Nat) (data : List Byte) (allEnabled : Bool)
  /-- APERTURE_READ (R36). -/
  | apertureRead (pid x size : Nat)
  /-- APERTURE_WRITE (R36). -/
  | apertureWrite (pid x : Nat) (data : List Byte)
  /-- ICOAL_WRITE (R47). -/
  | icoalWrite (pid ctx : Nat) (value : DWord)
  /-- FQHEAD_WRITE (R81). -/
  | fqheadWrite (pid : Nat) (value : DWord)
  /-- REGISTER_WRITE (R7). -/
  | registerWrite (fn : Fn) (offset : Nat) (data : List Byte)
  /-- VF_UNSUPPORTED_REQUEST (R424). -/
  | vfUnsupportedRequest (pid : Nat) (posted : Bool)
  /-- COALESCING_TIMER (R47). -/
  | coalescingTimer (pid ctx : Nat)
  /-- FORMATION (R134). -/
  | formation (pid ctx : Nat)
  /-- EMPTY_FORMATION_RETRY (R133). -/
  | emptyFormationRetry (pid ctx : Nat)
  /-- STEP_CLOSE (R138). -/
  | stepClose (pid ctx : Nat)
  /-- WORKGROUP_START (R176). -/
  | workgroupStart (pid ctx node wg core slot : Nat)
  /-- BANK_RETURN_TO_CACHE (R168). -/
  | bankReturnToCache (core bank : Nat)
  /-- WORKGROUP_COMPLETE (R157). -/
  | workgroupComplete (core slot : Nat)
  /-- CONTEXT_SAVE (R146). -/
  | contextSave (pid ctx : Nat)
  /-- CONTEXT_SWAP (R147). -/
  | contextSwap (pid ctx : Nat)
  /-- CONTEXT_RESTORE (R148). -/
  | contextRestore (pid ctx : Nat)
  /-- DEADLINE (R150). -/
  | deadline (pid ctx : Nat)
  /-- FAULT_RESOLUTION (R81). -/
  | faultResolution (rec : Nat)
  /-- FAULT_QUEUE_WRITE (R81). -/
  | faultQueueWrite (rec : Nat)
  /-- FAULT_REPLAY (R84). -/
  | faultReplay (thread : ThreadRef)
  /-- TRAP_ENTRY (R401). -/
  | trapEntry (core slot : Nat)
  /-- COLLAPSE (R75). -/
  | collapse (thread : ThreadRef)
  /-- REPLICA_FILL (R74). -/
  | replicaFill (die : Nat) (home : Nat)
  /-- REPLICA_DROP (R74). -/
  | replicaDrop (die : Nat) (home : Nat)
  /-- PAGE_MIGRATION (R78). -/
  | pageMigration (pid ctx : Nat) (va : DWord) (tier die : Nat)
  /-- FRAME_RECLAIM (R87). -/
  | frameReclaim (pid ctx : Nat) (va : DWord)
  /-- POOL_ENGINE_OPERATION (R98). -/
  | poolEngineOperation (instance_ : Nat)
  /-- EPOCH_ADVANCE (R114). -/
  | epochAdvance (domain : Nat)
  /-- EPOCH_RECEIVE (R112). -/
  | epochReceive (core : Nat)
  /-- RETIRE_STAMP (R120). -/
  | retireStamp (pid : Nat)
  /-- RETIRE_RELEASE (R121). -/
  | retireRelease (pid : Nat)
  /-- COPY_ENGINE_OPERATION (R384). -/
  | copyEngineOperation (core index : Nat)
  /-- COPY_ARRIVAL (R386). -/
  | copyArrival (core index : Nat)
  /-- MATRIX_OPERATION (R357). -/
  | matrixOperation (core quarter : Nat)
  /-- CLMERGE_MERGE (R375). -/
  | clmergeMerge (cluster pid ctx slot : Nat)
  /-- LONG_LATENCY_COMPLETE (R201). -/
  | longLatencyComplete (thread : ThreadRef) (tag : Nat)
  /-- SYNCG_COMPLETE (R225). -/
  | syncgComplete (core slot : Nat) (group : Option Nat)
  /-- LVWAIT_COMPLETE (R300). -/
  | lvwaitComplete (thread : ThreadRef)
  /-- DBG_STOPALL (R187). -/
  | dbgStopall (f : LForm)
  /-- DBGCMD_RESUME (R188). -/
  | dbgcmdResume (f : LForm)
  /-- DBGCMD_STEP (R188). -/
  | dbgcmdStep (f : LForm)
  /-- DBGCMD_RESUMEALL (R188). -/
  | dbgcmdResumeall (f : LForm)
  /-- CSRW_ACCMASK (R174). -/
  | csrwAccmask (f : LForm)
  /-- CSRW_FIFOCFG (R170). -/
  | csrwFifocfg (f : LForm)
  /-- BRA_SHORT (R221). -/
  | braShort (g : Guard) (n : BitVec 18)
  /-- BRA (R221). -/
  | bra (f : LForm)
  /-- BRX_SHORT (R222). -/
  | brxShort (f : SForm)
  /-- BRX (R222). -/
  | brx (f : LForm)
  /-- CALL_SHORT (R222). -/
  | callShort (g : Guard) (n : BitVec 18)
  /-- CALL (R222). -/
  | call (f : LForm)
  /-- CALLX_SHORT (R222). -/
  | callxShort (f : SForm)
  /-- CALLX (R222). -/
  | callx (f : LForm)
  /-- RET (R222). -/
  | ret (f : SForm)
  /-- EXIT (R224). -/
  | exit (f : SForm)
  /-- SYNCG_SHORT (R225). -/
  | syncgShort (f : SForm)
  /-- SYNCG (R225). -/
  | syncg (f : LForm)
  /-- SYNCG_GRP (R225). -/
  | syncgGrp (f : LForm)
  /-- YIELD (R227). -/
  | yield (f : SForm)
  /-- BKPT (R228). -/
  | bkpt (g : Guard) (n : BitVec 18)
  /-- TRAP_SHORT (R228). -/
  | trapShort (g : Guard) (n : BitVec 18)
  /-- TRAP (R228). -/
  | trap (f : LForm)
  /-- DQPOP (R229). -/
  | dqpop (f : SForm)
  /-- NOP_SHORT (R230). -/
  | nopShort (f : SForm)
  /-- NOP (R230). -/
  | nop (f : LForm)
  /-- DQPUSH_SHORT (R229). -/
  | dqpushShort (f : SForm)
  /-- DQPUSH (R229). -/
  | dqpush (f : LForm)
  /-- ADD_SHORT (R231). -/
  | addShort (f : SForm)
  /-- ADD (R231). -/
  | add (f : LForm)
  /-- SUB_SHORT (R231). -/
  | subShort (f : SForm)
  /-- SUB (R231). -/
  | sub (f : LForm)
  /-- MUL_SHORT (R231). -/
  | mulShort (f : SForm)
  /-- MUL (R231). -/
  | mul (f : LForm)
  /-- MULH_SHORT (R231). -/
  | mulhShort (f : SForm)
  /-- MULH (R231). -/
  | mulh (f : LForm)
  /-- MAD (R231). -/
  | mad (f : LForm)
  /-- MINMAX_SHORT (R232). -/
  | minmaxShort (f : SForm)
  /-- MINMAX (R232). -/
  | minmax (f : LForm)
  /-- ABSNEG_SHORT (R232). -/
  | absnegShort (f : SForm)
  /-- ABSNEG (R232). -/
  | absneg (f : LForm)
  /-- AND_SHORT (R233). -/
  | andShort (f : SForm)
  /-- AND (R233). -/
  | and_ (f : LForm)
  /-- OR_SHORT (R233). -/
  | orShort (f : SForm)
  /-- OR (R233). -/
  | or_ (f : LForm)
  /-- XOR_SHORT (R233). -/
  | xorShort (f : SForm)
  /-- XOR (R233). -/
  | xor_ (f : LForm)
  /-- TERN (R233). -/
  | tern (f : LForm)
  /-- SHL_SHORT (R234). -/
  | shlShort (f : SForm)
  /-- SHL (R234). -/
  | shl (f : LForm)
  /-- SHR_SHORT (R234). -/
  | shrShort (f : SForm)
  /-- SHR (R234). -/
  | shr (f : LForm)
  /-- SAR_SHORT (R234). -/
  | sarShort (f : SForm)
  /-- SAR (R234). -/
  | sar (f : LForm)
  /-- BFE (R235). -/
  | bfe (f : LForm)
  /-- BFI (R235). -/
  | bfi (f : LForm)
  /-- BITC_SHORT (R236). -/
  | bitcShort (f : SForm)
  /-- BITC (R236). -/
  | bitc (f : LForm)
  /-- MOV_SHORT (R237). -/
  | movShort (f : SForm)
  /-- MOV (R237). -/
  | mov (f : LForm)
  /-- MOVI_SHORT (R237). -/
  | moviShort (g : Guard) (d : BitVec 6) (n : BitVec 12)
  /-- MOVI (R237). -/
  | movi (f : LForm)
  /-- SEL (R238). -/
  | sel (f : LForm)
  /-- ICMP (R241). -/
  | icmp (f : LForm)
  /-- PLOP_SHORT (R242). -/
  | plopShort (f : SForm)
  /-- PLOP (R242). -/
  | plop (f : LForm)
  /-- PMOV_GET_SHORT (R242). -/
  | pmovGetShort (f : SForm)
  /-- PMOV_GET (R242). -/
  | pmovGet (f : LForm)
  /-- PMOV_SET (R242). -/
  | pmovSet (f : LForm)
  /-- LEA_SHORT (R239). -/
  | leaShort (f : SForm)
  /-- LEA (R239). -/
  | lea (f : LForm)
  /-- LXCH_SHORT (R244). -/
  | lxchShort (f : SForm)
  /-- LXCH (R244). -/
  | lxch (f : LForm)
  /-- GQRY_SHORT (R245). -/
  | gqryShort (f : SForm)
  /-- GQRY (R245). -/
  | gqry (f : LForm)
  /-- REDG_SHORT (R246). -/
  | redgShort (f : SForm)
  /-- REDG (R246). -/
  | redg (f : LForm)
  /-- SCANG_SHORT (R246). -/
  | scangShort (f : SForm)
  /-- SCANG (R246). -/
  | scang (f : LForm)
  /-- SRD_SHORT (R247). -/
  | srdShort (f : SForm)
  /-- SRD (R247). -/
  | srd (f : LForm)
  /-- CVTI (R240). -/
  | cvti (f : LForm)
  /-- LD (R284). -/
  | ld (f : LForm)
  /-- ST (R284). -/
  | st (f : LForm)
  /-- LDT (R286). -/
  | ldt (f : LForm)
  /-- STT (R286). -/
  | stt (f : LForm)
  /-- LDNR (R284). -/
  | ldnr (f : LForm)
  /-- ATOM (R287). -/
  | atom (f : LForm)
  /-- CAS (R287). -/
  | cas (f : LForm)
  /-- SCADD (R289). -/
  | scadd (f : LForm)
  /-- ALB (R292). -/
  | alb (f : LForm)
  /-- ALE (R294). -/
  | ale (f : LForm)
  /-- FENCE (R296). -/
  | fence (f : LForm)
  /-- FENCE_ALIAS (R270). -/
  | fenceAlias (f : LForm)
  /-- LVINIT (R298). -/
  | lvinit (f : LForm)
  /-- LVARV (R299). -/
  | lvarv (f : LForm)
  /-- LVWAIT (R300). -/
  | lvwait (f : LForm)
  /-- SSTEP_DEV (R301). -/
  | sstepDev (f : LForm)
  /-- SSTEP_FAB (R302). -/
  | sstepFab (f : LForm)
  /-- WOPEN (R303). -/
  | wopen (f : LForm)
  /-- WCLOSE (R304). -/
  | wclose (f : LForm)
  /-- RLD (R305). -/
  | rld (f : LForm)
  /-- RST (R305). -/
  | rst (f : LForm)
  /-- RATOM (R305). -/
  | ratom (f : LForm)
  /-- PFETCH (R308). -/
  | pfetch (f : LForm)
  /-- DISCARD (R309). -/
  | discard (f : LForm)
  /-- FADD_SHORT (R340). -/
  | faddShort (f : SForm)
  /-- FADD (R340). -/
  | fadd (f : LForm)
  /-- FMUL_SHORT (R340). -/
  | fmulShort (f : SForm)
  /-- FMUL (R340). -/
  | fmul (f : LForm)
  /-- FFMA (R340). -/
  | ffma (f : LForm)
  /-- FMINMAX_SHORT (R342). -/
  | fminmaxShort (f : SForm)
  /-- FMINMAX (R342). -/
  | fminmax (f : LForm)
  /-- FCMP (R343). -/
  | fcmp (f : LForm)
  /-- FCLASS (R344). -/
  | fclass (f : LForm)
  /-- FCVT (R345). -/
  | fcvt (f : LForm)
  /-- FCVTI (R346). -/
  | fcvti (f : LForm)
  /-- ICVTF (R347). -/
  | icvtf (f : LForm)
  /-- EX2_SHORT (R353). -/
  | ex2Short (f : SForm)
  /-- EX2 (R353). -/
  | ex2 (f : LForm)
  /-- LG2_SHORT (R354). -/
  | lg2Short (f : SForm)
  /-- LG2 (R354). -/
  | lg2 (f : LForm)
  /-- RCP_SHORT (R354). -/
  | rcpShort (f : SForm)
  /-- RCP (R354). -/
  | rcp (f : LForm)
  /-- RSQ_SHORT (R354). -/
  | rsqShort (f : SForm)
  /-- RSQ (R354). -/
  | rsq (f : LForm)
  /-- FDOT2 (R348). -/
  | fdot2 (f : LForm)
  /-- PACK (R349). -/
  | pack (f : LForm)
  /-- UNPACK (R350). -/
  | unpack (f : LForm)
  /-- CBDEC (R351). -/
  | cbdec (f : LForm)
  /-- MXZERO (R365). -/
  | mxzero (f : LForm)
  /-- PLANE (R368). -/
  | plane (f : LForm)
  /-- MXMUL (R369). -/
  | mxmul (f : LForm)
  /-- MXSPM (R370). -/
  | mxspm (f : LForm)
  /-- MXEPI (R373). -/
  | mxepi (f : LForm)
  /-- MXSTORE (R366). -/
  | mxstore (f : LForm)
  /-- MXLDACC (R366). -/
  | mxldacc (f : LForm)
  /-- MXSCALE_ALPHA (R374). -/
  | mxscaleAlpha (f : LForm)
  /-- MXSCALE_FINAL (R374). -/
  | mxscaleFinal (f : LForm)
  /-- CLMERGE (R375). -/
  | clmerge (f : LForm)
  /-- SLOPE (R377). -/
  | slope (f : LForm)
  /-- CPY (R382). -/
  | cpy (f : LForm)
  /-- CPYG (R384). -/
  | cpyg (f : LForm)
  /-- BALLOC (R388). -/
  | balloc (f : LForm)
  /-- BFREE_REL (R388). -/
  | bfreeRel (f : LForm)
  /-- BFREE_ADDREF (R388). -/
  | bfreeAddref (f : LForm)
  /-- SQOP_CREATE (R389). -/
  | sqopCreate (f : LForm)
  /-- SQOP_APPEND (R389). -/
  | sqopAppend (f : LForm)
  /-- SQOP_XLATE (R389). -/
  | sqopXlate (f : LForm)
  /-- SQOP_FORK (R389). -/
  | sqopFork (f : LForm)
  /-- SQOP_TRIM (R389). -/
  | sqopTrim (f : LForm)
  /-- SQOP_DROP (R389). -/
  | sqopDrop (f : LForm)
  /-- RSENTER (R390). -/
  | rsenter (f : SForm)
  /-- RSLEAVE (R390). -/
  | rsleave (f : SForm)
  /-- PUBLISH (R391). -/
  | publish (f : LForm)
  /-- RETIRE (R392). -/
  | retire (f : LForm)
  /-- ROUTE (R394). -/
  | route (f : LForm)
  /-- RCSNAP (R394). -/
  | rcsnap (f : LForm)
  /-- FETCHW (R396). -/
  | fetchw (f : LForm)
  /-- REQOP_EMIT (R397). -/
  | reqopEmit (f : LForm)
  /-- REQOP_CANCEL (R397). -/
  | reqopCancel (f : LForm)
  /-- REQOP_GET (R397). -/
  | reqopGet (f : LForm)
  /-- CSRR (R398). -/
  | csrr (f : LForm)
  /-- CSRW (R398). -/
  | csrw (f : LForm)
  /-- ERET (R402). -/
  | eret (f : SForm)
  /-- WAIT_ENG (R404). -/
  | waitEng (f : LForm)
  /-- WAIT_CYC (R404). -/
  | waitCyc (f : LForm)
  /-- SYS_TLBINV (R405). -/
  | sysTlbinv (f : LForm)
  /-- SYS_TLBINV_PART (R405). -/
  | sysTlbinvPart (f : LForm)
  /-- SYS_TDSET (R381). -/
  | sysTdset (f : LForm)
  /-- SYS_HALT (R405). -/
  | sysHalt (f : LForm)
  /-- SYS_DBG (R405). -/
  | sysDbg (f : LForm)
  /-- LINK_RETRAIN (R17). -/
  | linkRetrain (link : DieLink)
  /-- WAIT_CYC_EXPIRY (R404). -/
  | waitCycExpiry (core slot : Nat)
  /-- READY (R54). -/
  | ready
  /-- START_TIMEOUT (R54). -/
  | startTimeout
  /-- HOST_RESET (R29). -/
  | hostReset
  /-- LINK_DOWN (R29). -/
  | linkDown
  /-- RLD_REQUEST (R93). -/
  | rldRequest
  /-- RST_REQUEST (R93). -/
  | rstRequest
  /-- RATOM_REQUEST (R93). -/
  | ratomRequest
  /-- COPY_WRITE (R91). -/
  | copyWrite
  /-- MULTICAST_DATA (R33). -/
  | multicastData
  /-- READ_DATA (R93). -/
  | readData
  /-- STORE_ACKNOWLEDGEMENT (R306). -/
  | storeAcknowledgement
  /-- ATOMIC_RESULT (R93). -/
  | atomicResult
  /-- COPY_COMPLETION (R385). -/
  | copyCompletion
  /-- ERROR_RESPONSE (R307). -/
  | errorResponse
  /-- PART_CREATE (R49). -/
  | partCreate
  /-- PART_DESTROY (R48). -/
  | partDestroy
  /-- POWER_LIMIT (R26). -/
  | powerLimit
  /-- FW_CHUNK (R56). -/
  | fwChunk
  /-- FW_COMMIT (R55). -/
  | fwCommit
  /-- DEV_RESET (R44). -/
  | devReset
  /-- GET_VERSION (R57). -/
  | getVersion
  /-- GET_CAPABILITIES (R57). -/
  | getCapabilities
  /-- GET_DIGESTS (R57). -/
  | getDigests
  /-- CORE_CLOCK_RAISE (R25). -/
  | coreClockRaise
  deriving DecidableEq, Repr

end Sys2Proof
end

