-- ==== Sys2Proof/Machine/Encoding.lean ====
section
/-! DEFINITION. The encoding tables of the Nymka instructions: the major opcodes (Table 7-7, R206), which fields
each entry uses and which values it allows (Tables 8-1 to 8-4, 10-1, 12-1, 13-2 and 14-1, R192), and the two maps
between the instruction rows of Instr and a major with its fields. The decoder, the encoder, WellFormed and the
register checks of R194 to R196 all read these tables. -/

namespace Sys2Proof.Machine

/-! ### Field packing (Table 7-1) -/

/-- The n-bit field of `w` from bit `lo` upward. -/
def fieldAt (w lo n : Nat) : BitVec n := BitVec.ofNat n (w / 2 ^ lo)

/-- Table 7-4. -/
def tyCode : Ty → Nat
  | .ui32 => 0 | .si32 => 1 | .ui64 => 2 | .si64 => 3 | .ui16 => 4 | .si16 => 5 | .ui8 => 6 | .si8 => 7
  | .f32 => 8 | .f16 => 9 | .bf16 => 10 | .f8e4m3 => 11 | .f8e5m2 => 12 | .f4e2m1 => 13 | .cb4 => 14 | .b => 15

/-- Table 7-4, from the low 4 bits of a number. -/
def tyOfCode (n : Nat) : Ty :=
  match n % 16 with
  | 0 => .ui32 | 1 => .si32 | 2 => .ui64 | 3 => .si64 | 4 => .ui16 | 5 => .si16 | 6 => .ui8 | 7 => .si8
  | 8 => .f32 | 9 => .f16 | 10 => .bf16 | 11 => .f8e4m3 | 12 => .f8e5m2 | 13 => .f4e2m1 | 14 => .cb4 | _ => .b

/-- The width in bits of a type of Table 7-4 (`.B` has the width its entry sets; 32 here). -/
def tyWidth : Ty → Nat
  | .ui32 | .si32 | .f32 | .b => 32
  | .ui64 | .si64 => 64
  | .ui16 | .si16 | .f16 | .bf16 => 16
  | .ui8 | .si8 | .f8e4m3 | .f8e5m2 => 8
  | .f4e2m1 | .cb4 => 4

/-- The signed integer types (Table 7-4). -/
def tySigned : Ty → Bool
  | .si32 | .si64 | .si16 | .si8 => true
  | _ => false

end Sys2Proof.Machine
namespace Sys2Proof

/-- Word 0 bits [31:14] as one number, held in the fields B, A and D (R220). -/
def LForm.n18 (f : LForm) : BitVec 18 :=
  BitVec.ofNat 18 (f.d.toNat + 64 * f.a.toNat + 4096 * f.b.toNat)

/-- Word 0 bits [31:20] as one number, held in the fields B and A (R237). -/
def LForm.n12 (f : LForm) : BitVec 12 := BitVec.ofNat 12 (f.a.toNat + 64 * f.b.toNat)

/-- A short form as the long form it stands for: Word 1 and Word 2 zero, T the short-form default (R191). -/
def SForm.long (f : SForm) (ty : Ty) : LForm :=
  { kind := .l, g := f.g, d := f.d, a := f.a, b := f.b, c := 0, f := 0, la := 0, ty := ty, m := 0, s := 0, x := 0,
    w2 := 0, lit := 0 }

/-- The fields of Word 0 alone. -/
def LForm.short (f : LForm) : SForm := { g := f.g, d := f.d, a := f.a, b := f.b }

/-- A short form whose Word 0 [31:14] is one number. -/
def LForm.raw18 (g : Guard) (n : BitVec 18) : LForm :=
  SForm.long { g := g, d := Machine.fieldAt n.toNat 0 6, a := Machine.fieldAt n.toNat 6 6, b := Machine.fieldAt n.toNat 12 6 } .ui32

/-- The short form of MOVI, whose Word 0 [31:20] is one number (R237). -/
def LForm.rawMovi (g : Guard) (d : BitVec 6) (n : BitVec 12) : LForm :=
  SForm.long { g := g, d := d, a := Machine.fieldAt n.toNat 0 6, b := Machine.fieldAt n.toNat 6 6 } .ui32

end Sys2Proof
namespace Sys2Proof.Machine

/-! ### Majors -/

/-- The 110 majors of Table 7-7. -/
inductive Major where
  | bra | brx | call | callx | ret | exit | syncg | yield | bkpt | trap
  | dqpop | nop | add | sub | mul | mulh | mad | minmax | absneg | and_
  | or_ | xor_ | tern | shl | shr | sar | bfe | bfi | bitc | mov
  | movi | sel | icmp | plop | pmov | lea | lxch | gqry | redg | scang
  | srd | cvti | ld | st | ldt | stt | ldnr | atom | cas | scadd
  | alb | ale | fence | lvinit | lvarv | lvwait | sstep | wopen | wclose | rld
  | rst | ratom | pfetch | discard | fadd | fmul | ffma | fminmax | fcmp | fclass
  | fcvt | fcvti | icvtf | ex2 | lg2 | rcp | rsq | fdot2 | pack | unpack
  | cbdec | mxzero | plane | mxmul | mxspm | mxepi | mxstore | mxldacc | mxscale | clmerge
  | slope | cpy | cpyg | balloc | bfree | sqop | rsenter | rsleave | publish | retire
  | route | rcsnap | fetchw | reqop | dqpush | csrr | csrw | eret | wait | sys
  deriving DecidableEq, Repr

/-- Table 7-7: OP of each major. -/
def opOf : Major → Nat
  | .bra => 0x01
  | .brx => 0x02
  | .call => 0x03
  | .callx => 0x04
  | .ret => 0x05
  | .exit => 0x06
  | .syncg => 0x07
  | .yield => 0x08
  | .bkpt => 0x09
  | .trap => 0x0A
  | .dqpop => 0x0B
  | .nop => 0x0C
  | .add => 0x10
  | .sub => 0x11
  | .mul => 0x12
  | .mulh => 0x13
  | .mad => 0x14
  | .minmax => 0x15
  | .absneg => 0x16
  | .and_ => 0x17
  | .or_ => 0x18
  | .xor_ => 0x19
  | .tern => 0x1A
  | .shl => 0x1B
  | .shr => 0x1C
  | .sar => 0x1D
  | .bfe => 0x1E
  | .bfi => 0x1F
  | .bitc => 0x20
  | .mov => 0x21
  | .movi => 0x22
  | .sel => 0x23
  | .icmp => 0x24
  | .plop => 0x25
  | .pmov => 0x26
  | .lea => 0x27
  | .lxch => 0x28
  | .gqry => 0x29
  | .redg => 0x2A
  | .scang => 0x2B
  | .srd => 0x2C
  | .cvti => 0x2D
  | .ld => 0x30
  | .st => 0x31
  | .ldt => 0x32
  | .stt => 0x33
  | .ldnr => 0x34
  | .atom => 0x35
  | .cas => 0x36
  | .scadd => 0x37
  | .alb => 0x38
  | .ale => 0x39
  | .fence => 0x3A
  | .lvinit => 0x3B
  | .lvarv => 0x3C
  | .lvwait => 0x3D
  | .sstep => 0x3E
  | .wopen => 0x3F
  | .wclose => 0x40
  | .rld => 0x41
  | .rst => 0x42
  | .ratom => 0x43
  | .pfetch => 0x44
  | .discard => 0x45
  | .fadd => 0x48
  | .fmul => 0x49
  | .ffma => 0x4A
  | .fminmax => 0x4B
  | .fcmp => 0x4C
  | .fclass => 0x4D
  | .fcvt => 0x4E
  | .fcvti => 0x4F
  | .icvtf => 0x50
  | .ex2 => 0x51
  | .lg2 => 0x52
  | .rcp => 0x53
  | .rsq => 0x54
  | .fdot2 => 0x55
  | .pack => 0x56
  | .unpack => 0x57
  | .cbdec => 0x58
  | .mxzero => 0x60
  | .plane => 0x61
  | .mxmul => 0x62
  | .mxspm => 0x63
  | .mxepi => 0x64
  | .mxstore => 0x65
  | .mxldacc => 0x66
  | .mxscale => 0x67
  | .clmerge => 0x68
  | .slope => 0x69
  | .cpy => 0x6C
  | .cpyg => 0x6D
  | .balloc => 0x6E
  | .bfree => 0x6F
  | .sqop => 0x70
  | .rsenter => 0x71
  | .rsleave => 0x72
  | .publish => 0x73
  | .retire => 0x74
  | .route => 0x75
  | .rcsnap => 0x76
  | .fetchw => 0x77
  | .reqop => 0x78
  | .dqpush => 0x79
  | .csrr => 0x7A
  | .csrw => 0x7B
  | .eret => 0x7C
  | .wait => 0x7D
  | .sys => 0x7E

/-- Table 7-7 as a list. -/
def opTable : List (Nat × Major) :=
  [(1, Major.bra), (2, Major.brx), (3, Major.call), (4, Major.callx), (5, Major.ret), (6, Major.exit), (7, Major.syncg), (8, Major.yield), (9, Major.bkpt), (10, Major.trap)] ++
  [(11, Major.dqpop), (12, Major.nop), (16, Major.add), (17, Major.sub), (18, Major.mul), (19, Major.mulh), (20, Major.mad), (21, Major.minmax), (22, Major.absneg), (23, Major.and_)] ++
  [(24, Major.or_), (25, Major.xor_), (26, Major.tern), (27, Major.shl), (28, Major.shr), (29, Major.sar), (30, Major.bfe), (31, Major.bfi), (32, Major.bitc), (33, Major.mov)] ++
  [(34, Major.movi), (35, Major.sel), (36, Major.icmp), (37, Major.plop), (38, Major.pmov), (39, Major.lea), (40, Major.lxch), (41, Major.gqry), (42, Major.redg), (43, Major.scang)] ++
  [(44, Major.srd), (45, Major.cvti), (48, Major.ld), (49, Major.st), (50, Major.ldt), (51, Major.stt), (52, Major.ldnr), (53, Major.atom), (54, Major.cas), (55, Major.scadd)] ++
  [(56, Major.alb), (57, Major.ale), (58, Major.fence), (59, Major.lvinit), (60, Major.lvarv), (61, Major.lvwait), (62, Major.sstep), (63, Major.wopen), (64, Major.wclose), (65, Major.rld)] ++
  [(66, Major.rst), (67, Major.ratom), (68, Major.pfetch), (69, Major.discard), (72, Major.fadd), (73, Major.fmul), (74, Major.ffma), (75, Major.fminmax), (76, Major.fcmp), (77, Major.fclass)] ++
  [(78, Major.fcvt), (79, Major.fcvti), (80, Major.icvtf), (81, Major.ex2), (82, Major.lg2), (83, Major.rcp), (84, Major.rsq), (85, Major.fdot2), (86, Major.pack), (87, Major.unpack)] ++
  [(88, Major.cbdec), (96, Major.mxzero), (97, Major.plane), (98, Major.mxmul), (99, Major.mxspm), (100, Major.mxepi), (101, Major.mxstore), (102, Major.mxldacc), (103, Major.mxscale), (104, Major.clmerge)] ++
  [(105, Major.slope), (108, Major.cpy), (109, Major.cpyg), (110, Major.balloc), (111, Major.bfree), (112, Major.sqop), (113, Major.rsenter), (114, Major.rsleave), (115, Major.publish), (116, Major.retire)] ++
  [(117, Major.route), (118, Major.rcsnap), (119, Major.fetchw), (120, Major.reqop), (121, Major.dqpush), (122, Major.csrr), (123, Major.csrw), (124, Major.eret), (125, Major.wait), (126, Major.sys)]

/-- The major with opcode `op`; none for a reserved one (R206). -/
def majorOf (op : Nat) : Option Major := (opTable.find? fun e => e.1 == op).map (·.2)

/-- The streams of Table 7-7. -/
inductive Streams where
  | both | lane | control
  deriving DecidableEq, Repr

/-- Table 7-7, column Streams. -/
def streamsOf : Major → Streams
  | .syncg | .yield | .bkpt | .dqpop | .lxch | .gqry | .redg | .scang | .ldnr | .scadd | .alb | .ale => .lane
  | .fadd | .fmul | .ffma | .fminmax | .fcmp | .fclass | .fcvt | .fcvti | .icvtf | .ex2 | .lg2 | .rcp | .rsq
  | .fdot2 | .pack | .unpack | .cbdec => .lane
  | .sstep | .wopen | .wclose | .discard => .control
  | .mxzero | .plane | .mxmul | .mxspm | .mxepi | .mxstore | .mxldacc | .mxscale | .clmerge | .slope => .control
  | .cpy | .cpyg | .balloc | .bfree | .sqop | .retire | .rcsnap | .fetchw | .reqop | .dqpush | .csrr | .csrw
  | .eret | .wait | .sys => .control
  | _ => .both

/-- Table 7-7, column Forms: the majors with a short form. -/
def hasShort : Major → Bool
  | .bra | .brx | .call | .callx | .ret | .exit | .syncg | .yield | .bkpt | .trap | .dqpop | .nop => true
  | .add | .sub | .mul | .mulh | .minmax | .absneg | .and_ | .or_ | .xor_ | .shl | .shr | .sar | .bitc | .mov
  | .movi | .plop | .pmov | .lea | .lxch | .gqry | .redg | .scang | .srd => true
  | .fadd | .fmul | .fminmax | .ex2 | .lg2 | .rcp | .rsq | .rsenter | .rsleave | .dqpush | .eret => true
  | _ => false

/-- Table 7-7, column Forms: the majors with a long form. -/
def hasLong : Major → Bool
  | .ret | .exit | .yield | .bkpt | .dqpop | .rsenter | .rsleave | .eret => false
  | _ => true

/-- The short-form default of T (Tables 8-1 to 8-4, 12-1). -/
def shortTy : Major → Ty
  | .dqpop | .dqpush | .lea => .ui64
  | .absneg | .sar => .si32
  | .fadd | .fmul | .fminmax | .ex2 | .lg2 | .rcp | .rsq => .f32
  | _ => .ui32

/-- Table 7-6: the majors that are long-latency (R201). -/
def longLatency : Major → Bool
  | .ld | .ldt | .ldnr | .dqpop | .atom | .cas | .scadd | .rld | .rst | .ratom | .ex2 | .lg2 | .rcp | .rsq => true
  | .mxzero | .plane | .mxmul | .mxspm | .mxepi | .mxstore | .mxldacc | .mxscale | .clmerge | .slope => true
  | .cpy | .cpyg | .balloc | .bfree | .sqop | .retire | .route | .rcsnap | .fetchw => true
  | _ => false

/-- R202: the instructions that close a lookahead window. -/
def closesWindow : Major → Bool
  | .bra | .brx | .call | .callx | .ret | .exit | .syncg | .yield | .bkpt | .trap | .dqpop => true
  | .fence | .lvwait | .sstep | .alb | .ale | .eret | .wait | .sys => true
  | _ => false

/-! ### Fields of each entry -/

/-- How an entry uses a register field (R194, R195). -/
inductive Use where
  | none | raw | r32 | r64 | r128 | kpair | pred
  deriving DecidableEq, Repr

/-- What a trailing literal replaces (R200). -/
inductive Lit where
  | none | a | b | c | off
  deriving DecidableEq, Repr

/-- One row of the encoding tables, for the field values at hand. -/
structure Entry where
  sl  : Bool := false
  ll  : Bool := false
  tys : List Ty := [.ui32]
  ms  : List Nat := [0]
  ss  : List Nat := [0]
  fOk : Bool := true
  la  : Bool := false
  w2  : Nat := 0
  d   : Use := .none
  a   : Use := .none
  b   : Use := .none
  c   : Use := .none
  lit : Lit := .none
  ok  : Bool := true

def intTys : List Ty := [.ui32, .si32, .ui64, .si64, .ui16, .si16, .ui8, .si8]
def intTys4 : List Ty := [.ui32, .si32, .ui64, .si64]
def bitTys : List Ty := [.ui32, .ui64]
def vecTys : List Ty := [.f32, .f16, .bf16]
def floatTys : List Ty := [.f32, .f16, .bf16, .f8e4m3, .f8e5m2, .f4e2m1]
def packTys : List Ty := [.ui16, .si16, .ui8, .si8, .f16, .bf16, .f8e4m3, .f8e5m2, .f4e2m1]
def anyM : List Nat := [0, 1, 2, 3, 4, 5, 6, 7, 8, 9, 10, 11, 12, 13, 14, 15]
def anyScope : List Nat := [0, 1, 2, 3, 4]

/-- A register of the width of an integer or float type. -/
def useOf (t : Ty) : Use := if tyWidth t = 64 then .r64 else .r32

/-- The data register of an access size F[2:0] (Table 10-4). -/
def useOfSize (n : Nat) : Use := if n = 4 then .r128 else if n = 3 then Machine.Use.r64 else Machine.Use.r32

end Sys2Proof.Machine
namespace Sys2Proof

/-- F[7:6], F[5] and F[4:0] of a memory instruction (R199, R279). -/
def LForm.space (f : LForm) : Nat := f.f.toNat / 64
def LForm.lb (f : LForm) : Bool := f.f.toNat / 32 % 2 == 1
def LForm.low5 (f : LForm) : Nat := f.f.toNat % 32
def LForm.size (f : LForm) : Nat := f.f.toNat % 8

/-- The base register of a memory operand: a pair for .G, one register for .SP and .CW (R280). -/
def LForm.baseUse (f : LForm) : Machine.Use := if f.space = 0 then Machine.Use.r64 else Machine.Use.r32

end Sys2Proof
namespace Sys2Proof.Machine

/-- A memory entry: base in A, Word 2 an offset, and in LL the literal chosen by LB (R279). `lbOk` says that LB = 1
is defined for the major. -/
def memEntry (f : LForm) (lbOk : Bool) (low : Bool) (spaces : List Nat) : Entry :=
  { ll := true, fOk := low && spaces.contains f.space && (if f.lb then lbOk && f.kind == .ll else true)
    w2 := if f.kind == .ll && !f.lb then 0 else 0xFFFFFFFF
    a := f.baseUse, lit := if f.lb then .b else .off }

/-- S of an instruction whose relaxed form carries no scope (Table 10-1, "0 if M = 0"). -/
def scopeIf (f : LForm) : List Nat := if f.m.toNat = 0 then [0] else anyScope

/-- The types of Table 10-3. -/
def atomTys (op : Nat) (cas : Bool) : List Ty :=
  if op = 0 || op = 1 || op = 2 || op = 6 then intTys4
  else if op = 3 || op = 4 || op = 5 then bitTys
  else if op = 7 then [.f32]
  else if op = 8 && cas then intTys4
  else []

/-- The minor number of an entry whose F is one small number. -/
def fIn (f : LForm) (n : Nat) : Bool := decide (f.f.toNat < n)

/-- The control register numbers of Table 14-6 (R398). -/
def csrNumbers : List Nat := [0, 1, 2, 3, 4, 5, 6, 7, 8, 9, 0x10, 0x11, 0x12, 0x13, 0x14, 0x18, 0x19, 0x20]

/-- Word 2 [11:0] of CSRR and CSRW. -/
def csrNumber (f : LForm) : Nat := f.w2.toNat % 4096

/-- The integer and lane entries of Tables 8-1 to 8-4. -/
def entryInt (mj : Major) (f : LForm) : Entry :=
  let t := useOf f.ty
  match mj with
  | .bra | .call => { fOk := fIn f 1, w2 := 0xFFFFFFFF, d := .raw, a := .raw, b := .raw }
  | .brx => { fOk := fIn f 1, w2 := 0xFFFFFFFF, a := .r64 }
  | .callx => { fOk := fIn f 1, w2 := 0xFFFFFFFF, a := .r64, d := .r32 }
  | .ret => { fOk := fIn f 1, a := .r32 }
  | .syncg => { fOk := fIn f 2 }
  | .bkpt => { fOk := fIn f 1, d := .raw, a := .raw, b := .raw }
  | .trap => { fOk := fIn f 1, w2 := 0x3FFF, d := .raw, a := .raw, b := .raw }
  | .dqpop => { fOk := fIn f 1, tys := [.ui64], d := .r64 }
  | .dqpush => { sl := true, fOk := fIn f 1, tys := [.ui64], b := .r64, lit := .b }
  | .add | .sub | .mul =>
    { sl := true, ll := true, fOk := fIn f 1, tys := intTys, ms := [0, 1], d := t, a := t, b := t, lit := .b }
  | .mulh => { sl := true, ll := true, fOk := fIn f 1, tys := intTys4, d := t, a := t, b := t, lit := .b }
  | .mad => { ll := true, fOk := fIn f 1, tys := intTys, ms := [0, 1], d := t, a := t, b := t, c := t, lit := .b }
  | .minmax => { sl := true, ll := true, fOk := fIn f 2, tys := intTys, d := t, a := t, b := t, lit := .b }
  | .absneg =>
    { fOk := fIn f 2, tys := if f.f.toNat = 0 then [.si32, .si64, .si16, .si8] else intTys, ms := [0, 1], d := t, a := t }
  | .and_ | .or_ | .xor_ =>
    { sl := true, ll := true, fOk := fIn f 1, tys := bitTys, d := t, a := t, b := t, lit := .b }
  | .tern => { ll := true, tys := bitTys, d := t, a := t, b := t, c := t, lit := .b }
  | .shl => { sl := true, ll := true, fOk := fIn f 1, tys := intTys4, ms := [0, 1], d := t, a := t, b := .r32, lit := .b }
  | .shr => { sl := true, ll := true, fOk := fIn f 1, tys := bitTys, ms := [0, 1], d := t, a := t, b := .r32, lit := .b }
  | .sar =>
    { sl := true, ll := true, fOk := fIn f 1, tys := [.si32, .si64], ms := [0, 1], d := t, a := t, b := .r32, lit := .b }
  | .bfe =>
    if f.m.toNat = 1 then
      { ll := true, fOk := fIn f 1, tys := intTys4, ms := [1], d := t, a := t, b := .r32, lit := .b }
    else { fOk := fIn f 1, tys := intTys4, w2 := 0xFFFF, d := t, a := t }
  | .bfi =>
    if f.m.toNat = 1 then
      { ll := true, fOk := fIn f 1, tys := bitTys, ms := [1], d := t, a := t, b := t, c := .r32, lit := .b }
    else { ll := true, fOk := fIn f 1, tys := bitTys, w2 := 0xFFFF, d := t, a := t, b := t, lit := .b }
  | .bitc => { fOk := fIn f 4, tys := bitTys, d := if f.f.toNat = 3 then t else .r32, a := t }
  | .mov => { sl := true, ll := true, fOk := fIn f 1, tys := bitTys, d := t, b := t, lit := .b }
  | .movi => { fOk := fIn f 1, tys := bitTys, w2 := 0xFFFFFFFF, d := t, a := .raw, b := .raw }
  | .sel => { ll := true, fOk := fIn f 1, tys := bitTys, d := t, a := t, b := t, c := .pred, lit := .b }
  | .icmp =>
    { ll := true, fOk := fIn f 6, tys := intTys, ms := [0, 1, 2, 3], d := .pred, a := t, b := t
      c := if f.m.toNat = 0 then .none else .pred, lit := .b }
  | .plop => { fOk := fIn f 6, d := .pred, a := .pred, b := if f.f.toNat = 5 then .none else .pred }
  | .pmov => if f.f.toNat = 0 then { d := .r32 } else { fOk := fIn f 2, a := .r32 }
  | .lea => { sl := true, ll := true, fOk := fIn f 1, tys := [.ui64], ms := anyM, d := .r64, a := .r64, b := .r32, lit := .b }
  | .lxch => { fOk := fIn f 4, tys := bitTys, d := t, a := t, b := .r32 }
  | .gqry =>
    if f.f.toNat = 3 then { tys := bitTys, d := .pred, a := t }
    else { fOk := fIn f 5, d := if f.f.toNat < 2 then .pred else .r32, a := .pred }
  | .redg => { fOk := fIn f 6, tys := intTys4, d := t, a := t }
  | .scang => { fOk := fIn f 6, tys := intTys4, ms := [0, 1], d := t, a := t }
  | .srd => { fOk := fIn f 16, d := if [9, 14, 15].contains f.f.toNat then .r64 else .r32 }
  | .cvti => { fOk := fIn f 8, tys := intTys, ms := [0, 1], d := t, a := useOf (tyOfCode f.f.toNat) }
  | _ => { fOk := fIn f 1 }

/-- Table 10-1. -/
def entryMem (mj : Major) (f : LForm) : Entry :=
  match mj with
  | .ld => { memEntry f false (f.low5 < 16 && f.size < 5) [0, 1, 2] with
             ms := [0, 1, 4], ss := scopeIf f, la := true, d := useOfSize f.size }
  | .st => { memEntry f true (f.low5 < 5) [0, 1, 2] with
             ms := [0, 2, 4], ss := scopeIf f, b := useOfSize f.size, ok := !(f.lb && f.size == 4) }
  | .ldt => { ll := true, fOk := f.f.toNat % 64 < 2 && f.space < 2, tys := [.b], ms := [0, 1], ss := scopeIf f, la := true
              w2 := 0xFFFFFFFF, d := .r32, a := .r64, c := if f.f.toNat % 2 = 1 then .r64 else .none, lit := .c
              ok := f.kind == .l || f.f.toNat % 2 == 1 }
  | .stt => { ll := true, fOk := f.f.toNat % 64 < 2 && f.space < 2, tys := [.b], ms := [0, 2], ss := scopeIf f
              w2 := 0xFFFFFFFF, b := .r32, a := .r64, c := if f.f.toNat % 2 = 1 then .r64 else .none, lit := .c
              ok := f.kind == .l || f.f.toNat % 2 == 1 }
  | .ldnr => { memEntry f false (f.low5 < 16 && f.size < 5) [0] with la := true, d := useOfSize f.size, c := .pred }
  | .atom => { memEntry f true (f.low5 % 16 < 8) [0, 1, 2] with
               tys := atomTys (f.low5 % 16) false, ms := [0, 1, 2, 3, 4], ss := anyScope, la := true
               d := if f.low5 < 16 then useOf f.ty else .none, b := useOf f.ty }
  | .cas => { memEntry f true (f.low5 == 0) [0, 1, 2] with
              tys := intTys4, ms := [0, 1, 2, 3, 4], ss := anyScope, la := true
              d := useOf f.ty, b := useOf f.ty, c := useOf f.ty }
  | .scadd => { memEntry f true (f.low5 == 0) [0, 1, 2] with
                tys := [.ui32, .si32, .f32], ms := [0, 2], ss := anyScope, la := true, b := .r32 }
  | .alb => { memEntry f false (f.low5 == 0) [0] with ll := false }
  | .ale => { fOk := f.f.toNat == 0, ms := [0, 1, 2, 3], ss := anyScope, d := .pred }
  | .fence => { fOk := fIn f 2, ms := if f.f.toNat = 1 then [0] else [1, 2, 3, 4], ss := anyScope }
  | .lvinit => { memEntry f true (f.low5 < 2) [0] with ms := [0, 2], ss := scopeIf f, b := .r32 }
  | .lvarv => { memEntry f true (f.low5 == 0) [0] with ms := [2, 3], ss := anyScope, d := .r32, b := .r32 }
  | .lvwait => { memEntry f true (f.low5 == 0) [0] with ms := [1], ss := anyScope, b := .r32 }
  | .sstep => { memEntry f false (f.low5 == 0) [0] with ll := false, ms := [3], ss := [2, 3] }
  | .wopen => { fOk := f.f.toNat == 0, w2 := 0x77F, d := .r32, a := .r32 }
  | .wclose => { fOk := f.f.toNat == 0, w2 := 0x7F, d := .r32 }
  | .rld => { memEntry f false (f.low5 < 16 && f.size < 5) [0] with ms := [0, 1], ss := [3], la := true, d := useOfSize f.size }
  | .rst => { memEntry f true (f.low5 < 5) [0] with
              ms := [0, 2], ss := [3], la := true, b := useOfSize f.size, ok := !(f.lb && f.size == 4) }
  | .ratom => { memEntry f true (f.low5 % 16 < 9) [0] with
                tys := atomTys (f.low5 % 16) true, ms := [0, 1, 2, 3], ss := [3], la := true
                d := if f.low5 < 16 then useOf f.ty else .none, b := useOf f.ty
                c := if f.low5 % 16 = 8 then useOf f.ty else .none }
  | .pfetch => { memEntry f true (f.low5 < 2) [0] with b := .r32 }
  | .discard => { memEntry f true (f.low5 == 0) [0] with ll := false, d := .r64, b := .r64 }
  | _ => { fOk := fIn f 1 }

/-- Operand modifiers of Word 2: two bits for each of the first n operands (R338). -/
def modsMask (n : Nat) : Nat := 4 ^ n - 1

/-- F of PACK and UNPACK within the fields of a 32-bit register (R349, R350). -/
def packLimit (t : Ty) : Nat := 32 / tyWidth t / 2

/-- Table 12-1. -/
def entryVec (mj : Major) (f : LForm) : Entry :=
  match mj with
  | .fadd | .fmul =>
    { sl := true, ll := true, fOk := fIn f 1, tys := vecTys, ms := anyM, w2 := modsMask 2, d := .r32, a := .r32, b := .r32, lit := .b }
  | .ffma =>
    { ll := true, fOk := fIn f 1, tys := vecTys, ms := anyM, w2 := modsMask 3, d := .r32, a := .r32, b := .r32, c := .r32, lit := .b }
  | .fminmax => { sl := true, ll := true, fOk := fIn f 4, tys := vecTys, w2 := modsMask 2, d := .r32, a := .r32, b := .r32, lit := .b }
  | .fcmp =>
    { fOk := fIn f 8, tys := vecTys, ms := [0, 1, 2, 3], w2 := modsMask 2, d := .pred, a := .r32, b := .r32
      c := if f.m.toNat = 0 then .none else .pred }
  | .fclass => { fOk := fIn f 1, tys := floatTys, w2 := 0x1FF, d := .pred, a := .r32 }
  | .fcvt => { fOk := fIn f 14 && !fIn f 8, tys := floatTys, ms := anyM, d := .r32, a := .r32 }
  | .fcvti => { fOk := fIn f 14 && !fIn f 8, tys := intTys, ms := [0, 1, 2, 3], d := useOf f.ty, a := .r32 }
  | .icvtf => { fOk := fIn f 8, tys := floatTys, ms := anyM, d := .r32, a := useOf (tyOfCode f.f.toNat) }
  | .ex2 | .lg2 | .rcp | .rsq => { fOk := fIn f 1, tys := [.f32], ms := [0, 8], la := true, w2 := modsMask 1, d := .r32, a := .r32 }
  | .fdot2 => { fOk := fIn f 1, tys := [.f16, .bf16], ms := anyM, d := .r32, a := .r32, b := .r32, c := .r32 }
  | .pack =>
    { fOk := fIn f (packLimit f.ty), tys := packTys
      ms := if tySigned f.ty || f.ty == .ui16 || f.ty == .ui8 then [0] else anyM
      d := .r32, a := .r32, b := .r32, c := if tyWidth f.ty = 16 then .none else .r32 }
  | .unpack => { fOk := fIn f (2 * packLimit f.ty), tys := packTys, d := .r32, a := .r32 }
  | .cbdec => { fOk := fIn f 8, tys := [.cb4], w2 := 0xFFFF0000, d := .r32, a := .r32 }
  | _ => { fOk := fIn f 1 }

/-- Table 13-2. -/
def entryMx (mj : Major) (f : LForm) : Entry :=
  let hi := f.f.toNat / 4
  match mj with
  | .mxzero => { fOk := hi == 0, la := true, w2 := 0xFFFF }
  | .plane => { fOk := hi == 0, la := true, ms := anyM, w2 := 0xFFFF0000, a := .r64, b := .r64 }
  | .mxmul => { fOk := hi == 0, la := true, ms := anyM, w2 := 0xFFFF000F, a := .r64, b := .r64 }
  | .mxspm => { ll := true, fOk := hi < 2, la := true, ms := anyM, w2 := 0xFFFF000F, a := .r64, b := .r64, c := .r64, lit := .c }
  | .mxepi =>
    { ll := true, fOk := hi < 32 && hi % 4 != 3, la := true, ms := if hi % 4 = 2 then anyM else [0], w2 := 0xFFFFFFFF
      a := .r64, b := .r64, c := .r64, lit := .c }
  | .mxstore =>
    { ll := hi == 1, fOk := hi < 2, la := true, w2 := 0xFFFF000F, a := .r64, b := .r64
      c := if hi = 1 then .r64 else .none, lit := .c }
  | .mxldacc => { fOk := hi == 0, la := true, w2 := 0xFFFF000F, a := .r64, b := .r64 }
  | .mxscale => { fOk := hi < 2, la := true, w2 := 0xF, a := .r64 }
  | .clmerge => { fOk := hi == 0, la := true, w2 := 0xF, a := .r64 }
  | .slope => { ll := true, fOk := hi == 0, la := true, w2 := 0x3F, c := .r64, lit := .c }
  | _ => { fOk := fIn f 1 }

/-- Table 14-1. The minors of SQOP and REQOP that read no operand B take an LL form too, and ignore its literal (log 134,
DEDUCED). -/
def entryEng (mj : Major) (f : LForm) : Entry :=
  let n := f.f.toNat
  match mj with
  | .cpy | .cpyg => { ll := true, fOk := fIn f 1, la := true, w2 := if f.kind == .ll then 0 else 0xFFFFFFFF, a := .r64, lit := .off }
  | .balloc => { fOk := fIn f 1, la := true, w2 := 0x3F, d := .kpair }
  | .bfree => { ll := true, fOk := fIn f 2, la := true, w2 := 0x3F, d := .r32, a := .r64, lit := .a }
  | .sqop =>
    { ll := true, fOk := fIn f 6, la := true, w2 := if n = 0 then 0x7FF else 0, d := .kpair
      a := if n = 0 then .none else .r64, b := if 0 < n && n < 5 then .r64 else .none, lit := .b }
  | .publish => { ll := true, fOk := fIn f 1, ms := [2], ss := [2, 3, 4], w2 := 0xFFFFFFFF, a := .r64, b := .r64, lit := .b }
  | .retire => { ll := true, fOk := fIn f 8, la := true, d := .r32, a := .r64, b := .r64, c := .r64, lit := .c }
  | .route => { fOk := fIn f 1, la := true, a := .r32, b := .r32 }
  | .rcsnap => { fOk := fIn f 1, la := true, w2 := 0x3FFFF, d := .r64, a := .r64 }
  | .fetchw => { fOk := fIn f 1, la := true, a := .r64 }
  | .reqop =>
    { ll := true, fOk := fIn f 3, w2 := if n = 2 then 0xFF else 0, d := .kpair, a := .r64
      b := if n = 0 then .r64 else .none, lit := .b, ok := n != 2 || f.w2.toNat < 21 }
  | .csrr => { fOk := fIn f 1, w2 := 0xFFF, d := .r64, ok := csrNumbers.contains (csrNumber f) }
  | .csrw => { fOk := fIn f 1, w2 := 0xFFF, a := .r64, ok := csrNumbers.contains (csrNumber f) }
  | .wait => { fOk := fIn f 2, a := if n = 1 then .r64 else .none }
  | .sys =>
    { fOk := fIn f 5, w2 := if n = 2 then 0xFFFF0000 else 0
      a := if n = 0 || n = 2 || n = 4 then .r64 else .none, b := if n = 0 then .r64 else .none }
  | _ => { fOk := fIn f 1 }

/-- The row of the encoding tables for a major, at the field values of `f`. -/
def entry (mj : Major) (f : LForm) : Entry :=
  let op := opOf mj
  if op < 0x30 then entryInt mj f
  else if op < 0x48 then entryMem mj f
  else if op < 0x60 then entryVec mj f
  else if op < 0x6C then entryMx mj f
  else if mj = .dqpush then entryInt mj f
  else entryEng mj f

/-- What the literal of a form replaces: B in LEN 10, the entry's choice in LEN 11 (R200). -/
def litOf (mj : Major) (f : LForm) : Lit :=
  match f.kind with
  | .l => .none
  | .sl => .b
  | .ll => (entry mj f).lit

/-- The use of each register field once a literal has taken its operand (R192). -/
def useD (mj : Major) (f : LForm) : Use := (entry mj f).d
def useA (mj : Major) (f : LForm) : Use := if litOf mj f = .a then .none else (entry mj f).a
def useB (mj : Major) (f : LForm) : Use := if litOf mj f = .b then .none else (entry mj f).b
def useC (mj : Major) (f : LForm) : Use := if litOf mj f = .c then .none else (entry mj f).c

end Sys2Proof.Machine
namespace Sys2Proof

/-- X bit i: 0 for A, 1 for B, 2 for C (Table 7-1). -/
def LForm.xbit (f : LForm) (i : Nat) : Bool := f.x.toNat / 2 ^ i % 2 == 1

end Sys2Proof
namespace Sys2Proof.Machine

/-- R192 for one source field: an unused field is 0, and only a register operand may carry its X bit. -/
def sourceOk (u : Use) (v : BitVec 6) (x : Bool) : Bool :=
  match u with
  | .none => v == 0 && !x
  | .raw | .pred => !x
  | _ => true

/-- R192 and R207 step 3, as far as they do not depend on the stream: every field value is one the entry defines. -/
def fieldsOk (mj : Major) (f : LForm) : Bool :=
  let e := entry mj f
  e.ok && e.fOk && e.tys.contains f.ty && e.ms.contains f.m.toNat && e.ss.contains f.s.toNat
    && (e.la || f.la == 0) && (Nat.land f.w2.toNat e.w2 == f.w2.toNat)
    && (useD mj f != .none || f.d == 0)
    && sourceOk (useA mj f) f.a (f.xbit 0) && sourceOk (useB mj f) f.b (f.xbit 1) && sourceOk (useC mj f) f.c (f.xbit 2)

/-- Table 7-7 and R191: the LEN of a long form, and what a form without Word 1 or without a literal leaves 0. -/
def kindOk (mj : Major) (f : LForm) : Bool :=
  match f.kind with
  | .l => hasLong mj && f.lit == 0
  | .sl => (entry mj f).sl && f.c == 0 && f.f == 0 && f.la == 0 && f.m == 0 && f.s == 0 && f.x == 0 && f.w2 == 0
             && f.ty == shortTy mj
  | .ll => (entry mj f).ll

/-- A defined encoding of a major: `short` for LEN 00. -/
def codedOk (mj : Major) (short : Bool) (f : LForm) : Bool :=
  (if short then hasShort mj else kindOk mj f) && fieldsOk mj f

/-! ### Rows of Instr -/

/-- The major, the shortness and the fields of an instruction row; none for a step that is not an instruction. -/
def coded : Instr → Option (Major × Bool × LForm)
  | .dbgStopall f => some (.csrw, false, f)
  | .dbgcmdResume f => some (.csrw, false, f)
  | .dbgcmdStep f => some (.csrw, false, f)
  | .dbgcmdResumeall f => some (.csrw, false, f)
  | .csrwAccmask f => some (.csrw, false, f)
  | .csrwFifocfg f => some (.csrw, false, f)
  | .braShort g n => some (.bra, true, LForm.raw18 g n)
  | .bra f => some (.bra, false, f)
  | .brxShort f => some (.brx, true, f.long (shortTy .brx))
  | .brx f => some (.brx, false, f)
  | .callShort g n => some (.call, true, LForm.raw18 g n)
  | .call f => some (.call, false, f)
  | .callxShort f => some (.callx, true, f.long (shortTy .callx))
  | .callx f => some (.callx, false, f)
  | .ret f => some (.ret, true, f.long (shortTy .ret))
  | .exit f => some (.exit, true, f.long (shortTy .exit))
  | .syncgShort f => some (.syncg, true, f.long (shortTy .syncg))
  | .syncg f => some (.syncg, false, f)
  | .syncgGrp f => some (.syncg, false, f)
  | .yield f => some (.yield, true, f.long (shortTy .yield))
  | .bkpt g n => some (.bkpt, true, LForm.raw18 g n)
  | .trapShort g n => some (.trap, true, LForm.raw18 g n)
  | .trap f => some (.trap, false, f)
  | .dqpop f => some (.dqpop, true, f.long (shortTy .dqpop))
  | .nopShort f => some (.nop, true, f.long (shortTy .nop))
  | .nop f => some (.nop, false, f)
  | .dqpushShort f => some (.dqpush, true, f.long (shortTy .dqpush))
  | .dqpush f => some (.dqpush, false, f)
  | .addShort f => some (.add, true, f.long (shortTy .add))
  | .add f => some (.add, false, f)
  | .subShort f => some (.sub, true, f.long (shortTy .sub))
  | .sub f => some (.sub, false, f)
  | .mulShort f => some (.mul, true, f.long (shortTy .mul))
  | .mul f => some (.mul, false, f)
  | .mulhShort f => some (.mulh, true, f.long (shortTy .mulh))
  | .mulh f => some (.mulh, false, f)
  | .mad f => some (.mad, false, f)
  | .minmaxShort f => some (.minmax, true, f.long (shortTy .minmax))
  | .minmax f => some (.minmax, false, f)
  | .absnegShort f => some (.absneg, true, f.long (shortTy .absneg))
  | .absneg f => some (.absneg, false, f)
  | .andShort f => some (.and_, true, f.long (shortTy .and_))
  | .and_ f => some (.and_, false, f)
  | .orShort f => some (.or_, true, f.long (shortTy .or_))
  | .or_ f => some (.or_, false, f)
  | .xorShort f => some (.xor_, true, f.long (shortTy .xor_))
  | .xor_ f => some (.xor_, false, f)
  | .tern f => some (.tern, false, f)
  | .shlShort f => some (.shl, true, f.long (shortTy .shl))
  | .shl f => some (.shl, false, f)
  | .shrShort f => some (.shr, true, f.long (shortTy .shr))
  | .shr f => some (.shr, false, f)
  | .sarShort f => some (.sar, true, f.long (shortTy .sar))
  | .sar f => some (.sar, false, f)
  | .bfe f => some (.bfe, false, f)
  | .bfi f => some (.bfi, false, f)
  | .bitcShort f => some (.bitc, true, f.long (shortTy .bitc))
  | .bitc f => some (.bitc, false, f)
  | .movShort f => some (.mov, true, f.long (shortTy .mov))
  | .mov f => some (.mov, false, f)
  | .moviShort g d n => some (.movi, true, LForm.rawMovi g d n)
  | .movi f => some (.movi, false, f)
  | .sel f => some (.sel, false, f)
  | .icmp f => some (.icmp, false, f)
  | .plopShort f => some (.plop, true, f.long (shortTy .plop))
  | .plop f => some (.plop, false, f)
  | .pmovGetShort f => some (.pmov, true, f.long (shortTy .pmov))
  | .pmovGet f => some (.pmov, false, f)
  | .pmovSet f => some (.pmov, false, f)
  | .leaShort f => some (.lea, true, f.long (shortTy .lea))
  | .lea f => some (.lea, false, f)
  | .lxchShort f => some (.lxch, true, f.long (shortTy .lxch))
  | .lxch f => some (.lxch, false, f)
  | .gqryShort f => some (.gqry, true, f.long (shortTy .gqry))
  | .gqry f => some (.gqry, false, f)
  | .redgShort f => some (.redg, true, f.long (shortTy .redg))
  | .redg f => some (.redg, false, f)
  | .scangShort f => some (.scang, true, f.long (shortTy .scang))
  | .scang f => some (.scang, false, f)
  | .srdShort f => some (.srd, true, f.long (shortTy .srd))
  | .srd f => some (.srd, false, f)
  | .cvti f => some (.cvti, false, f)
  | .ld f => some (.ld, false, f)
  | .st f => some (.st, false, f)
  | .ldt f => some (.ldt, false, f)
  | .stt f => some (.stt, false, f)
  | .ldnr f => some (.ldnr, false, f)
  | .atom f => some (.atom, false, f)
  | .cas f => some (.cas, false, f)
  | .scadd f => some (.scadd, false, f)
  | .alb f => some (.alb, false, f)
  | .ale f => some (.ale, false, f)
  | .fence f => some (.fence, false, f)
  | .fenceAlias f => some (.fence, false, f)
  | .lvinit f => some (.lvinit, false, f)
  | .lvarv f => some (.lvarv, false, f)
  | .lvwait f => some (.lvwait, false, f)
  | .sstepDev f => some (.sstep, false, f)
  | .sstepFab f => some (.sstep, false, f)
  | .wopen f => some (.wopen, false, f)
  | .wclose f => some (.wclose, false, f)
  | .rld f => some (.rld, false, f)
  | .rst f => some (.rst, false, f)
  | .ratom f => some (.ratom, false, f)
  | .pfetch f => some (.pfetch, false, f)
  | .discard f => some (.discard, false, f)
  | .faddShort f => some (.fadd, true, f.long (shortTy .fadd))
  | .fadd f => some (.fadd, false, f)
  | .fmulShort f => some (.fmul, true, f.long (shortTy .fmul))
  | .fmul f => some (.fmul, false, f)
  | .ffma f => some (.ffma, false, f)
  | .fminmaxShort f => some (.fminmax, true, f.long (shortTy .fminmax))
  | .fminmax f => some (.fminmax, false, f)
  | .fcmp f => some (.fcmp, false, f)
  | .fclass f => some (.fclass, false, f)
  | .fcvt f => some (.fcvt, false, f)
  | .fcvti f => some (.fcvti, false, f)
  | .icvtf f => some (.icvtf, false, f)
  | .ex2Short f => some (.ex2, true, f.long (shortTy .ex2))
  | .ex2 f => some (.ex2, false, f)
  | .lg2Short f => some (.lg2, true, f.long (shortTy .lg2))
  | .lg2 f => some (.lg2, false, f)
  | .rcpShort f => some (.rcp, true, f.long (shortTy .rcp))
  | .rcp f => some (.rcp, false, f)
  | .rsqShort f => some (.rsq, true, f.long (shortTy .rsq))
  | .rsq f => some (.rsq, false, f)
  | .fdot2 f => some (.fdot2, false, f)
  | .pack f => some (.pack, false, f)
  | .unpack f => some (.unpack, false, f)
  | .cbdec f => some (.cbdec, false, f)
  | .mxzero f => some (.mxzero, false, f)
  | .plane f => some (.plane, false, f)
  | .mxmul f => some (.mxmul, false, f)
  | .mxspm f => some (.mxspm, false, f)
  | .mxepi f => some (.mxepi, false, f)
  | .mxstore f => some (.mxstore, false, f)
  | .mxldacc f => some (.mxldacc, false, f)
  | .mxscaleAlpha f => some (.mxscale, false, f)
  | .mxscaleFinal f => some (.mxscale, false, f)
  | .clmerge f => some (.clmerge, false, f)
  | .slope f => some (.slope, false, f)
  | .cpy f => some (.cpy, false, f)
  | .cpyg f => some (.cpyg, false, f)
  | .balloc f => some (.balloc, false, f)
  | .bfreeRel f => some (.bfree, false, f)
  | .bfreeAddref f => some (.bfree, false, f)
  | .sqopCreate f => some (.sqop, false, f)
  | .sqopAppend f => some (.sqop, false, f)
  | .sqopXlate f => some (.sqop, false, f)
  | .sqopFork f => some (.sqop, false, f)
  | .sqopTrim f => some (.sqop, false, f)
  | .sqopDrop f => some (.sqop, false, f)
  | .rsenter f => some (.rsenter, true, f.long (shortTy .rsenter))
  | .rsleave f => some (.rsleave, true, f.long (shortTy .rsleave))
  | .publish f => some (.publish, false, f)
  | .retire f => some (.retire, false, f)
  | .route f => some (.route, false, f)
  | .rcsnap f => some (.rcsnap, false, f)
  | .fetchw f => some (.fetchw, false, f)
  | .reqopEmit f => some (.reqop, false, f)
  | .reqopCancel f => some (.reqop, false, f)
  | .reqopGet f => some (.reqop, false, f)
  | .csrr f => some (.csrr, false, f)
  | .csrw f => some (.csrw, false, f)
  | .eret f => some (.eret, true, f.long (shortTy .eret))
  | .waitEng f => some (.wait, false, f)
  | .waitCyc f => some (.wait, false, f)
  | .sysTlbinv f => some (.sys, false, f)
  | .sysTlbinvPart f => some (.sys, false, f)
  | .sysTdset f => some (.sys, false, f)
  | .sysHalt f => some (.sys, false, f)
  | .sysDbg f => some (.sys, false, f)
  | _ => none

/-- The row of a short form. -/
def ofShort (mj : Major) (f : LForm) : Option Instr :=
  match mj with
  | .bra => some (.braShort f.g f.n18)
  | .brx => some (.brxShort f.short)
  | .call => some (.callShort f.g f.n18)
  | .callx => some (.callxShort f.short)
  | .ret => some (.ret f.short)
  | .exit => some (.exit f.short)
  | .syncg => some (.syncgShort f.short)
  | .yield => some (.yield f.short)
  | .bkpt => some (.bkpt f.g f.n18)
  | .trap => some (.trapShort f.g f.n18)
  | .dqpop => some (.dqpop f.short)
  | .nop => some (.nopShort f.short)
  | .add => some (.addShort f.short)
  | .sub => some (.subShort f.short)
  | .mul => some (.mulShort f.short)
  | .mulh => some (.mulhShort f.short)
  | .mad => none
  | .minmax => some (.minmaxShort f.short)
  | .absneg => some (.absnegShort f.short)
  | .and_ => some (.andShort f.short)
  | .or_ => some (.orShort f.short)
  | .xor_ => some (.xorShort f.short)
  | .tern => none
  | .shl => some (.shlShort f.short)
  | .shr => some (.shrShort f.short)
  | .sar => some (.sarShort f.short)
  | .bfe => none
  | .bfi => none
  | .bitc => some (.bitcShort f.short)
  | .mov => some (.movShort f.short)
  | .movi => some (.moviShort f.g f.d f.n12)
  | .sel => none
  | .icmp => none
  | .plop => some (.plopShort f.short)
  | .pmov => some (.pmovGetShort f.short)
  | .lea => some (.leaShort f.short)
  | .lxch => some (.lxchShort f.short)
  | .gqry => some (.gqryShort f.short)
  | .redg => some (.redgShort f.short)
  | .scang => some (.scangShort f.short)
  | .srd => some (.srdShort f.short)
  | .cvti => none
  | .ld => none
  | .st => none
  | .ldt => none
  | .stt => none
  | .ldnr => none
  | .atom => none
  | .cas => none
  | .scadd => none
  | .alb => none
  | .ale => none
  | .fence => none
  | .lvinit => none
  | .lvarv => none
  | .lvwait => none
  | .sstep => none
  | .wopen => none
  | .wclose => none
  | .rld => none
  | .rst => none
  | .ratom => none
  | .pfetch => none
  | .discard => none
  | .fadd => some (.faddShort f.short)
  | .fmul => some (.fmulShort f.short)
  | .ffma => none
  | .fminmax => some (.fminmaxShort f.short)
  | .fcmp => none
  | .fclass => none
  | .fcvt => none
  | .fcvti => none
  | .icvtf => none
  | .ex2 => some (.ex2Short f.short)
  | .lg2 => some (.lg2Short f.short)
  | .rcp => some (.rcpShort f.short)
  | .rsq => some (.rsqShort f.short)
  | .fdot2 => none
  | .pack => none
  | .unpack => none
  | .cbdec => none
  | .mxzero => none
  | .plane => none
  | .mxmul => none
  | .mxspm => none
  | .mxepi => none
  | .mxstore => none
  | .mxldacc => none
  | .mxscale => none
  | .clmerge => none
  | .slope => none
  | .cpy => none
  | .cpyg => none
  | .balloc => none
  | .bfree => none
  | .sqop => none
  | .rsenter => some (.rsenter f.short)
  | .rsleave => some (.rsleave f.short)
  | .publish => none
  | .retire => none
  | .route => none
  | .rcsnap => none
  | .fetchw => none
  | .reqop => none
  | .dqpush => some (.dqpushShort f.short)
  | .csrr => none
  | .csrw => none
  | .eret => some (.eret f.short)
  | .wait => none
  | .sys => none

/-- The row of a long or literal form; rows of one major are told apart by F, by S (SSTEP) or by the control
register number (CSRW). -/
def ofLong (mj : Major) (f : LForm) : Option Instr :=
  match mj with
  | .bra => some (.bra f)
  | .brx => some (.brx f)
  | .call => some (.call f)
  | .callx => some (.callx f)
  | .ret => none
  | .exit => none
  | .syncg => if f.f.toNat = 0 then some (.syncg f) else if f.f.toNat = 1 then some (.syncgGrp f) else none
  | .yield => none
  | .bkpt => none
  | .trap => some (.trap f)
  | .dqpop => none
  | .nop => some (.nop f)
  | .add => some (.add f)
  | .sub => some (.sub f)
  | .mul => some (.mul f)
  | .mulh => some (.mulh f)
  | .mad => some (.mad f)
  | .minmax => some (.minmax f)
  | .absneg => some (.absneg f)
  | .and_ => some (.and_ f)
  | .or_ => some (.or_ f)
  | .xor_ => some (.xor_ f)
  | .tern => some (.tern f)
  | .shl => some (.shl f)
  | .shr => some (.shr f)
  | .sar => some (.sar f)
  | .bfe => some (.bfe f)
  | .bfi => some (.bfi f)
  | .bitc => some (.bitc f)
  | .mov => some (.mov f)
  | .movi => some (.movi f)
  | .sel => some (.sel f)
  | .icmp => some (.icmp f)
  | .plop => some (.plop f)
  | .pmov => if f.f.toNat = 0 then some (.pmovGet f) else if f.f.toNat = 1 then some (.pmovSet f) else none
  | .lea => some (.lea f)
  | .lxch => some (.lxch f)
  | .gqry => some (.gqry f)
  | .redg => some (.redg f)
  | .scang => some (.scang f)
  | .srd => some (.srd f)
  | .cvti => some (.cvti f)
  | .ld => some (.ld f)
  | .st => some (.st f)
  | .ldt => some (.ldt f)
  | .stt => some (.stt f)
  | .ldnr => some (.ldnr f)
  | .atom => some (.atom f)
  | .cas => some (.cas f)
  | .scadd => some (.scadd f)
  | .alb => some (.alb f)
  | .ale => some (.ale f)
  | .fence => if f.f.toNat = 0 then some (.fence f) else if f.f.toNat = 1 then some (.fenceAlias f) else none
  | .lvinit => some (.lvinit f)
  | .lvarv => some (.lvarv f)
  | .lvwait => some (.lvwait f)
  | .sstep => if (f.s.toNat - 2) = 0 then some (.sstepDev f) else if (f.s.toNat - 2) = 1 then some (.sstepFab f) else none
  | .wopen => some (.wopen f)
  | .wclose => some (.wclose f)
  | .rld => some (.rld f)
  | .rst => some (.rst f)
  | .ratom => some (.ratom f)
  | .pfetch => some (.pfetch f)
  | .discard => some (.discard f)
  | .fadd => some (.fadd f)
  | .fmul => some (.fmul f)
  | .ffma => some (.ffma f)
  | .fminmax => some (.fminmax f)
  | .fcmp => some (.fcmp f)
  | .fclass => some (.fclass f)
  | .fcvt => some (.fcvt f)
  | .fcvti => some (.fcvti f)
  | .icvtf => some (.icvtf f)
  | .ex2 => some (.ex2 f)
  | .lg2 => some (.lg2 f)
  | .rcp => some (.rcp f)
  | .rsq => some (.rsq f)
  | .fdot2 => some (.fdot2 f)
  | .pack => some (.pack f)
  | .unpack => some (.unpack f)
  | .cbdec => some (.cbdec f)
  | .mxzero => some (.mxzero f)
  | .plane => some (.plane f)
  | .mxmul => some (.mxmul f)
  | .mxspm => some (.mxspm f)
  | .mxepi => some (.mxepi f)
  | .mxstore => some (.mxstore f)
  | .mxldacc => some (.mxldacc f)
  | .mxscale => if (f.f.toNat / 4 % 4) = 0 then some (.mxscaleAlpha f) else if (f.f.toNat / 4 % 4) = 1 then some (.mxscaleFinal f) else none
  | .clmerge => some (.clmerge f)
  | .slope => some (.slope f)
  | .cpy => some (.cpy f)
  | .cpyg => some (.cpyg f)
  | .balloc => some (.balloc f)
  | .bfree => if f.f.toNat = 0 then some (.bfreeRel f) else if f.f.toNat = 1 then some (.bfreeAddref f) else none
  | .sqop => if f.f.toNat = 0 then some (.sqopCreate f) else if f.f.toNat = 1 then some (.sqopAppend f) else if f.f.toNat = 2 then some (.sqopXlate f) else if f.f.toNat = 3 then some (.sqopFork f) else if f.f.toNat = 4 then some (.sqopTrim f) else if f.f.toNat = 5 then some (.sqopDrop f) else none
  | .rsenter => none
  | .rsleave => none
  | .publish => some (.publish f)
  | .retire => some (.retire f)
  | .route => some (.route f)
  | .rcsnap => some (.rcsnap f)
  | .fetchw => some (.fetchw f)
  | .reqop => if f.f.toNat = 0 then some (.reqopEmit f) else if f.f.toNat = 1 then some (.reqopCancel f) else if f.f.toNat = 2 then some (.reqopGet f) else none
  | .dqpush => some (.dqpush f)
  | .csrr => some (.csrr f)
  | .csrw => some (if csrNumber f = 0x20 then .csrwAccmask f else if csrNumber f = 0x18 then .csrwFifocfg f else .csrw f)
  | .eret => none
  | .wait => if f.f.toNat = 0 then some (.waitEng f) else if f.f.toNat = 1 then some (.waitCyc f) else none
  | .sys => if f.f.toNat = 0 then some (.sysTlbinv f) else if f.f.toNat = 1 then some (.sysTlbinvPart f) else if f.f.toNat = 2 then some (.sysTdset f) else if f.f.toNat = 3 then some (.sysHalt f) else if f.f.toNat = 4 then some (.sysDbg f) else none

/-- Bytes of an instruction (R189). -/
def codedLen (short : Bool) (f : LForm) : Nat :=
  if short then 4 else match f.kind with | .l => 12 | .sl => 12 | .ll => 20

/-- The byte length of an instruction row, 0 for any other step. -/
def instrLen (i : Instr) : Nat :=
  match coded i with
  | some (_, sh, f) => codedLen sh f
  | none => 0

end Sys2Proof.Machine
end

