-- ==== Sys2Proof/Machine/Arith.lean ====
section
/-! DEFINITION. Integer types and their wrapping and saturation (R219), and the bit-field helpers everything uses. -/

namespace Sys2Proof.Machine

/-- The n-bit two's-complement value of x (sx of R221). -/
def sx (n x : Nat) : Int := if x % 2 ^ n < 2 ^ (n - 1) then (x % 2 ^ n : Nat) else (x % 2 ^ n : Nat) - (2 ^ n : Nat)

/-- x mod 2^n as a natural number, for any integer. -/
def wrapN (n : Nat) (x : Int) : Nat := (x % (2 ^ n : Nat)).toNat

/-- Bits hi:lo of a number. -/
def bitsAt (x hi lo : Nat) : Nat := x / 2 ^ lo % 2 ^ (hi - lo + 1)

/-- Bit i of a number. -/
def bitAt (x i : Nat) : Bool := x / 2 ^ i % 2 == 1

/-- 1 for true. -/
def b2n (b : Bool) : Nat := if b then 1 else 0

/-- val(T, x) of R219. -/
def val (t : Ty) (x : Nat) : Int :=
  if tySigned t then sx (tyWidth t) x else ((x % 2 ^ tyWidth t : Nat) : Int)

/-- The least value of an integer type. -/
def tyMin (t : Ty) : Int := if tySigned t then -((2 ^ (tyWidth t - 1) : Nat) : Int) else 0

/-- The greatest value of an integer type. -/
def tyMax (t : Ty) : Int :=
  if tySigned t then ((2 ^ (tyWidth t - 1) : Nat) : Int) - 1 else ((2 ^ tyWidth t : Nat) : Int) - 1

/-- clamp(x, T) of R219. -/
def clampTy (x : Int) (t : Ty) : Int := max (tyMin t) (min x (tyMax t))

/-- The pattern of wr(T, x) as it stands in a 32-bit register for w < 64, or in 64 bits (R219). -/
def wrBits (t : Ty) (x : Int) : Nat :=
  let p := wrapN (tyWidth t) x
  if tyWidth t < 32 then wrapN 32 (if tySigned t then sx (tyWidth t) p else (p : Int)) else p

/-- A w-bit result extended to 64 bits as a k-register takes it (R195): signed for the signed types. -/
def kExtend (t : Ty) (x : Nat) : Nat :=
  if tyWidth t = 64 then x % 2 ^ 64 else if tySigned t then wrapN 64 (sx (tyWidth t) x) else x % 2 ^ 32

/-- Saturation when M = 1 (R231, R232, R240). -/
def satIf (m : Bool) (x : Int) (t : Ty) : Int := if m then clampTy x t else x

/-- The number of one bits among the low n bits. -/
def popcount : Nat → Nat → Nat
  | 0, _ => 0
  | n + 1, x => x % 2 + popcount n (x / 2)

/-- The number of zeros below the lowest one bit, n if there is none. -/
def ctz : Nat → Nat → Nat
  | 0, _ => 0
  | n + 1, x => if x % 2 = 1 then 0 else 1 + ctz n (x / 2)

/-- The low n bits in opposite order. -/
def brev : Nat → Nat → Nat
  | 0, _ => 0
  | n + 1, x => x % 2 * 2 ^ n + brev n (x / 2)

/-- The number of bits above the highest one bit of an n-bit number. -/
def clz (n x : Nat) : Nat := ctz n (brev n x)

/-- The little-endian bytes of a number. -/
def bytesOf : Nat → Nat → List Byte
  | 0, _ => []
  | n + 1, x => BitVec.ofNat 8 x :: bytesOf n (x / 256)

/-- The number in little-endian bytes. -/
def ofBytes : List Byte → Nat
  | [] => 0
  | b :: bs => b.toNat + 256 * ofBytes bs

/-- The ceiling of a / b. -/
def ceilDiv (a b : Nat) : Nat := (a + b - 1) / b

/-- The n-th element of a list, or a default. -/
def nthD {α : Type} (d : α) : List α → Nat → α
  | [], _ => d
  | x :: _, 0 => x
  | _ :: xs, n + 1 => nthD d xs n

/-- A list with its n-th element replaced. -/
def nthSet {α : Type} (y : α) : List α → Nat → List α
  | [], _ => []
  | _ :: xs, 0 => y :: xs
  | x :: xs, n + 1 => x :: nthSet y xs n

end Sys2Proof.Machine
end

