-- ==== Sys2Proof/Machine/Number.lean ====
section
/-! DEFINITION. Number formats and arithmetic rules (spec/11_number_formats.md): exact values, Decode, Round, Encode,
block scales, plane blocks, BlockAlign, ChunkSum, FAdd32 (R291), and the exact functions behind the transcendental
instructions (R353, R354). Values are exact fractions with a sign, so that every rounding is visible where it is made. -/

namespace Sys2Proof.Machine

/-- An exact value: NaN, an infinity, or ± n / d with d positive, zeros signed. -/
inductive XVal where
  | nan
  | inf (neg : Bool)
  | fin (neg : Bool) (n d : Nat)
  deriving DecidableEq, Repr

/-- +0. -/
def xzero : XVal := .fin false 0 1

def XVal.isNan : XVal → Bool | .nan => true | _ => false
def XVal.isFin : XVal → Bool | .fin _ _ _ => true | _ => false
def XVal.isZero : XVal → Bool | .fin _ n _ => n == 0 | _ => false
def XVal.isNeg : XVal → Bool | .nan => false | .inf s => s | .fin s _ _ => s

/-- n / d times 2^k. -/
def scaleQ (n d : Nat) (k : Int) : Nat × Nat := if 0 ≤ k then (n * 2 ^ k.toNat, d) else (n, d * 2 ^ (-k).toNat)

/-- The exact value ± n / d · 2^k. -/
def xscaled (neg : Bool) (n d : Nat) (k : Int) : XVal := let q := scaleQ n d k; .fin neg q.1 q.2

/-- x · 2^k. -/
def XVal.scale (x : XVal) (k : Int) : XVal := match x with | .fin s n d => xscaled s n d k | y => y

/-- The exact value of an integer; zero has no sign (R316). -/
def xint (x : Int) : XVal := .fin (decide (x < 0)) x.natAbs 1

/-- floor(log2 (n / d)) for n, d positive. -/
def log2Q (n d : Nat) : Int :=
  let e : Int := (n.log2 : Int) - (d.log2 : Int)
  let q := scaleQ n d (-e)
  if q.1 < q.2 then e - 1 else e

/-- |x| < |y| for fractions. -/
def ltQ (n d n' d' : Nat) : Bool := decide (n * d' < n' * d)

/-- The magnitude ± n / d rounded to an integer magnitude under mode rm of Table 11-7. -/
def roundQ (rm : Nat) (neg : Bool) (n d : Nat) : Nat :=
  let q := n / d
  let r := n % d
  let up := match rm with
    | 0 => decide (d < 2 * r) || (decide (2 * r = d) && q % 2 == 1)
    | 1 => false
    | 2 => neg && decide (0 < r)
    | _ => !neg && decide (0 < r)
  if up then q + 1 else q

/-- RNE(x, INT) of a finite value as an integer (R326). -/
def rneInt (x : XVal) : Int :=
  match x with
  | .fin s n d => let m : Int := roundQ 0 s n d; if s then -m else m
  | _ => 0

/-- Exact addition of signed fractions; a zero sum is +0, or −0 under RDN, unless every addend is −0 (R341). -/
def addFin (rm : Nat) (s : Bool) (n d : Nat) (s' : Bool) (n' d' : Nat) : XVal :=
  let (a, b, e) :=
    if d = d' then (n, n', d)
    else if d' % d = 0 then (n * (d' / d), n', d')
    else if d % d' = 0 then (n, n' * (d / d'), d)
    else (n * d', n' * d, d * d')
  if s == s' then .fin s (a + b) e
  else if b < a then .fin s (a - b) e
  else if a < b then .fin s' (b - a) e
  else .fin (rm == 2) 0 1

/-- Exact sum with the special cases of R340 and R341. -/
def xadd (rm : Nat) (x y : XVal) : XVal :=
  match x, y with
  | .nan, _ => .nan
  | _, .nan => .nan
  | .inf s, .inf s' => if s == s' then .inf s else .nan
  | .inf s, _ => .inf s
  | _, .inf s => .inf s
  | .fin s n d, .fin s' n' d' => addFin rm s n d s' n' d'

/-- Exact product with the special cases of R340. -/
def xmul (x y : XVal) : XVal :=
  match x, y with
  | .nan, _ => .nan
  | _, .nan => .nan
  | .inf s, .inf s' => .inf (s != s')
  | .inf s, .fin s' n _ => if n = 0 then .nan else .inf (s != s')
  | .fin s n _, .inf s' => if n = 0 then .nan else .inf (s != s')
  | .fin s n d, .fin s' n' d' => .fin (s != s') (n * n') (d * d')

/-- Exact quotient as R374 uses it: NaN, ∞/∞ and 0/0 give NaN. -/
def xdiv (x y : XVal) : XVal :=
  match x, y with
  | .nan, _ => .nan
  | _, .nan => .nan
  | .inf _, .inf _ => .nan
  | .inf s, .fin s' _ _ => .inf (s != s')
  | .fin s _ _, .inf s' => .fin (s != s') 0 1
  | .fin s n d, .fin s' n' d' =>
    if n' = 0 then (if n = 0 then .nan else .inf (s != s')) else .fin (s != s') (n * d') (d * n')

/-- Exact sum of a list (R340, R341 applied to each term). -/
def xsum (rm : Nat) : List XVal → XVal
  | [] => xzero
  | [x] => x
  | x :: xs => xadd rm x (xsum rm xs)

def XVal.neg : XVal → XVal
  | .nan => .nan
  | .inf s => .inf (!s)
  | .fin s n d => .fin (!s) n d

def XVal.abs : XVal → XVal
  | .nan => .nan
  | .inf _ => .inf false
  | .fin _ n d => .fin false n d

/-- x < y for values that are not NaN, zeros equal. -/
def xlt (x y : XVal) : Bool :=
  match x, y with
  | .nan, _ => false
  | _, .nan => false
  | .inf s, .inf s' => s && !s'
  | .inf s, .fin _ _ _ => s
  | .fin _ _ _, .inf s => !s
  | .fin s n d, .fin s' n' d' =>
    if n = 0 ∧ n' = 0 then false
    else if s && !s' then true
    else if !s && s' then false
    else if s then ltQ n' d' n d
    else ltQ n d n' d'

/-- x = y for values that are not NaN, zeros equal. -/
def xeq (x y : XVal) : Bool := !x.isNan && !y.isNan && !xlt x y && !xlt y x

/-- The greater of two values, neither NaN. -/
def xmax (x y : XVal) : XVal := if xlt x y then y else x

/-! ### Floating-point formats -/

/-- A row of Table 11-2. `top` is the code of the largest finite value. -/
structure FFmt where
  eb : Nat
  fb : Nat
  bias : Nat
  hasInf : Bool
  hasNan : Bool
  top : Nat
  qnan : Nat
  deriving DecidableEq, Repr

def fF32 : FFmt := ⟨8, 23, 127, true, true, 0x7F7FFFFF, 0x7FC00000⟩
def fF16 : FFmt := ⟨5, 10, 15, true, true, 0x7BFF, 0x7E00⟩
def fBF16 : FFmt := ⟨8, 7, 127, true, true, 0x7F7F, 0x7FC0⟩
def fE4M3 : FFmt := ⟨4, 3, 7, false, true, 0x7E, 0x7F⟩
def fE5M2 : FFmt := ⟨5, 2, 15, true, true, 0x7B, 0x7E⟩
def fE2M1 : FFmt := ⟨2, 1, 1, false, false, 0x7, 0⟩

/-- The format of a floating-point type of Table 7-4. -/
def fmtOfTy : Ty → FFmt
  | .f16 => fF16 | .bf16 => fBF16 | .f8e4m3 => fE4M3 | .f8e5m2 => fE5M2 | .f4e2m1 => fE2M1 | _ => fF32

/-- The width of a format in bits. -/
def FFmt.width (g : FFmt) : Nat := 1 + g.eb + g.fb

/-- Decode(fmt, bits) (R314, R315). -/
def decodeF (g : FFmt) (bits : Nat) : XVal :=
  let mag := bits % 2 ^ (g.eb + g.fb)
  let s := bitAt bits (g.eb + g.fb)
  let e := mag / 2 ^ g.fb
  let f := mag % 2 ^ g.fb
  if g.top < mag then (if g.hasInf && f == 0 then .inf s else .nan)
  else if e = 0 then xscaled s f (2 ^ g.fb) (1 - (g.bias : Int))
  else xscaled s (2 ^ g.fb + f) (2 ^ g.fb) ((e : Int) - g.bias)

/-- What an encode records (R327): a saturation, a flush, a NaN. -/
structure Counts where
  sat : Nat
  ftz : Nat
  nan : Nat
  deriving DecidableEq, Repr

def Counts.zero : Counts := ⟨0, 0, 0⟩
def Counts.add (a b : Counts) : Counts := ⟨a.sat + b.sat, a.ftz + b.ftz, a.nan + b.nan⟩

/-- The magnitude code of Round(± n / d, fmt, rm), the exponent unbounded above (R326). -/
def roundCode (g : FFmt) (rm : Nat) (neg : Bool) (n d : Nat) : Nat :=
  if n = 0 then 0
  else
    let emin : Int := 1 - (g.bias : Int)
    let e := max (log2Q n d) emin
    let q := scaleQ n d ((g.fb : Int) - e)
    (e - emin).toNat * 2 ^ g.fb + roundQ rm neg q.1 q.2

/-- Encode of a floating-point format (R327, R328). -/
def encodeF (g : FFmt) (x : XVal) (rm : Nat) (ftz satm : Bool) : Nat × Counts :=
  let sgn := fun (s : Bool) => b2n s * 2 ^ (g.eb + g.fb)
  match x with
  | .nan => (g.qnan, ⟨0, 0, 1⟩)
  | .inf s => if g.hasInf then (sgn s + g.top + 1, .zero) else (sgn s + g.top, ⟨1, 0, 0⟩)
  | .fin s n d =>
    let q := scaleQ 1 1 (1 - (g.bias : Int))
    if ftz && n != 0 && ltQ n d q.1 q.2 then (sgn s, ⟨0, 1, 0⟩)
    else
      let c := roundCode g rm s n d
      if g.top < c then
        let away := rm == 0 || (rm == 2 && s) || (rm == 3 && !s)
        if g.hasInf && !satm && away then (sgn s + g.top + 1, ⟨1, 0, 0⟩) else (sgn s + g.top, ⟨1, 0, 0⟩)
      else (sgn s + c, .zero)

/-- Encode into an n-bit integer format (R327). -/
def encodeI (w : Nat) (x : XVal) (rm : Nat) : Nat × Counts :=
  let lo : Int := -((2 ^ (w - 1) : Nat) : Int)
  let hi : Int := ((2 ^ (w - 1) : Nat) : Int) - 1
  match x with
  | .nan => (0, ⟨0, 0, 1⟩)
  | .inf s => (wrapN w (if s then lo else hi), ⟨1, 0, 0⟩)
  | .fin s n d =>
    let m : Int := roundQ rm s n d
    let r := if s then -m else m
    if r < lo ∨ hi < r then (wrapN w (max lo (min r hi)), ⟨1, 0, 0⟩) else (wrapN w r, .zero)

/-- Encode(F32, x, RNE, 0, 0), the single rounding of the engines' sums. -/
def enc32 (x : XVal) : Nat := (encodeF fF32 x 0 false false).1

/-- Decode of an F32 code. -/
def dec32 (x : Nat) : XVal := decodeF fF32 x

/-- FAdd32 of R291. -/
def fadd32 (m x : Nat) : Nat := enc32 (xadd 0 (dec32 m) (dec32 x))

/-- Round(x, INT, rm) clamped to [lo, hi], infinities to the ends, NaN 0 (R346). -/
def toIntClamped (x : XVal) (rm : Nat) (lo hi : Int) : Int :=
  match x with
  | .nan => 0
  | .inf s => if s then lo else hi
  | .fin s n d => let m : Int := roundQ rm s n d; max lo (min (if s then -m else m) hi)

/-! ### Tensor element formats (Table 11-1) -/

/-- Table 11-1: the element width in bits; 0 for plane forms and codes not listed. -/
def fmtWidth (c : Nat) : Nat :=
  match c with
  | 0x00 => 32 | 0x01 => 16 | 0x02 => 16 | 0x03 => 8 | 0x04 => 8 | 0x05 => 4 | 0x06 => 8 | 0x07 => 4 | 0x08 => 4
  | 0x09 => 32 | 0x0A => 8 | 0x10 => 8 | 0x11 => 8 | 0x12 => 4 | 0x13 => 8 | 0x14 => 4 | _ => 0

/-- The codes of Table 11-1. -/
def fmtListed (c : Nat) : Bool := c ≤ 0x0A || (0x10 ≤ c && c ≤ 0x14) || (0x20 ≤ c && c ≤ 0x2F)

/-- The block-scaled formats. -/
def fmtBlock (c : Nat) : Bool := 0x10 ≤ c && c ≤ 0x14

/-- The base format of a block-scaled one. -/
def fmtBase (c : Nat) : Nat :=
  match c with
  | 0x10 => 0x03 | 0x11 => 0x04 | 0x12 => 0x05 | 0x13 => 0x06 | 0x14 => 0x07 | x => x

/-- Decode of an element of a format that is not block-scaled; `cb` gives the codebook's BF16 codes (R320). -/
def decodeEl (c : Nat) (cb : Nat → Nat) (bits : Nat) : XVal :=
  match c with
  | 0x00 => decodeF fF32 bits | 0x01 => decodeF fF16 bits | 0x02 => decodeF fBF16 bits | 0x03 => decodeF fE4M3 bits
  | 0x04 => decodeF fE5M2 bits | 0x05 => decodeF fE2M1 bits | 0x06 => xint (sx 8 bits) | 0x07 => xint (sx 4 bits)
  | 0x08 => decodeF fBF16 (cb (bits % 16)) | _ => xint (sx 32 bits)

/-- Encode of an element of a format that is not block-scaled (R327). -/
def encodeEl (c : Nat) (x : XVal) (rm : Nat) (ftz satm : Bool) : Nat × Counts :=
  match c with
  | 0x00 => encodeF fF32 x rm ftz satm | 0x01 => encodeF fF16 x rm ftz satm | 0x02 => encodeF fBF16 x rm ftz satm
  | 0x03 => encodeF fE4M3 x rm ftz satm | 0x04 => encodeF fE5M2 x rm ftz satm | 0x05 => encodeF fE2M1 x rm ftz satm
  | 0x06 => encodeI 8 x rm | 0x07 => encodeI 4 x rm | _ => encodeI 32 x rm

/-- The exponent of a scale byte, 0xFF read as 2^127 (R317, R323). -/
def scaleExp (x : Nat) : Int := if x % 256 = 255 then 127 else (x % 256 : Nat) - 127

/-- The greatest floor(log2 |x|) over the finite nonzero elements. -/
def maxLog2 : List XVal → Option Int
  | [] => none
  | .fin _ n d :: xs => if n = 0 then maxLog2 xs else match maxLog2 xs with
      | none => some (log2Q n d)
      | some e => some (max e (log2Q n d))
  | _ :: xs => maxLog2 xs

/-- R329: the scale byte and the eight codes of a block. -/
def encodeBlock (c : Nat) (xs : List XVal) (rm : Nat) (ftz satm : Bool) : Nat × List Nat × Counts :=
  let emax : Int := match c with | 0x10 => 8 | 0x11 => 15 | 0x12 => 2 | 0x13 => 6 | _ => 2
  let x : Int := match maxLog2 xs with | none => 127 | some e => max 0 (min (e - emax + 127) 254)
  let es := xs.map fun v => encodeEl (fmtBase c) (v.scale (127 - x)) rm ftz satm
  (x.toNat, es.map (·.1), es.foldl (fun a e => a.add e.2) .zero)

/-! ### Plane form (R321, R322) -/

/-- A plane-form block: its header and its eight mantissas. -/
structure PlaneBlock where
  header : Nat
  ms : List Int
  deriving DecidableEq, Repr

/-- Bits of a predicate over the first eight elements. -/
def maskOf (p : XVal → Bool) : List XVal → Nat
  | [] => 0
  | x :: xs => b2n (p x) + 2 * maskOf p xs

/-- The mantissas of a block at shared exponent X (R322). -/
def planeMs (p : Nat) (xs : List XVal) (x : Int) : List Int :=
  xs.map fun v => rneInt (v.scale ((p : Int) - 2 - (x - 127)))

/-- Encode(PLANEp, x[0..7]) (R322). One increment of X below the clamp suffices, as the rule's text says. X never exceeds
254, its clamp: mantissas that then leave the range are clamped and counted (R323, log 109, DEDUCED). -/
def encodePlane (p : Nat) (xs : List XVal) : PlaneBlock × Counts :=
  let lim : Int := ((2 ^ (p - 1) : Nat) : Int)
  let x0 : Int := match maxLog2 xs with | none => 127 | some e => min (max (e + 127) 0) 254
  let m0 := planeMs p xs x0
  let again := m0.any (· == lim) && decide (x0 < 254)
  let x := if again then x0 + 1 else x0
  let m := if again then planeMs p xs x else m0
  let beyond := fun (k : Int) => decide (lim ≤ k) || decide (k < -lim)
  let sat := (m.filter beyond).length
  let nan := (xs.filter (·.isNan)).length
  let infm := maskOf (fun v => match v with | .inf _ => true | _ => false) xs
  let infs := maskOf (fun v => match v with | .inf s => s | _ => false) xs
  ({ header := infs * 2 ^ 24 + infm * 2 ^ 16 + maskOf XVal.isNan xs * 256 + x.toNat
     ms := m.map fun k => if beyond k then (if k < 0 then -lim else lim - 1) else k }, ⟨sat, 0, nan⟩)

/-- The value of element i of a plane-form block (R321, R323). -/
def planeValue (p header i : Nat) (m : Int) : XVal :=
  if bitAt header (8 + i) then .nan
  else if bitAt header (16 + i) then .inf (bitAt header (24 + i))
  else (xint m).scale (scaleExp header - ((p : Int) - 2))

/-! ### Operand preparation and chunk sums (R331, R332) -/

/-- BlockAlign: the values the eight weights stand for (R331). -/
def blockAlign (vs : List XVal) : List XVal :=
  let e0 : Int := match maxLog2 vs with | none => 0 | some e => e
  let ms := fun (e : Int) => vs.map fun v => rneInt (v.scale (14 - e))
  let e := if (ms e0).any (· == 32768) then e0 + 1 else e0
  vs.map fun v => match v with
    | .fin s n d => (xint (rneInt ((XVal.fin s n d).scale (14 - e)))).scale (e - 14)
    | y => y

/-- ChunkSum of two lists of 64 values as an F32 code (R332). -/
def chunkSum (a b : List XVal) : Nat :=
  let s := (a.zip b).foldl (fun acc p => xadd 0 acc (xmul p.1 p.2)) xzero
  match s with
  | .nan => 0x7FC00000
  | .fin _ 0 _ => 0
  | y => enc32 y

/-! ### Transcendental functions (R353, R354) -/

/-- The greatest t below 2^k with f t, for f true of 0 and downward closed. -/
def searchBits (f : Nat → Bool) : Nat → Nat → Nat
  | 0, t => t
  | k + 1, t => searchBits f k (if f (t + 2 ^ k) then t + 2 ^ k else t)

/-- T2[i] of Table 12-5: 2^(i/64) · 2^31 rounded, found as a 64th root of an integer. -/
def t2 (i : Nat) : Nat :=
  let x := 2 ^ (i + 1984)
  let t := searchBits (fun t => decide (t ^ 64 ≤ x)) 32 0
  if (2 * t + 1) ^ 64 ≤ x * 2 ^ 64 then t + 1 else t

/-- Exp2Val of R353 for a finite x. The integer part is held within ±1,000: beyond that every encode into F32 gives
the same result. -/
def exp2Val (x : XVal) : XVal :=
  match x with
  | .fin s n d =>
    let fl : Int := if s then -((ceilDiv n d : Nat) : Int) else ((n / d : Nat) : Int)
    let fn : Nat := if s then (ceilDiv n d) * d - n else n % d
    let g := roundQ 0 false (fn * 2 ^ 32) d
    let fl := if g = 2 ^ 32 then fl + 1 else fl
    let g := if g = 2 ^ 32 then 0 else g
    let i := g / 2 ^ 26
    let r := g % 2 ^ 26
    let num := 2 ^ 128 + 2977044472 * 2 ^ 64 * r + 1031764991 * 2 ^ 32 * r ^ 2 + 238388332 * r ^ 3
    xscaled false (t2 i * num) (2 ^ 159) (max (-1000) (min fl 1000))
  | y => y

/-- Fraction bits of log2 of m / 2^P for m in [2^P, 2^(P+1)), by repeated squaring: the first k bits. -/
def logBits (p : Nat) : Nat → Nat → Nat → Nat
  | 0, _, acc => acc
  | k + 1, m, acc =>
    let q := m * m / 2 ^ p
    if 2 ^ (p + 1) ≤ q then logBits p k (q / 2) (2 * acc + 1) else logBits p k q (2 * acc)

/-- log2 of a positive fraction: exact for a power of two, otherwise to 160 fraction bits with the next bit set, which
no rounding into F32 can tell from the exact value (log 12, DEDUCED). -/
def log2Val (n d : Nat) : XVal :=
  let e := log2Q n d
  let q := scaleQ n d (400 - e)
  let m := q.1 / q.2
  if m = 2 ^ 400 ∧ q.1 % q.2 = 0 then xint e
  else
    let b := 2 * logBits 400 160 m 0 + 1
    let t : Int := e * (2 ^ 161 : Nat) + b
    .fin (decide (t < 0)) t.natAbs (2 ^ 161)

/-- 1/√(n/d): exact when it is a fraction of 2^200, otherwise its 200 fraction bits with the next bit set. -/
def rsqVal (n d : Nat) : XVal :=
  let x := d * 2 ^ 400 / n
  let t := searchBits (fun t => decide (t * t ≤ x)) 300 0
  if t * t * n = d * 2 ^ 400 then .fin false t (2 ^ 200) else .fin false (2 * t + 1) (2 ^ 201)

end Sys2Proof.Machine
end

