-- ==== Sys2Proof/WellFormed.lean ====
section
/-! DEFINITION. Well-formed instructions: the field values that the encoding tables define (R191, R192, R207 step 3
as far as it does not depend on the stream or on NREG). A step that is not an instruction has no words to check. -/

namespace Sys2Proof

/-- Every field of the instruction holds a value its entry defines, and the row is the one the fields select. -/
def Instr.wf (i : Instr) : Bool :=
  match Machine.coded i with
  | some (mj, sh, f) =>
    Machine.codedOk mj sh f && (if sh then Machine.ofShort mj f else Machine.ofLong mj f) == some i
  | none => true

/-- A row of the instruction tables, as against a step of another agent. -/
def Instr.isCoded (i : Instr) : Bool := (Machine.coded i).isSome

end Sys2Proof
end

