-- ==== Sys2Proof/Decode.lean ====
section
/-! DEFINITION. Reading an instruction from its bytes (Table 7-1, R189 to R192, R206), and the words of a well-formed
instruction, from the same tables. Whether the thread's stream may execute it is checked at issue. -/

namespace Sys2Proof

/-- Why bytes are no instruction. -/
inductive Reject where
  /-- Fewer bytes than the form has. -/
  | truncated
  /-- An all-zero Word 0 or a reserved major (R206, R207 step 2). -/
  | reservedMajor
  /-- A LEN the major does not support, or a form without a literal operand (Table 7-7, R200). -/
  | badLength
  /-- A field value the entry does not define, or a nonzero unused bit (R192, R207 step 3). -/
  | badField
  deriving DecidableEq, Repr

/-- The little-endian number in the first n bytes (R6). -/
def leNat : List Byte → Nat
  | [] => 0
  | b :: bs => b.toNat + 256 * leNat bs

/-- The n low bytes of x, least significant first (R6). -/
def leBytes : Nat → Nat → List Byte
  | 0, _ => []
  | n + 1, x => BitVec.ofNat 8 x :: leBytes n (x / 256)

/-- The guard in bits [13:9] of Word 0. -/
def guardOf (w : Nat) : Guard := { neg := w / 8192 % 2 == 1, p := Machine.fieldAt w 9 4 }

/-- The fields of Word 0 with the others zero and T the short-form default (R191). -/
def word0Fields (mj : Machine.Major) (k : LongKind) (w lit : Nat) : LForm :=
  { kind := k, g := guardOf w, d := Machine.fieldAt w 14 6, a := Machine.fieldAt w 20 6, b := Machine.fieldAt w 26 6
    c := 0, f := 0, la := 0, ty := Machine.shortTy mj, m := 0, s := 0, x := 0, w2 := 0, lit := BitVec.ofNat 64 lit }

/-- The fields of Words 0 to 2 and the literal (Table 7-1). -/
def longFields (k : LongKind) (w w1 w2 lit : Nat) : LForm :=
  { kind := k, g := guardOf w, d := Machine.fieldAt w 14 6, a := Machine.fieldAt w 20 6, b := Machine.fieldAt w 26 6
    c := Machine.fieldAt w1 8 6, f := Machine.fieldAt w1 0 8, la := Machine.fieldAt w1 14 4
    ty := Machine.tyOfCode (w1 / 2 ^ 18), m := Machine.fieldAt w1 22 4, s := Machine.fieldAt w1 26 3
    x := Machine.fieldAt w1 29 3, w2 := BitVec.ofNat 32 w2, lit := BitVec.ofNat 64 lit }

/-- The row for a major and its fields, if the encoding tables define them. -/
def checked (mj : Machine.Major) (short : Bool) (f : LForm) : Except Reject (Instr × Nat) :=
  if (if short then Machine.hasShort mj else Machine.kindOk mj f) then
    if Machine.fieldsOk mj f then
      match (if short then Machine.ofShort mj f else Machine.ofLong mj f) with
      | some i => .ok (i, Machine.codedLen short f)
      | none => .error .badField
    else .error .badField
  else .error .badLength

/-- The instruction at the front of a byte list and its length in bytes. -/
def decode (bs : List Byte) : Except Reject (Instr × Nat) :=
  if bs.length < 4 then .error .truncated
  else
    let w := leNat (bs.take 4)
    match Machine.majorOf (w / 4 % 128) with
    | none => .error .reservedMajor
    | some mj =>
      if w % 4 = 0 then checked mj true (word0Fields mj .l w 0)
      else if bs.length < 12 then .error .truncated
      else if w % 4 = 1 then
        checked mj false (longFields .l w (leNat ((bs.drop 4).take 4)) (leNat ((bs.drop 8).take 4)) 0)
      else if w % 4 = 2 then checked mj false (word0Fields mj .sl w (leNat ((bs.drop 4).take 8)))
      else if bs.length < 20 then .error .truncated
      else checked mj false (longFields .ll w (leNat ((bs.drop 4).take 4)) (leNat ((bs.drop 8).take 4))
             (leNat ((bs.drop 12).take 8)))

/-- Word 0 (Table 7-1). -/
def encodeWord0 (mj : Machine.Major) (len : Nat) (f : LForm) : Nat :=
  len + 4 * Machine.opOf mj + 512 * f.g.p.toNat + 8192 * (if f.g.neg then 1 else 0) + 16384 * f.d.toNat
    + 1048576 * f.a.toNat + 67108864 * f.b.toNat

/-- Word 1 (Table 7-1). -/
def encodeWord1 (f : LForm) : Nat :=
  f.f.toNat + 256 * f.c.toNat + 16384 * f.la.toNat + 262144 * Machine.tyCode f.ty + 4194304 * f.m.toNat
    + 67108864 * f.s.toNat + 536870912 * f.x.toNat

/-- The bytes of a form. -/
def encodeForm (mj : Machine.Major) (short : Bool) (f : LForm) : List Byte :=
  if short then leBytes 4 (encodeWord0 mj 0 f)
  else match f.kind with
    | .l => leBytes 4 (encodeWord0 mj 1 f) ++ leBytes 4 (encodeWord1 f) ++ leBytes 4 f.w2.toNat
    | .sl => leBytes 4 (encodeWord0 mj 2 f) ++ leBytes 8 f.lit.toNat
    | .ll => leBytes 4 (encodeWord0 mj 3 f) ++ leBytes 4 (encodeWord1 f) ++ leBytes 4 f.w2.toNat
               ++ leBytes 8 f.lit.toNat

/-- The bytes of an instruction; none for a step that is not an instruction. -/
def encode (i : Instr) : List Byte :=
  match Machine.coded i with
  | some (mj, sh, f) => encodeForm mj sh f
  | none => []

/-- The bytes of a table word: its own, then zeros up to the longest instruction. -/
def tableBytes (nbits w : Nat) : List Byte := leBytes (nbits / 8) w ++ List.replicate (20 - nbits / 8) 0

/-- The decoder's answer for a word numbered as the opcode table numbers it. -/
def decodeTableWord (nbits w : Nat) : Option Instr :=
  match decode (tableBytes nbits w) with
  | .ok (i, _) => some i
  | .error _ => none

end Sys2Proof
end

