-- ==== Sys2Proof/Config.lean ====
section
/-! DEFINITION. What the manual leaves to the implementation or leaves open, as constants without a body: nothing
in Lean can evaluate them, so a statement about them holds for every value they may have. The assumption log names
the decision behind each. -/

namespace Sys2Proof.Config

/-- The value of an undetermined choice when the agenda supplies none (log 5, DESIGN CHOICE): which free block an allocation
takes, which of two permitted values a read returns, and the like. The argument is `State.fresh`. -/
opaque freeChoice : Nat → Nat

/-- A word that the formula of a rule does not state for some inputs, the same for the same inputs (R3, log 20, DESIGN
CHOICE): of the rule's number, from the codes that the formula names. -/
opaque openWord : (rule : Nat) → (inputs : List Nat) → BitVec 32

/-- SHA-256, which R53, R54 and R58 use by name (log 8, DESIGN CHOICE). -/
opaque sha256 : List Byte → BitVec 256

/-- ECDSA P-256 verification of a signature over a message with the fused key (R53, log 8, DESIGN CHOICE). -/
opaque ecdsaVerify : (key : BitVec 256) → (msg sig : List Byte) → Bool

/-- ECDSA P-256 signature of a message with the device identity key derived from the fused secret
(R57, R58, log 8, DESIGN CHOICE). It yields 64 bytes, given as one number. -/
opaque ecdsaSign : (secret : BitVec 256) → (msg : List Byte) → BitVec 512

/-- The bytes of the device configuration that firmware measures before READY (R54, log 8, DESIGN CHOICE). -/
opaque deviceConfiguration : List Byte

/-- The SHA-256 of the Brodyx key in the fuses at manufacture (R27, R53). -/
opaque fusedKeyHash : BitVec 256

/-- The device secret in the fuses at manufacture (R27, R57). -/
opaque fusedSecret : BitVec 256

/-- Worst-case package power in watts at a core clock given in MHz (R26, log 9, DESIGN CHOICE). -/
opaque ratedPower : Nat → Nat

/-- The devices that the fabric manager has put into a fabric group (R123, R302, log 24, DESIGN CHOICE). -/
opaque fabricMembers : (group : Nat) → List Nat

/-- The fabric group that firmware holds for a source device and its partition at a time in ns, if any (R90, log 113, DESIGN
CHOICE). -/
opaque pairGroup : (now src spart : Nat) → Option Nat

/-- A byte of a response buffer that no response has defined (R44, log 26, DESIGN CHOICE). -/
opaque staleResponse : (offset : Nat) → BitVec 8

/-- The addresses that firmware gives a partition's tables and a pool's arrays in reserved memory (Table 2-8, Table 4-1,
log 27, DESIGN CHOICE): for a partition, a pool (64 for the partition's own tables) and a table. -/
opaque tableAddr : (pid pool table : Nat) → Nat

end Sys2Proof.Config
end

