-- ==== Sys2Proof/Machine/Store.lean ====
section
/-! DEFINITION. The two containers State is made of: sparse arrays of words, where an unlisted index holds 0, and
tables of records by number. Both are lists in one canonical form, indices strictly rising. -/

namespace Sys2Proof.Machine

/-- A sparse array of w-bit words by index. -/
abbrev Cells (w : Nat) := List (Nat × BitVec w)

/-- What an unlisted index reads as (log 1, DESIGN CHOICE for memory, R176 for registers). -/
def blank (w : Nat) : BitVec w := 0

/-- The word at an index. -/
def cellGet {w : Nat} : Cells w → Nat → BitVec w
  | [], _ => blank w
  | (k, v) :: r, a => if k = a then v else cellGet r a

/-- The array with one word replaced, in canonical form. -/
def cellSet {w : Nat} : Cells w → Nat → BitVec w → Cells w
  | [], a, v => if v = blank w then [] else [(a, v)]
  | (k, x) :: r, a, v =>
    if a < k then (if v = blank w then (k, x) :: r else (a, v) :: (k, x) :: r)
    else if a = k then (if v = blank w then r else (a, v) :: r)
    else (k, x) :: cellSet r a v

/-- The canonical form: indices strictly rising from at least n, no entry equal to the blank word. -/
def cellsWfFrom {w : Nat} : Nat → Cells w → Bool
  | _, [] => true
  | n, (k, v) :: r => decide (n ≤ k) && decide (v ≠ blank w) && cellsWfFrom (k + 1) r

/-- The canonical form of a sparse array. -/
def cellsWf {w : Nat} (c : Cells w) : Bool := cellsWfFrom 0 c

/-- The n-th and later words dropped: the indices in lo .. hi-1 set to the blank word. -/
def cellClear {w : Nat} (c : Cells w) (lo hi : Nat) : Cells w := c.filter fun e => !(decide (lo ≤ e.1) && decide (e.1 < hi))

/-- A table of records by number. -/
abbrev Tab (α : Type) := List (Nat × α)

/-- The record with a number. -/
def tabGet {α : Type} : Tab α → Nat → Option α
  | [], _ => none
  | (k, v) :: r, a => if k = a then some v else tabGet r a

/-- The table with one record set. -/
def tabSet {α : Type} : Tab α → Nat → α → Tab α
  | [], a, v => [(a, v)]
  | (k, x) :: r, a, v =>
    if a < k then (a, v) :: (k, x) :: r else if a = k then (a, v) :: r else (k, x) :: tabSet r a v

/-- The table without one record. -/
def tabDel {α : Type} (t : Tab α) (a : Nat) : Tab α := t.filter fun e => e.1 != a

/-- Main memory: every tier of Table 3-1 by physical address, host memory of the PCI Express tier included. -/
abbrev Memory := List Host.Cell

/-- The canonical form of memory. -/
abbrev Memory.wf (m : Memory) : Bool := cellsWf (w := 8) m

end Sys2Proof.Machine
end

