-- ==== Sys2Proof/Machine/State.lean ====
section
/-! DEFINITION. The state of the MV9400: everything the manual gives the package that software, the host or another
device can come to see. Memory, the partitions with their contexts, requests and engines' queues, the workgroups with
their threads, the cores and clusters, the epoch domains, the fabric side, the device controller, and the agenda that
says which agent moves next. Plain data throughout. -/

namespace Sys2Proof.Machine

/-! ### Threads and workgroups -/

/-- A lane's last-page register (R72). `va`, `size` and `pa` give the page and its frame (a replica's frame if it
translates to one), `pte` the address of its leaf. -/
structure LastPage where
  va : Nat
  size : Nat
  pa : Nat
  pte : Nat
  tier : Nat
  dev : Nat
  mattr : Nat
  rd : Bool
  w : Bool
  x : Bool
  d : Bool
  disc : Bool
  deriving DecidableEq, Repr

/-- What a thread waits for in a wait that a step of its own ends (R300, R301, R404). -/
inductive Wait where
  | none
  /-- LVWAIT of n bytes on the object at `ea` until PHC differs from `phc`, for every lane of `mask`; the lanes of `path`
  go on together (R300). -/
  | level (ea : DWord) (phc : Word) (mask path : LaneMask) (n : Nat)
  /-- SSTEP stage 3 on the object at `ea` (R301, R302). -/
  | sstep (ea : DWord) (phc : Word)
  /-- WAIT.CYC until core cycle `due`; `left` counts the rest while the thread is saved. -/
  | cyc (due left : Nat)
  /-- Messages of the remote instruction `tag`, of n bytes, have not yet entered virtual channel 0 (R306). -/
  | slots (tag n : Nat)
  /-- SYNCG or SYNCG.GRP, an instruction of n bytes (R225); the group's masks say which barrier. -/
  | barrier (n : Nat)
  deriving DecidableEq, Repr

/-- An open single-line atomic region (R292, R293): the line, its physical address, the ALB's PC, the recorded
bytes, the held stores, and the counts of accesses and of instructions. `stale` holds the line as it was when an invalidation of R73
first covered it: the region then reads it so, and fails at its ALE. -/
structure Region where
  line : DWord
  pa : Nat
  alb : DWord
  recs : List (Nat × Byte)
  held : List (Nat × Byte)
  accesses : Nat
  instrs : Nat
  stale : Option (List Byte)
  deriving DecidableEq, Repr

/-- A register a long-latency instruction writes: in file `v`, `k`, `s` or `p` (R201). -/
inductive RegWrite where
  | v (n : Nat) (x : Word)
  | k (n : Nat) (x : DWord)
  | s (n : Nat) (x : Word)
  | p (n : Nat) (x : Bool)
  deriving DecidableEq, Repr

/-- The operands one lane holds for an access that is not yet performed (R84): base, data, second data. -/
structure LaneOp where
  lane : Nat
  a : DWord
  b : BitVec 128
  c : DWord
  deriving DecidableEq, Repr

/-- A memory instruction with the operands it held at issue, for replay (R84) and reissue (R145, R205); `la` is the
window its results open. -/
structure MemReq where
  i : Instr
  pc : DWord
  len : Nat
  la : Nat
  lanes : List LaneOp
  deriving DecidableEq, Repr

/-- What an outstanding instruction has still to perform: nothing, a write, a read, or accesses that every later one
follows (R204, R253, R256 to R264). -/
inductive Owes where
  | nothing
  | write
  | read
  | all
  deriving DecidableEq, Repr

/-- An outstanding long-latency instruction of one thread (R201, R202): how many window instructions may still
issue, whether its results are known, the results, what it owes until they are, and the local load to reissue if the
thread is saved (R145); a load with a reissue and no results is abandoned. -/
structure Out where
  tag : Nat
  left : Nat
  ready : Bool
  writes : List RegWrite
  owes : Owes
  reissue : Option MemReq
  deriving DecidableEq, Repr

/-- A lane thread or a control thread: `v` and `p` for a lane (Table 7-2), `k` and `p` (q0 to q7) for a control
thread. -/
structure Thread where
  pc : DWord
  ended : Bool
  v : Cells 32
  k : Cells 64
  p : BitVec 16
  rdepth : Nat
  rpar : Nat
  last : Option LastPage
  wait : Wait
  region : Option Region
  outs : List Out
  deriving DecidableEq, Repr

/-- A handler cause that a group or the control thread has raised and that is not yet taken (R400, R401). -/
structure TrapReq where
  cause : Nat
  sub : Nat
  code : Word
  info : DWord
  pc : DWord
  acc : Nat
  mask : LaneMask
  deriving DecidableEq, Repr

/-- Why a group or the control thread does not issue until an agent resumes it (R79, R75, R76). -/
inductive Susp where
  | none
  /-- A fault record of this number is delivered (R79, R80). -/
  | fault (rec : Nat)
  /-- The record is written and says replay (R84). -/
  | replay
  /-- A write met REPL = 1 (R75). -/
  | collapse (va : DWord)
  /-- A write met BUSY = 1 (R76). -/
  | busy (va : DWord)
  deriving DecidableEq, Repr

/-- An issue group (R79, R146, R177, R178). `traps` holds the handler causes its paths have raised, the next first; `fused` names
the group it is fused with (R181). -/
structure Group where
  pend : LaneMask
  replay : Option MemReq
  susp : Susp
  traps : List TrapReq
  den : Nat
  lpc : Nat
  issued : LaneMask
  lost : LaneMask
  yielded : LaneMask
  halted : Bool
  stepping : Bool
  brk : LaneMask
  dqPos : Nat
  waitAll : LaneMask
  waitGrp : LaneMask
  sFloor : Nat
  lastIssue : Nat
  readySince : Option Nat
  fused : Option Nat
  deriving DecidableEq, Repr

/-- A control-thread write of a uniform register, kept while a lane may still read the earlier value (R184). -/
structure SWrite where
  seq : Nat
  reg : Nat
  old : Word
  deriving DecidableEq, Repr

/-- A decision-queue entry (R185), with the number of uniform-register writes made before it (R184). -/
structure DqEntry where
  value : DWord
  seq : Nat
  deriving DecidableEq, Repr

/-- The stored control registers of Tables 6-3, 6-7 and 14-7; DEADLINE, STEPCYC and CTXID come from the context. -/
structure Csrs where
  trapvec : DWord
  trapcause : DWord
  trappc : DWord
  trapinfo : DWord
  kill : Bool
  hm : Bool
  tscr0 : DWord
  tscr1 : DWord
  stopall : Bool
  att : Bool
  watcha : DWord
  watchctl : DWord
  fifocfg : DWord
  accmask : DWord
  deriving DecidableEq, Repr

/-- A FIFO bank's contents (R170, R172): the head in 16-byte units and the bytes held. -/
structure Fifo where
  head : Nat
  data : List Byte
  deriving DecidableEq, Repr

/-- The counts a workgroup holds for one descriptor ID (R334), most recently used first in their list. -/
structure StatCount where
  id : Nat
  addr : DWord
  sat : Nat
  ftz : Nat
  nan : Nat
  deriving DecidableEq, Repr

/-- What a workgroup is (R153, R155, R175): its place, its node's shape and its binding. `wgi` is %wg; `gnum` holds the number
within the core of each issue group (log 16, DEDUCED). -/
structure WgId where
  pid : Nat
  ctx : Nat
  node : Nat
  wgi : Nat
  core : Nat
  slot : Nat
  gnum : List Nat
  nlane : Nat
  nreg : Nat
  scr : Nat
  wpri : Nat
  quartet : Bool
  persist : Bool
  slotv : Word
  req : Word
  qpos : Word
  kvlen : Word
  step : DWord
  deriving DecidableEq, Repr

/-- A resident workgroup. `unit` is the current unit of a PERSIST node, `mailbox` an unanswered FETCHW (R161) with the
reader count it holds (R116); `engOps` counts engine operations in flight (R157). `fails` names the records of accesses
that failed while their group (none: the control thread) was already suspended; `ctlHeld` is the wait that a handler
interrupted, with its PC (R401). -/
structure Wg where
  id : WgId
  lanes : Tab Thread
  groups : Tab Group
  ctl : Thread
  ctlSusp : Susp
  ctlReplay : Option MemReq
  ctlTrap : Option TrapReq
  ctlHeld : Option (DWord × Wait)
  fails : List (Nat × Option Nat)
  s : Cells 32
  sLog : List SWrite
  sSeq : Nat
  dq : List DqEntry
  dqBase : Nat
  csrs : Csrs
  scratch : Cells 8
  fifo0 : Fifo
  fifo1 : Fifo
  slopes : Cells 32
  stats : List StatCount
  unit : Option Nat
  mailbox : Option (Nat × Option Nat)
  drained : Bool
  engOps : Nat
  ended : Bool
  faulter : Bool
  deriving DecidableEq, Repr

/-! ### Cores and clusters -/

/-- A window-table entry (Table 6-4). -/
structure Window where
  ctx : Nat
  pid : Nat
  wgs : Nat
  sw : Bool
  wcore : Nat
  offs : Nat
  deriving DecidableEq, Repr

/-- A descriptor as an operation holds it: partition·65,536 + ID, and its 2,048 bits (Table 14-3). -/
structure Desc where
  id : Nat
  bits : BitVec 2048
  deriving DecidableEq, Repr

/-- A copy or gather-copy in the core's copy engine (R384 to R387). `next` counts its elements transferred, `written` the
bytes written, `arrived` the bytes already counted on LVA; `stop` is set while it is paused (R80); `parity` is the reader
count it holds (R116); `half` is the last code, for the byte of two 4-bit codes; `got` holds the remote reads of its present
transfer. -/
structure CopyOp where
  tag : Nat
  slot : Nat
  pc : DWord
  gather : Bool
  cmd : BitVec 1024
  src : Desc
  dst : Desc
  next : Nat
  written : Nat
  arrived : Nat
  stop : Susp
  parity : Option Nat
  half : Nat
  got : List (Nat × Nat × List Byte)
  deriving DecidableEq, Repr

/-- An operation in a quarter's matrix queue (R357): its row of Instr and the operands read at issue. `next` counts
the rows or K-blocks done, `held` the weights read of a chunk that is not yet added, by column (R364, R369); `joined` marks a
CLMERGE that has arrived. -/
structure MxOp where
  slot : Nat
  pc : DWord
  i : Instr
  a : DWord
  b : DWord
  c : DWord
  desc : Desc
  next : Nat
  held : List (List XVal)
  joined : Bool
  stop : Susp
  parity : Option Nat
  deriving DecidableEq, Repr

/-- A bank (R165): CACHE, or SCRATCH with what is held of it, and the cycle since which nothing is. Each part names its
workgroup slot, one more than the segment the bank backs (0 for units that back none), and a number of units. A bank
that backs an enabled FIFO segment is in FIFO mode. -/
inductive Bank where
  | cache
  | scratch (held : List (Nat × Nat × Nat)) (emptySince : Nat)
  deriving DecidableEq, Repr

/-- A remote request of this device that is not yet answered (R91, R94, R306): its message, whose SPART is the partition that
made it, the context, who waits, the lanes it serves, whether it has entered virtual channel 0, and when it was first and last sent
and how often again. -/
structure Remote where
  tag : Nat
  msg : Msg
  ctx : Nat
  core : Nat
  slot : Nat
  group : Option Nat
  outTag : Nat
  lanes : List LaneOp
  i : Instr
  pc : DWord
  sent : Bool
  first : Nat
  last : Nat
  tries : Nat
  copy : Option Nat
  deriving DecidableEq, Repr

/-- A saved workgroup (R145, R146): the workgroup, the cells of the accumulator tiles it holds, the matrix (by quarter) and copy
operations that only its halted context could let go on, and the requests that its remote-slot waits have still to send. -/
structure Saved where
  wg : Wg
  tiles : Cells 32
  ops : List (Nat × MxOp)
  copies : List CopyOp
  remotes : List Remote
  deriving DecidableEq, Repr

/-- A core (Table 6-1): its reader counters and the epoch it last received (R112), accumulator tiles by index
((q·16 + t)·64 + r)·64 + c, window table, copy engine, matrix queues by quarter, descriptor cache (most recently used
first), banks, and the quarters' and the scalar pipe's scheduling marks
(R182, R183). -/
structure Core where
  c0 : Nat
  c1 : Nat
  eSeen : Nat
  tiles : Cells 32
  windows : Tab Window
  copies : List CopyOp
  queues : Tab (List MxOp)
  dcache : List Desc
  banks : Tab Bank
  lastGroup : Tab Nat
  lastCtl : Nat
  deriving DecidableEq, Repr

/-- An open merge of a cluster reduction unit (R375): the participant mask and the arrivals, core and quarter. -/
structure Merge where
  pm : Nat
  arrivals : List (Nat × Nat)
  deriving DecidableEq, Repr

/-- A cluster (Table 6-2): routing counters (R393), open merges by (pid·32 + ctx)·8 + slot, and whether the cluster
is offline (R18). -/
structure Cluster where
  counters : Cells 32
  merges : Tab Merge
  offline : Bool
  deriving DecidableEq, Repr

/-! ### Contexts and requests -/

/-- An output-ring entry decided and not yet written (Table 2-7, R45). -/
structure RingEntry where
  kind : Nat
  detail : Nat
  step : Nat
  pos : Nat
  token : Word
  deriving DecidableEq, Repr

/-- A request record (Table 5-4), with what the former keeps beside it: the copy of CONS (R46; 2^32 while there is none), the tokens `q` of the
current step, the POS and PREM at its start, STATE as the host wrote it, the token emitted, the entry held for a full ring and whether the final
entry is written. -/
structure Request where
  kv : List DWord
  stop : List Word
  tokb : Nat
  ring : Nat
  samp : Nat
  reqid : Word
  lasttok : Word
  admseq : Nat
  pos : Nat
  prem : Nat
  maxlen : Nat
  fcause : Nat
  fsub : Nat
  slot : Nat
  state : Nat
  asked : Nat
  pclass : Nat
  nstop : Nat
  owait : Bool
  evcnt : Nat
  crm : Nat
  cons : Nat
  q : Nat
  pos0 : Nat
  prem0 : Nat
  emitted : Option Word
  held : Option RingEntry
  finalWritten : Bool
  deriving DecidableEq, Repr

/-- An active entry of the ragged descriptor as the former keeps it (Table 5-7). -/
structure Ragged where
  slot : Nat
  reqid : Word
  qpos : Nat
  kvlen : Nat
  q : Nat
  row0 : Nat
  deriving DecidableEq, Repr

/-- A node of the step in progress: its record, its grid, and the workgroups started or fetched, and completed. -/
structure NodeRun where
  record : BitVec 1024
  grid : Nat
  taken : List Nat
  done : List Nat
  deriving DecidableEq, Repr

/-- What a step was like before a write: memory, with the context's level-4 table in it, and the epoch of its domain. -/
structure Past where
  mem : Memory
  l4base : Nat
  e : DWord
  deriving DecidableEq, Repr

/-- The step in progress (R149, R155): its nodes, its entries, the count of core cycles, the cycle at which the count
last started to run, its deadline, the cycle of its launch (R143), what it was like before each write since then, the latest
first (R208), and how many of those writes the dispatcher's last read of the placement cell had seen (R256, R418). -/
structure StepRun where
  nodes : List NodeRun
  entries : List Ragged
  ntok : Nat
  count : Nat
  since : Option Nat
  deadline : DWord
  launch : Nat
  past : List Past
  cellSeen : Nat
  deriving DecidableEq, Repr

/-- The host's side of a context: ADMDROP and the enqueue count (R38, R130), the queue, slots and evicted list
(R129), and coalescing (R47): the pending entries and the time the oldest was written. -/
structure Admission where
  drop : Word
  count : Word
  queue : List Request
  slots : Tab Request
  evicted : List Request
  final : Bool
  time : Nat
  cnt : Nat
  pending : Nat
  oldest : Nat
  deriving DecidableEq, Repr

/-- A context: the record of Table 5-2, its admission side, the step in progress, the saved workgroups (R146, R147),
the state CTX_HALT found (R127), the ring writes discarded with the host link lost (R29), whether a formation is due, and the time in ns before which an empty one is not repeated
(R133). -/
structure Context where
  stepn : DWord
  graphp : DWord
  placep : DWord
  rdbase : DWord
  dumpb : DWord
  dumpsz : Nat
  rgntab : Nat
  l4base : Nat
  clmask : BitVec 72
  seqtpl : BitVec 88
  margin : Nat
  rejlost : Word
  starve : Word
  overrun : Word
  asid : Nat
  tokbud : Nat
  chunk : Nat
  nslot : Nat
  fdom : Nat
  prio : Nat
  defcl : Nat
  spool : Nat
  evmode : Nat
  nseq : Nat
  cstate : Nat
  haltrsn : Nat
  regions : List (BitVec 256)
  adm : Admission
  run : Option StepRun
  saved : List Saved
  swapped : Bool
  savedAt : Nat
  wasIdle : Bool
  haltAtClose : Bool
  ringLost : Nat
  retryAt : Nat
  formNext : Bool
  deriving DecidableEq, Repr

/-! ### Partitions, pools and the retire queue -/

/-- A block pool (Table 4-1). `free` lists the free blocks; `flcnt` is the part of the free list in memory (R99);
`refs` holds the reference counts that are not 0. -/
structure Pool where
  vbase : DWord
  nblk : Nat
  resv : Nat
  flcnt : Nat
  badfree : Nat
  emptyc : Nat
  pbase : Nat
  flbase : Nat
  refbase : Nat
  tier : Nat
  die : Nat
  bshift : Nat
  mpool : Nat
  free : List Nat
  refs : Tab Nat
  deriving DecidableEq, Repr

/-- A handle entry (Table 4-3). `rsvM` is the part of a sequence's reservation held in MPOOL. -/
structure Handle where
  gen : Nat
  chk : BitVec 16
  state : Nat
  pool : Nat
  tshift : Nat
  root : Nat
  nsb : Nat
  len : Nat
  rsv : Nat
  rsvM : Nat
  owner : Nat
  deriving DecidableEq, Repr

/-- A retire-queue entry (Table 4-7), with its G stamp (R123). -/
structure Retire where
  epoch : DWord
  addr : DWord
  size : Nat
  arg : DWord
  ctx : Nat
  fab : Bool
  act : Nat
  gstamp : Nat
  deriving DecidableEq, Repr

/-- A block pool, sequence or retire operation on its way to its engine (R98, R118): the issuing control thread, the
tag of its outstanding instruction, the instruction with its operands, and the reader count it holds. -/
structure EngineReq where
  core : Nat
  slot : Nat
  pid : Nat
  ctx : Nat
  tag : Nat
  pc : DWord
  i : Instr
  a : DWord
  b : DWord
  c : DWord
  parity : Option Nat
  deriving DecidableEq, Repr

/-- A mailbox (R40 to R44): its command buffer, the bytes of its last
response that are defined, MBSTAT, and the command accepted and not yet answered. -/
structure Mailbox where
  cmd : Cells 8
  resp : List Byte
  seq : BitVec 16
  result : Nat
  ovr : Bool
  busy : Bool
  issued : List Byte
  deriving DecidableEq, Repr

/-- The MSI-X table, Function Mask and pending bits of a function, and the messages sent for each vector (R28, R35, R42). -/
structure Msix where
  table : Cells 8
  fmask : Bool
  pend : BitVec 64
  sent : Tab Nat
  deriving DecidableEq, Repr

/-- A partition (Table 2-8, Table 2-2) with its contexts, pools, handles, descriptors, retire queue and fault queue.
Number n is in the table while it is not FREE. -/
structure Partition where
  state : Nat
  strict : Bool
  fabric : Bool
  rslots : Nat
  prio : Nat
  nctx : Nat
  fabgrp : Nat
  clmask : BitVec 72
  nmbg : BitVec 32
  l2ways : BitVec 16
  fmbs : BitVec 16
  fbw : Nat
  tokbud : Nat
  fdom : Nat
  poolbase : DWord
  rqbase : DWord
  fqbase : DWord
  dtbase : DWord
  held0 : Nat
  held1 : Nat
  werr : Nat
  fqtail : DWord
  fqhead : DWord
  apbase : DWord
  aperr : Bool
  fq : Tab (BitVec 256)
  ctxs : Tab Context
  pools : Tab Pool
  handles : Tab Handle
  descs : Tab (BitVec 2048)
  rq : List Retire
  mbox : Mailbox
  msix : Msix
  deriving DecidableEq, Repr

/-- An epoch domain (R111): E, and the core cycle of its last advance (R114). -/
structure Domain where
  e : DWord
  lastAdv : Nat
  deriving DecidableEq, Repr

/-- A fault record on its way (R81): its 32 bytes with OUTCOME still 0, its source, the saved requests, and the
decision once taken: none before FAULT_RESOLUTION. -/
structure FaultRec where
  bits : BitVec 256
  pid : Nat
  core : Nat
  slot : Nat
  group : Nat
  source : Nat
  outcome : Option Nat
  deriving DecidableEq, Repr

/-! ### The fabric side -/

/-- A fabric group as the counter group of the switches holds it: G, its devices, the epoch reports of each since G
became what it is (R123), the devices that have arrived at the barrier, and this device's objects that wait (R302). -/
structure FabGroup where
  g : Nat
  members : List Nat
  reports : Tab Nat
  arrived : List Nat
  waiting : List (Nat × Nat × DWord)
  deriving DecidableEq, Repr

/-- The Tarile side of the IOD (R30 to R33, R88 to R94): this device's number, the ports, the messages received and
sent, the requests outstanding, the next SEQ by target, the LOW known and the SEQs executed by source, the response cache, the group
recorded for each source and partition, the ports that firmware has reported down to the fabric manager (R30), and what goes on
channel 2: barrier arrivals and epoch reports by counter group (R52: `Partition.fabKey`). -/
structure Fabric where
  devId : Nat
  portsDown : BitVec 16
  portsHalf : BitVec 16
  rxSeq : Tab Nat
  rx : List Msg
  tx : List Msg
  out : List Remote
  nextSeq : Tab Nat
  lows : Tab Nat
  executed : Tab (List Nat)
  cache : List Msg
  pairs : List (Nat × Nat × Nat)
  portReports : List Nat
  groups : Tab FabGroup
  counterTx : List (Nat × Nat)
  epochTx : List Nat
  deriving DecidableEq, Repr

/-! ### The device controller -/

/-- A firmware image slot: the 256-byte header and the body, byte by byte (Table 2-11). -/
structure Flash where
  a : Cells 8
  b : Cells 8
  preferred : Nat
  failed : Nat
  retry : Bool
  cert : List Byte
  deriving DecidableEq, Repr

/-- An answer of the SPDM responder on the DOE mailbox (R57). -/
inductive Spdm where
  | none
  | version
  | capabilities
  | algorithms (ecdsaP256 sha256 : Bool)
  | digests (chain : BitVec 256)
  | certificate (bytes : List Byte)
  | challengeAuth (sig : BitVec 512)
  | measurement (index : Nat) (value : BitVec 256)
  | error
  deriving DecidableEq, Repr

/-- Where a start stands (R53 to R55). -/
inductive Boot where
  | off
  | starting (slot : Nat) (since : Nat)
  | failed
  | recovery
  | ready
  deriving DecidableEq, Repr

/-- The system controller and the security engine; `runSlot` is the flash slot of the running image, `hot` holds from 105 °C until every die is below 100 °C, `linkDown` names the
failed die-to-die links with the time of failure, `farChans` the GiB of memory on each far channel (R23) (R17, R18, R20 to R29, R44, R53 to R58). -/
structure Device where
  boot : Boot
  runSlot : Option Nat
  flash : Flash
  minSvn : Nat
  svn : Nat
  flags0 : Bool
  m0 : BitVec 256
  m1 : BitVec 256
  reason : Nat
  coreMhz : Nat
  limitW : Nat
  powerW : Nat
  tempC : Nat
  hot : Bool
  thermalChanges : Nat
  corrected : Tab Nat
  uncorrectable : Nat
  farChans : List Nat
  linkLost : Bool
  linkLostAt : Nat
  hostWait : Bool
  ringRetired : BitVec 4
  linkDown : List (DieLink × Nat)
  lostDies : BitVec 4
  poison : List Nat
  mbox : Mailbox
  msix : Msix
  spdm : Spdm
  spdmStage : Nat
  resetAt : Option Nat
  commits : Nat
  deriving DecidableEq, Repr

/-- A replica of a page part on a die (R74): the die, the owner, the home frame, the replica frame, its size, and
whether it is filled. -/
structure Replica where
  die : Nat
  pid : Nat
  home : Nat
  frame : Nat
  size : Nat
  filled : Bool
  deriving DecidableEq, Repr

/-- A range of physical memory that firmware has given out (R68, R70, R78): its owner, base and size, whether it never
moves, and whether it holds a translation table. -/
structure Frame where
  base : Nat
  size : Nat
  pid : Nat
  pinned : Bool
  table : Bool
  deriving DecidableEq, Repr

/-- A collapse in progress (R75, R77): the die of the engine, the context's ASID and the page, its leaf, and whether the
workgroup that would replay its access has ended. -/
structure Collapse where
  die : Nat
  pid : Nat
  asid : Nat
  va : DWord
  pte : Nat
  orphan : Bool := false
  deriving DecidableEq, Repr

/-! ### The whole machine -/

/-- Whose turn it is when nothing is issuing: an agent's step, an issue opportunity of a quarter (R178, R182), or one
of a core's scalar pipe (R183). `dcyc` and `dns` are the core cycles and nanoseconds that pass before it, `ch` its
undetermined choices. The agenda is the model's own (log 5, DESIGN CHOICE). -/
inductive Turn where
  | event (dcyc dns : Nat) (ch : List Nat) (i : Instr)
  | quarter (dcyc dns : Nat) (ch : List Nat) (core q : Nat)
  | scalar (dcyc dns : Nat) (ch : List Nat) (core : Nat)
  deriving DecidableEq, Repr

/-- The issue of a group that is under way (R178): its active lanes, whether p1 was promoted, the lanes and PC of p1,
and the lanes that have issued. -/
structure Pair where
  core : Nat
  slot : Nat
  grp : Nat
  act : LaneMask
  promoted : Bool
  p1 : LaneMask
  pc1 : DWord
  issued : LaneMask
  deriving DecidableEq, Repr

/-- The machine. `wgs` is by core·8 + slot; `domains` by 0 for the shared domain, n + 1 for strict partition n;
`cur` is the path or control thread that is issuing, `nxt` the second path of the same issue and `pairs` that issue, of each group
of a fused pair (R178, R181); `agenda`,
`choice` and `fresh` are the model's own (log 5, DESIGN CHOICE). -/
structure State where
  mem : Memory
  wgs : Tab Wg
  cores : Tab Core
  clusters : Tab Cluster
  parts : Tab Partition
  domains : Tab Domain
  engines : List EngineReq
  frecs : Tab FaultRec
  fabric : Fabric
  dev : Device
  frames : List Frame
  replicas : List Replica
  collapses : List Collapse
  cycle : Nat
  ns : Nat
  tags : Nat
  cur : Option ThreadRef
  nxt : Option ThreadRef
  pairs : List Pair
  agenda : List Turn
  choice : List Nat
  fresh : Nat
  deriving DecidableEq, Repr

/-- Why the machine stops. -/
inductive Fault where
  /-- Raised by the meaning of a Nymka instruction when `cur` names no thread that can issue: no thread executes it.
  Safe: `step` runs such a row only for a thread that issues, so the machine has no such step. -/
  | noThread
  deriving DecidableEq, Repr

/-- Why the model has no step. -/
inductive Refusal where
  /-- An instruction whose meaning is not written. Safe: nothing is claimed of it. -/
  | notModelled (mnemonic : String)
  deriving DecidableEq, Repr

/-! ### Reset -/

def Mailbox.empty : Mailbox :=
  { cmd := [], resp := [], seq := 0, result := 0, ovr := false, busy := false, issued := [] }

/-- An MSI-X table of n vectors, every vector masked (log 13, PRESUMED). -/
def Msix.init (n : Nat) : Msix := { table := (List.range n).map fun i => (16 * i + 12, 1), fmask := false, pend := 0, sent := [] }

/-- A core after reset or while untouched (R165, Table 6-1). -/
def Core.empty : Core :=
  { c0 := 0, c1 := 0, eSeen := 0, tiles := [], windows := [], copies := [], queues := [], dcache := [], banks := []
    lastGroup := [], lastCtl := 7 }

/-- A cluster after reset (R393). -/
def Cluster.empty : Cluster := { counters := [], merges := [], offline := false }

/-- The fabric side after reset (log 11, DESIGN CHOICE): no group is recorded for a pair of SRC and SPART until a message of
that pair arrives, when firmware records what it holds (R90, log 113, DESIGN CHOICE). -/
def Fabric.empty : Fabric :=
  { devId := 0, portsDown := 0, portsHalf := 0, rxSeq := [], rx := [], tx := [], out := [], nextSeq := [], lows := [], executed := []
    cache := [], pairs := [], portReports := [], groups := [], counterTx := [], epochTx := [] }

/-- The flash of a board with nothing written, slot A preferred (log 10, DESIGN CHOICE). -/
def Flash.blank : Flash := { a := [], b := [], preferred := 0, failed := 0, retry := false, cert := [] }

/-- The device controller after reset, before the boot ROM runs (R24, R26, R53, log 10, DESIGN CHOICE). -/
def Device.reset : Device :=
  { boot := .off, runSlot := none, flash := Flash.blank, minSvn := 0, svn := 0, flags0 := false, m0 := 0, m1 := 0, reason := 0
    coreMhz := 1400, limitW := 2000, powerW := 0, tempC := 0, hot := false, thermalChanges := 0, corrected := [], uncorrectable := 0
    farChans := List.replicate 32 32, linkLost := false, linkLostAt := 0, hostWait := false, ringRetired := 0, linkDown := []
    lostDies := 0, poison := [], mbox := Mailbox.empty, msix := Msix.init 32, spdm := .none, spdmStage := 0
    resetAt := none, commits := 0 }

/-- The machine right after reset: E is 0 (R111), routing counters 0 (R393), every bank CACHE (R165), no partition,
no workgroup, %cycle 0 (R247), memory with nothing listed. -/
def State.reset : State :=
  { mem := [], wgs := [], cores := [], clusters := [], parts := [], domains := [(0, { e := 0, lastAdv := 0 })]
    engines := [], frecs := [], fabric := Fabric.empty, dev := Device.reset, frames := [], replicas := []
    collapses := [], cycle := 0, ns := 0, tags := 0, cur := none, nxt := none, pairs := []
    agenda := [], choice := [], fresh := 0 }

end Sys2Proof.Machine
end

