-- ==== Sys2Proof/Machine/Ops.lean ====
section
/-! DEFINITION. The named operations on the state: finding and replacing its parts, undetermined choices, physical
memory, interrupts, fault records (R79 to R83), and taking a handler cause and returning from it (R400 to R402). -/

namespace Sys2Proof.Machine

/-- The result of a meaning. -/
abbrev Res := Host.Outcome State Fault Refusal

/-! ### Parts of the state -/

def State.core (s : State) (n : Nat) : Core := (tabGet s.cores n).getD Core.empty
def State.setCore (s : State) (n : Nat) (c : Core) : State := { s with cores := tabSet s.cores n c }
def State.cluster (s : State) (n : Nat) : Cluster := (tabGet s.clusters n).getD Cluster.empty
def State.setCluster (s : State) (n : Nat) (c : Cluster) : State := { s with clusters := tabSet s.clusters n c }
def State.wg? (s : State) (core slot : Nat) : Option Wg := tabGet s.wgs (core * 8 + slot)
def State.setWg (s : State) (w : Wg) : State := { s with wgs := tabSet s.wgs (w.id.core * 8 + w.id.slot) w }
def State.delWg (s : State) (core slot : Nat) : State := { s with wgs := tabDel s.wgs (core * 8 + slot) }
def State.part? (s : State) (n : Nat) : Option Partition := tabGet s.parts n
def State.setPart (s : State) (n : Nat) (p : Partition) : State := { s with parts := tabSet s.parts n p }
def State.ctx? (s : State) (pid n : Nat) : Option Context := (s.part? pid).bind fun p => tabGet p.ctxs n

def State.modPart (s : State) (n : Nat) (f : Partition → Partition) : State :=
  match s.part? n with | some p => s.setPart n (f p) | none => s

def State.setCtx (s : State) (pid n : Nat) (c : Context) : State :=
  s.modPart pid fun p => { p with ctxs := tabSet p.ctxs n c }

def State.modCtx (s : State) (pid n : Nat) (f : Context → Context) : State :=
  match s.ctx? pid n with | some c => s.setCtx pid n (f c) | none => s

def State.modWg (s : State) (core slot : Nat) (f : Wg → Wg) : State :=
  match s.wg? core slot with | some w => s.setWg (f w) | none => s

def State.modCore (s : State) (n : Nat) (f : Core → Core) : State := s.setCore n (f (s.core n))

/-- The number of a partition's epoch domain (R111). -/
def State.domOf (s : State) (pid : Nat) : Nat :=
  match s.part? pid with | some p => if p.strict then pid + 1 else 0 | none => 0

/-- The counter group that a partition uses: its fabric group's, or a strict partition's own instance of it (Table 2-9). -/
def Partition.fabKey (p : Partition) (pid : Nat) : Nat := if p.strict then 65536 * (pid + 1) + p.fabgrp else p.fabgrp

/-- A counter group as it stands, or as it is before anything reaches its counter group (log 24, DESIGN CHOICE). -/
def State.fabGroup (s : State) (g : Nat) : FabGroup :=
  (tabGet s.fabric.groups g).getD { g := 0, members := Config.fabricMembers g, reports := [], arrived := [], waiting := [] }

def State.setFabGroup (s : State) (g : Nat) (x : FabGroup) : State :=
  { s with fabric := { s.fabric with groups := tabSet s.fabric.groups g x } }

def State.domain (s : State) (n : Nat) : Domain := (tabGet s.domains n).getD { e := 0, lastAdv := 0 }

/-- The value of an undetermined choice: the agenda's, or a free one when it names none (log 5, DESIGN CHOICE). -/
def State.choose (s : State) : Nat × State :=
  match s.choice with
  | c :: cs => (c, { s with choice := cs })
  | [] => (Config.freeChoice s.fresh, { s with fresh := s.fresh + 1 })

/-- The next number for an outstanding instruction or a fault record. -/
def State.tag (s : State) : Nat × State := (s.tags, { s with tags := s.tags + 1 })

/-- Die of a core (R164). -/
def dieOf (core : Nat) : Nat := core / 72

/-! ### Physical memory -/

/-- n bytes from physical address a. -/
def memRead (m : Memory) : Nat → Nat → List Byte
  | _, 0 => []
  | a, n + 1 => cellGet (w := 8) m a :: memRead m (a + 1) n

/-- The bytes written at physical address a. -/
def memWrite (m : Memory) : Nat → List Byte → Memory
  | _, [] => m
  | a, b :: bs => memWrite (cellSet (w := 8) m a b) (a + 1) bs

/-- An n-byte little-endian number at a physical address (R6). -/
def State.phys (s : State) (a n : Nat) : Nat := ofBytes (memRead s.mem a n)

def State.setPhys (s : State) (a n x : Nat) : State := { s with mem := memWrite s.mem a (bytesOf n x) }

/-- A physical range set to zero. A sector written whole by it is poisoned no more, a choice that the manual leaves open
(R21, log 68, DESIGN CHOICE). -/
def State.zeroPhys (s : State) (a n : Nat) : State :=
  { s with
    mem := cellClear (w := 8) s.mem a (a + n)
    dev := { s.dev with poison := s.dev.poison.filter fun x => !(decide (a ≤ 32 * x) && decide (32 * x + 32 ≤ a + n)) } }

/-- Bases of Table 3-1. -/
def nearSize : Nat := 0xC_0000_0000
def nearBase (d : Nat) : Nat := d * 0xC_0000_0000
def farBase : Nat := 0x200_0000_0000
def hostBase : Nat := 0x1000_0000_0000

/-- The near-memory die of a physical address. -/
def nearDie (pa : Nat) : Option Nat := if pa < 4 * nearSize then some (pa / nearSize) else none

/-- The reserved top 1.5 GiB of each die (R20, R60). -/
def inReserved (pa : Nat) : Bool := decide (pa < 4 * nearSize) && decide (0xB_A000_0000 ≤ pa % nearSize)

/-- The memory of every far channel, in bytes (R23). -/
def Device.farSize (d : Device) : Nat := 2 ^ 30 * d.farChans.sum

/-- The tier of a physical address that Table 3-1 gives memory: 0 near, 1 far, 2 PCI Express. -/
def State.tierOf (s : State) (pa : Nat) : Option Nat :=
  if pa < 4 * nearSize then some 0
  else if farBase ≤ pa ∧ pa < farBase + s.dev.farSize then some 1
  else if hostBase ≤ pa ∧ pa < 2 * hostBase then some 2
  else none

/-- Whether an address is in the near memory of a lost die, which nothing can be read from any more (R18). -/
def State.lostAt (s : State) (pa : Nat) : Bool :=
  match nearDie pa with | some d => bitAt s.dev.lostDies.toNat d | none => false

/-- The subcode of ECC_UNCORR for an access to n bytes, if its die is lost, or it reads a poisoned sector (R18, R21). -/
def State.eccSub (s : State) (pa n : Nat) (reads : Bool) : Option Nat :=
  if s.lostAt pa then some 3
  else if reads && s.dev.poison.any fun x => decide (x * 32 < pa + n) && decide (pa < x * 32 + 32) then
    (if pa < 4 * nearSize then some 1 else some 2)
  else none

/-! ### Interrupts (R35, R42, R47) -/

/-- MSI-X: a masked vector sets its pending bit, an unmasked one sends its message. -/
def Msix.raise (m : Msix) (v : Nat) : Msix :=
  if m.fmask || (cellGet m.table (16 * v + 12)).toNat % 2 == 1 then { m with pend := m.pend ||| (1#64 <<< v) }
  else { m with sent := tabSet m.sent v ((tabGet m.sent v).getD 0 + 1) }

/-- Sends the pending vectors that are no longer masked. -/
def Msix.settle (m : Msix) : Msix :=
  (List.range 64).foldl (fun m v =>
    if m.pend.getLsbD v && !m.fmask && (cellGet m.table (16 * v + 12)).toNat % 2 == 0 then
      { (m.raise v) with pend := m.pend &&& ~~~(1#64 <<< v) } else m) m

/-- Raises a vector of a partition's virtual function. -/
def State.raiseVf (s : State) (pid v : Nat) : State := s.modPart pid fun p => { p with msix := p.msix.raise v }

/-- Raises a vector of PF0. -/
def State.raisePf (s : State) (v : Nat) : State := { s with dev := { s.dev with msix := s.dev.msix.raise v } }

/-! ### Causes and fault records -/

/-- Trap causes (Table 14-8). -/
def cIllegal : Nat := 0x01
def cPrivileged : Nat := 0x02
def cMisaligned : Nat := 0x03
def cAtomicSpan : Nat := 0x04
def cTranslation : Nat := 0x05
def cPermission : Nat := 0x06
def cDescBounds : Nat := 0x07
def cDescRights : Nat := 0x08
def cKvHandle : Nat := 0x09
def cDiscarded : Nat := 0x0A
def cCollapseWait : Nat := 0x0B
def cDeadline : Nat := 0x0C
def cBreakpoint : Nat := 0x0D
def cWatch : Nat := 0x0E
def cTrapInstr : Nat := 0x0F
def cEcc : Nat := 0x10
def cFabTimeout : Nat := 0x11
def cLevel : Nat := 0x12

/-- A cause with what its record says of it: subcode, address, walk level and access kind (0 read, 1 write, 2 atomic,
3 fetch). -/
structure Cause where
  code : Nat
  sub : Nat
  va : Nat
  lvl : Nat
  acc : Nat
  deriving DecidableEq, Repr

/-- A cause with no address of its own. -/
def Cause.plain (code : Nat) : Cause := { code := code, sub := 0, va := 0, lvl := 0, acc := 0 }

/-- The 32 bytes of a fault record (Table 3-4), OUTCOME `oc`. -/
def recordBits (w : WgId) (asid : Nat) (c : Cause) (pc : Nat) (pend group srck oc : Nat) : BitVec 256 :=
  BitVec.ofNat 256 (srck % 4 * 2 ^ 21 + oc % 4 * 2 ^ 23 + c.lvl % 8 * 2 ^ 25 + c.acc % 4 * 2 ^ 28
    + (if bitAt w.slotv.toNat 31 then (w.slotv.toNat % 1024) * 2 ^ 30 + 2 ^ 40 else 0)
    + w.ctx % 32 * 2 ^ 41 + w.slot % 8 * 2 ^ 46 + (if srck = 0 then nthD group w.gnum group % 64 * 2 ^ 49 else 0) + w.core % 512 * 2 ^ 55
    + c.sub % 256 * 2 ^ 64 + c.code % 256 * 2 ^ 72 + asid % 2 ^ 16 * 2 ^ 80
    + (if srck = 0 then pend % 2 ^ 32 * 2 ^ 96 else 0) + pc % 2 ^ 64 * 2 ^ 128 + c.va % 2 ^ 64 * 2 ^ 192)

/-- The ASID of a context. -/
def State.asidOf (s : State) (pid ctx : Nat) : Nat := match s.ctx? pid ctx with | some c => c.asid | none => 0

/-- Delivers a fault record to the system controller (R81). It answers the record's number. -/
def State.deliver (s : State) (w : WgId) (c : Cause) (pc pend group srck : Nat) (oc : Option Nat) : Nat × State :=
  let r : FaultRec := { bits := recordBits w (s.asidOf w.pid w.ctx) c pc pend group srck (oc.getD 0)
                        pid := w.pid, core := w.core, slot := w.slot, group := group, source := srck, outcome := oc }
  (s.tags, { s with frecs := tabSet s.frecs s.tags r, tags := s.tags + 1 })

/-- Posts a record that suspends nothing: an abandoned arrival, action, flush or dump (R121, R152, R299, R335). -/
def State.post (s : State) (w : WgId) (c : Cause) (pc : Nat) : State := (s.deliver w c pc 0 0 3 (some 1)).2

/-! ### Threads of a workgroup -/

/-- The lane thread at a position of a group. -/
def Wg.lane? (w : Wg) (g l : Nat) : Option Thread := tabGet w.lanes (32 * g + l)
def Wg.setLane (w : Wg) (g l : Nat) (t : Thread) : Wg := { w with lanes := tabSet w.lanes (32 * g + l) t }
def Wg.modLane (w : Wg) (g l : Nat) (f : Thread → Thread) : Wg :=
  match w.lane? g l with | some t => w.setLane g l (f t) | none => w

/-- A group as it stands at workgroup start. -/
def Group.init : Group :=
  { pend := 0, replay := none, susp := .none, traps := [], den := 0, lpc := 0, issued := 0, lost := 0, yielded := 0
    halted := false, stepping := false, brk := 0, dqPos := 0, waitAll := 0, waitGrp := 0, sFloor := 0, lastIssue := 0
    readySince := none, fused := none }

def Wg.group (w : Wg) (g : Nat) : Group := (tabGet w.groups g).getD Group.init
def Wg.setGroup (w : Wg) (g : Nat) (x : Group) : Wg := { w with groups := tabSet w.groups g x }

/-- The lanes named in a mask, in increasing order. -/
def lanesOf (m : LaneMask) : List Nat := (List.range 32).filter fun l => m.getLsbD l

/-- The mask of a list of lanes. -/
def maskOfLanes : List Nat → LaneMask
  | [] => 0
  | l :: ls => (1#32 <<< l) ||| maskOfLanes ls

/-- The lanes of a group that exist and have not exited. -/
def Wg.living (w : Wg) (g : Nat) : LaneMask :=
  maskOfLanes ((List.range 32).filter fun l => match w.lane? g l with | some t => !t.ended | none => false)

/-- The number of issue groups (R175). -/
def Wg.ngroups (w : Wg) : Nat := ceilDiv w.id.nlane 32

/-- The reader count a section leaves in its core's counter (R112). -/
def Core.addCount (c : Core) (par : Nat) (n : Int) : Core :=
  if par = 0 then { c with c0 := (c.c0 + n).toNat } else { c with c1 := (c.c1 + n).toNat }

def Core.count (c : Core) (par : Nat) : Nat := if par = 0 then c.c0 else c.c1

/-! ### New partitions, contexts, workgroups -/

/-- A thread as it starts, at an entry point (R176). -/
def Thread.start (pc : DWord) : Thread :=
  { pc := pc, ended := false, v := [], k := [], p := 0, rdepth := 0, rpar := 0, last := none, wait := .none
    region := none, outs := [] }

/-- The control registers at workgroup start (Tables 6-3, 6-7, 14-7). -/
def Csrs.reset : Csrs :=
  { trapvec := 0, trapcause := 0, trappc := 0, trapinfo := 0, kill := false, hm := false, tscr0 := 0, tscr1 := 0
    stopall := false, att := false, watcha := 0, watchctl := 0, fifocfg := 0, accmask := 0 }

/-- A workgroup as it starts (R176, R359), its uniform registers from the ARGS block. -/
def Wg.start (id : WgId) (centry lentry : DWord) (args : Cells 32) : Wg :=
  { id := id, lanes := (List.range id.nlane).map fun i => (i, Thread.start lentry)
    groups := (List.range (ceilDiv id.nlane 32)).map fun g => (g, Group.init)
    ctl := Thread.start centry, ctlSusp := .none, ctlReplay := none, ctlTrap := none, ctlHeld := none, fails := [], s := args, sLog := [], sSeq := 0
    dq := [], dqBase := 0, csrs := Csrs.reset, scratch := [], fifo0 := { head := 0, data := [] }
    fifo1 := { head := 0, data := [] }, slopes := [], stats := [], unit := some id.wgi, mailbox := none
    drained := false, engOps := 0, ended := false, faulter := false }

/-- The host's side of a context just loaded (R38, R47). -/
def Admission.fresh : Admission :=
  { drop := 0, count := 0, queue := [], slots := [], evicted := [], final := true, time := 50, cnt := 1, pending := 0
    oldest := 0 }

/-- A context record with every field 0 (Table 5-2). -/
def Context.blank : Context :=
  { stepn := 0, graphp := 0, placep := 0, rdbase := 0, dumpb := 0, dumpsz := 0, rgntab := 0, l4base := 0, clmask := 0
    seqtpl := 0, margin := 0, rejlost := 0, starve := 0, overrun := 0, asid := 0, tokbud := 0, chunk := 0, nslot := 0
    fdom := 0, prio := 0, defcl := 0, spool := 0, evmode := 0, nseq := 0, cstate := 0, haltrsn := 0, regions := []
    adm := Admission.fresh, run := none, saved := [], swapped := false, savedAt := 0, wasIdle := false
    haltAtClose := false, ringLost := 0, retryAt := 0, formNext := false }

/-- A partition with every field 0 (Table 2-8), its registers at their reset values (Table 2-2). -/
def Partition.blank : Partition :=
  { state := 1, strict := false, fabric := false, rslots := 8, prio := 0, nctx := 0, fabgrp := 0, clmask := 0, nmbg := 0
    l2ways := 0, fmbs := 0, fbw := 0, tokbud := 0, fdom := 0, poolbase := 0, rqbase := 0, fqbase := 0, dtbase := 0
    held0 := 0, held1 := 0, werr := 0, fqtail := 0, fqhead := 0, apbase := 0, aperr := false, fq := [], ctxs := []
    pools := [], handles := [], descs := [], rq := [], mbox := Mailbox.empty, msix := Msix.init 64 }

/-! ### Taking a handler cause and returning (R400 to R402) -/

/-- TRAPCAUSE for a request: group g of a lane path, or the control thread (Table 14-7). -/
def trapCauseOf (r : TrapReq) (lane : Bool) (g : Nat) : DWord :=
  BitVec.ofNat 64 (r.cause + r.sub * 256 + (if lane then g % 32 * 2 ^ 21 + 2 ^ 26 else 0) + r.code.toNat * 2 ^ 32)

/-- Entry to the handler at TRAPVEC: TRAPPC takes the control thread's PC, TRAPCAUSE and TRAPINFO the cause, HM is set
and the control thread goes to VEC, whatever it waited for kept aside (R401). -/
def Wg.enterHandler (w : Wg) (r : TrapReq) (lane : Bool) (g : Nat) : Wg :=
  { w with
    csrs := { w.csrs with trappc := w.ctl.pc, trapcause := trapCauseOf r lane g, trapinfo := r.info, hm := true }
    ctlHeld := if w.ctl.wait = .none then none else some (w.ctl.pc, w.ctl.wait)
    ctl := { w.ctl with pc := w.csrs.trapvec &&& ~~~3#64, wait := .none } }

/-- The return from the handler with KILL = 0: PC from TRAPPC, HM cleared (R402). The trapped group, if there is one,
resumes once no other of its requests waits. A wait of the control thread goes on unless the handler moved TRAPPC (log 55,
DESIGN CHOICE). -/
def Wg.leaveHandler (w : Wg) : Wg :=
  let g := bitsAt w.csrs.trapcause.toNat 25 21
  let w := if bitAt w.csrs.trapcause.toNat 26 then w.setGroup g { w.group g with traps := (w.group g).traps.tail } else w
  let wait := match w.ctlHeld with | some (pc, x) => if pc = w.csrs.trappc then x else .none | none => .none
  { w with csrs := { w.csrs with hm := false }, ctlHeld := none, ctl := { w.ctl with pc := w.csrs.trappc, wait := wait } }

/-- What group g, or the control thread (none), is suspended on. -/
def Wg.suspOn (w : Wg) (g : Option Nat) : Susp := match g with | some g => (w.group g).susp | none => w.ctlSusp

/-- Group g, or the control thread, is suspended on a record; one that is suspended already keeps what it waits for. -/
def Wg.suspend (w : Wg) (g : Option Nat) (n : Nat) : Wg :=
  if w.suspOn g != .none then { w with fails := w.fails ++ [(n, g)] }
  else match g with
    | some g => w.setGroup g { w.group g with susp := .fault n, replay := none }
    | none => { w with ctlSusp := .fault n, ctlReplay := none }

/-- The fatal treatment of a handler cause (R400): TRAPCAUSE and TRAPINFO are written, HM, TRAPPC and the PC are not,
and a record goes to the system controller. -/
def State.fatalHandler (s : State) (w : Wg) (r : TrapReq) (lane : Bool) (g : Nat) : State :=
  let pend := if lane then r.mask.toNat else 0
  let va := if r.cause = cWatch then r.info.toNat else r.code.toNat
  let (n, s) := s.deliver w.id { code := r.cause, sub := r.sub, va := va, lvl := 0, acc := r.acc } r.pc.toNat pend g
    (if lane then 0 else 1) none
  let w := { w with csrs := { w.csrs with trapcause := trapCauseOf r lane g, trapinfo := r.info } }
  s.setWg (w.suspend (if lane then some g else none) n)

/-- A handler cause raised by the control thread, its PC already past the raising instruction (R400, R401). It is
taken at once when nothing it issued is outstanding, otherwise by TRAP_ENTRY. -/
def State.raiseCtl (s : State) (w : Wg) (r : TrapReq) : State :=
  if w.csrs.trapvec = 0 ∨ w.csrs.hm then s.fatalHandler w r false 0
  else if w.ctl.outs.isEmpty then s.setWg (w.enterHandler r false 0)
  else s.setWg { w with ctlTrap := some r }

/-- A handler cause raised by a path of group g, its lanes' PCs already past the instruction: the group waits for
TRAP_ENTRY, or the fatal treatment applies (R400, R401). -/
def State.raiseLane (s : State) (w : Wg) (g : Nat) (r : TrapReq) : State :=
  if (w.csrs.trapvec = 0 ∧ !w.csrs.hm) ∨ w.ctl.ended then s.fatalHandler w r true g
  else s.setWg (w.setGroup g { w.group g with traps := (w.group g).traps ++ [r] })

end Sys2Proof.Machine
end

