-- ==== Sys2Proof/Machine/Xlate.lean ====
section
/-! DEFINITION. Translation (R63 to R68), last-page registers (R72), invalidation (R73), replicas and collapse (R74 to
R77), frames and demand mapping (R69, R70), and the accesses that hardware agents make (R421). -/

namespace Sys2Proof.Machine

/-! ### Page frames -/

/-- The range of a tier (Table 3-1, R20): near memory of a die without its reserved top, or far memory. -/
def State.tierRange (s : State) (tier die : Nat) : Nat × Nat :=
  if tier = 0 then (nearBase die, 0xB_A000_0000) else (farBase, s.dev.farSize)

/-- The bank-group slice or far bank slice of an address, as a bit of NMBG or FMBS (R60, Table 2-8). -/
def State.sliceHeld (s : State) (p : Partition) (a : Nat) : Bool :=
  if a < 4 * nearSize then p.nmbg.getLsbD (8 * (a / nearSize) + a % nearSize / 0x1_8000_0000)
  else p.fmbs.getLsbD (16 * (a - farBase) / s.dev.farSize)

/-- Whether a partition may take a frame at an address: a strict one from its own slices, others from slices that no
strict partition holds (R51, R70). `pid` 16 is firmware. -/
def State.sliceOk (s : State) (pid a : Nat) : Bool :=
  match s.part? pid with
  | some p => if p.strict then s.sliceHeld p a
              else !(s.parts.any fun e => e.2.strict && s.sliceHeld e.2 a)
  | none => !(s.parts.any fun e => e.2.strict && s.sliceHeld e.2 a)

/-- Whether a range is unused. -/
def State.frameFree (s : State) (base size : Nat) : Bool :=
  !(s.frames.any fun f => decide (f.base < base + size) && decide (base < f.base + f.size))

/-- Whether a partition may take every slice that a range of a tier meets. -/
def State.rangeOk (s : State) (pid tier base size : Nat) : Bool :=
  let step := if tier = 0 then 0x1_8000_0000 else s.dev.farSize / 16
  s.sliceOk pid (base + size - 1) &&
    (List.range 17).all fun k => decide (size ≤ k * step) || s.sliceOk pid (base + k * step)

/-- A range of a size and alignment on a tier and die: the chosen one if it is free, otherwise the lowest free one
(log 14, DESIGN CHOICE). -/
def State.allocRange (s : State) (pid tier die size align : Nat) : Option (Nat × State) :=
  let (n, s') := s.choose
  let (lo, len) := s.tierRange tier die
  let up := fun a => lo + ceilDiv (a - lo) align * align
  let ok := fun a => !(tier == 0 && bitAt s.dev.lostDies.toNat die) && decide (lo ≤ a) && decide (a + size ≤ lo + len)
    && s.frameFree a size && s.rangeOk pid tier a size
  let starts := up lo :: (s.frames.map fun f => up (f.base + f.size)) ++
    ((List.range 16).map fun k => up (if tier = 0 then lo + k * 0x1_8000_0000 else lo + k * len / 16))
  let pick := lo + n % (max 1 (len / align)) * align
  let a? := if ok pick then some pick else
    (starts.filter ok).foldl (fun m a => match m with | none => some a | some b => some (min a b)) none
  a?.map fun a => (a, { s' with frames := { base := a, size := size, pid := pid, pinned := false, table := false } :: s'.frames })

/-- A page frame of a size on a tier and die. -/
def State.allocFrame (s : State) (pid tier die size : Nat) : Option (Nat × State) := s.allocRange pid tier die size size

/-- A frame on the preferred tier and die, or in far memory (R70). -/
def State.allocPrefer (s : State) (pid tier die size : Nat) : Option (Nat × State) :=
  match s.allocFrame pid tier die size with
  | some r => some r
  | none => if tier = 0 then s.allocFrame pid 1 0 size else none

def State.freeFrame (s : State) (base : Nat) : State := { s with frames := s.frames.filter fun f => f.base != base }

/-- A frame is one that holds a table (R68). -/
def State.markTable (s : State) (base : Nat) : State :=
  { s with frames := s.frames.map fun f => if f.base == base then { f with table := true } else f }

/-- A zeroed frame for a table of a partition: near its die, or in far memory. -/
def State.allocTable (s : State) (pid : Nat) : Option (Nat × State) :=
  (s.allocPrefer pid 0 (pid % 4) 4096).map fun x => (x.1, (x.2.markTable x.1).zeroPhys x.1 4096)

/-! ### The walk -/

/-- The kinds of access (ACC of Table 3-4). -/
inductive Acc where
  | read | write | atomic | fetch
  deriving DecidableEq, Repr

def Acc.code : Acc → Nat | .read => 0 | .write => 1 | .atomic => 2 | .fetch => 3

/-- A leaf the walk reached: the address of the entry, the entry, its page and page size. -/
structure Leaf where
  pte : Nat
  e : Nat
  va : Nat
  size : Nat
  deriving DecidableEq, Repr

def Leaf.tier (l : Leaf) : Nat := bitsAt l.e 63 62
def Leaf.dev (l : Leaf) : Nat := bitsAt l.e 61 52
def Leaf.frame (l : Leaf) : Nat := bitsAt l.e 45 12 * 4096
def Leaf.repl (l : Leaf) : Bool := bitAt l.e 11
def Leaf.disc (l : Leaf) : Bool := bitAt l.e 10
def Leaf.d (l : Leaf) : Bool := bitAt l.e 8
def Leaf.x (l : Leaf) : Bool := bitAt l.e 6
def Leaf.w (l : Leaf) : Bool := bitAt l.e 5
def Leaf.rd (l : Leaf) : Bool := bitAt l.e 4
def Leaf.busy (l : Leaf) : Bool := bitAt l.e 1

/-- Bytes a leaf at a level maps (R64). -/
def levelSize (lvl : Nat) : Nat := 4096 * 512 ^ lvl

/-- Whether a range that lies in one tier meets the reserved region of a die (R20). -/
def meetsReserved (base size : Nat) : Bool :=
  decide (base < 4 * nearSize) && (inReserved base || inReserved (base + size - 1)
    || decide (base / nearSize < (base + size - 1) / nearSize))

/-- Whether a leaf's page lies outside the memory its TIER names, or in the reserved region (R65). -/
def State.badFrame (s : State) (tier base size : Nat) : Option Nat :=
  let last := base + size - 1
  if tier = 3 then none
  else if tier = 2 then
    if s.tierOf base = some 2 ∧ s.tierOf last = some 2 then none
    else if (s.tierOf base).isSome ∧ (s.tierOf last).isSome ∧ s.tierOf base = s.tierOf last ∧ !meetsReserved base size then
      some 2
    else some 4
  else if s.tierOf base = some tier ∧ s.tierOf last = some tier ∧ !meetsReserved base size then none
  else some 4

/-- A walk that stops: the cause, its subcode, and the level. -/
abbrev WalkStop : Type := Nat × Nat × Nat

/-- The entry for an address in the table of a level, with its place; a sector that cannot be read stops the walk (R21). -/
def State.tableEntry (s : State) (va tab lvl : Nat) : Except WalkStop (Nat × Nat) :=
  let pte := tab + 8 * (va / levelSize lvl % 512)
  match s.eccSub pte 8 true with
  | some sub => .error (cEcc, sub, 0)
  | none => .ok (pte, s.phys pte 8)

/-- The walk of R63 to R65 from the table at `tab`, level by level. -/
def State.walk (s : State) (va : Nat) : Nat → Nat → Except WalkStop Leaf
  | tab, lvl =>
    let rec loop : Nat → Nat → Except WalkStop Leaf
      | 0, tab => match s.tableEntry va tab 0 with
        | .error x => .error x
        | .ok p => done 0 p
      | l + 1, tab => match s.tableEntry va tab (l + 1) with
        | .error x => .error x
        | .ok (pte, e) =>
          if !bitAt e 0 then .error (cTranslation, 1, l + 1)
          else if bitAt e 7 then (if 2 < l + 1 then .error (cTranslation, 2, l + 1) else done (l + 1) (pte, e))
          else loop l (bitsAt e 45 12 * 4096)
    loop lvl tab
where
  /-- The checks on the last entry read. -/
  done (l : Nat) (p : Nat × Nat) : Except WalkStop Leaf :=
    let (pte, e) := p
    let size := levelSize l
    if !bitAt e 0 then .error (cTranslation, 1, l)
    else if !bitAt e 7 then .error (cTranslation, 2, l)
    else if bitsAt e 45 12 * 4096 % size != 0 then .error (cTranslation, 2, l)
    else if bitAt e 3 then .error (cTranslation, 2, l)
    else match s.badFrame (bitsAt e 63 62) (bitsAt e 45 12 * 4096) size with
      | some sub => .error (cTranslation, sub, l)
      | none => .ok { pte := pte, e := e, va := va / size * size, size := size }

/-! ### Translation -/

/-- On whose behalf an access is made: the context whose tables translate it, and the die it comes from. -/
structure Who where
  pid : Nat
  ctx : Nat
  die : Nat
  deriving DecidableEq, Repr

/-- What a translation answers. -/
inductive Xlat where
  /-- Bytes at a physical address. -/
  | pa (pa : Nat)
  /-- A read of a discarded page: zero bytes (R87). -/
  | zero
  /-- A TIER 3 leaf reached by a remote operation: device and target address. -/
  | remote (dev pa : Nat)
  /-- A cause of Table 3-6 with subcode and level. -/
  | cause (code sub lvl : Nat)
  /-- A write that met REPL = 1 (R75). -/
  | collapse (pte : Nat)
  /-- A write that met BUSY = 1 (R76). -/
  | busy
  deriving DecidableEq, Repr

/-- The replica that serves reads of a frame on a die, if it is filled (R74). -/
def State.replicaFor (s : State) (die home : Nat) : Option Replica :=
  s.replicas.find? fun r => r.die == die && r.filled && decide (r.home ≤ home) && decide (home < r.home + r.size)

/-- The collapses in flight that a writer finds in its die's engine (R77): a strict partition's own, which nobody else counts
(R52, Table 2-9; log 136, DEDUCED), or those of all other partitions. -/
def State.collapsesFor (s : State) (who : Who) : Nat :=
  (s.collapses.filter fun c => c.die == who.die && s.domOf c.pid == s.domOf who.pid).length

/-- R62, R66, R75 to R77, R87 and R88 for a leaf: where the access goes or why it does not. `remote` marks RLD, RST
and RATOM. A write to a page that is both BUSY and discarded waits for BUSY first (log 32, DESIGN CHOICE). -/
def State.leafAccess (s : State) (who : Who) (l : Leaf) (va : Nat) (acc : Acc) (remote : Bool) : Xlat :=
  let pa := l.frame + va % l.size
  let there : Xlat := if l.tier = 3 then .remote l.dev pa else .pa pa
  if l.tier = 3 ∧ !remote then .cause cPermission 4 0
  else if l.tier ≠ 3 ∧ remote then .cause cPermission 5 0
  else if l.tier = 2 ∧ acc = .atomic then .cause cPermission 7 0
  else match acc with
  | .read =>
    if l.disc then .zero
    else if !l.rd then .cause cPermission 1 0
    else match (if l.repl && !l.busy && l.tier != 3 then s.replicaFor who.die pa else none) with
      | some r => .pa (r.frame + (pa - r.home))
      | none => there
  | .fetch => if !l.x then .cause cPermission 3 0 else if l.disc then .zero else .pa pa
  | .write | .atomic =>
    if l.busy then .busy
    else if l.disc then .cause cDiscarded 0 0
    else if l.repl then (if 32 ≤ s.collapsesFor who then .cause cCollapseWait 0 0
                         else .collapse l.pte)
    else if acc = .atomic ∧ !l.rd then .cause cPermission 1 0
    else if !l.w then .cause cPermission 2 0
    else there

/-- A is set at the first fill, D at the first write (R67), which an atomic access counts as when it is translated (log 142, DESIGN
CHOICE). -/
def State.markAD (s : State) (l : Leaf) (acc : Acc) : State :=
  let e := if bitAt l.e 9 then l.e else l.e + 2 ^ 9
  let e := if (acc = .write ∨ acc = .atomic) ∧ !bitAt e 8 then e + 2 ^ 8 else e
  if e = l.e then s else s.setPhys l.pte 8 e

/-- A read of a REPL page of another die may create a replica, which serves nothing until it is filled (R74). Only pages of near and
far memory get one (log 144, DESIGN CHOICE). -/
def State.mayReplicate (s : State) (who : Who) (l : Leaf) (va : Nat) : State :=
  if l.repl && !l.busy && nearDie l.frame != some who.die && l.tier ≤ 1 then
    let part := min l.size 0x20_0000
    let home := l.frame + va % l.size / part * part
    if s.replicas.any fun r => r.die == who.die && r.home == home then s
    else
      let (n, s) := s.choose
      if n % 2 = 0 then s
      else match s.allocFrame who.pid 0 who.die part with
        | none => s
        | some (f, s) =>
          { s with replicas := { die := who.die, pid := who.pid, home := home, frame := f, size := part, filled := false }
                     :: s.replicas }
  else s

/-- Translates one access by the tables (R63 to R67) and updates A and D. A is set only for an access that performs, or a
read of zeros (R67, log 118, DESIGN CHOICE). The leaf is answered for the last-page register. -/
def State.xlate (s : State) (who : Who) (va : Nat) (acc : Acc) (remote : Bool) : Xlat × Option Leaf × State :=
  if 2 ^ 57 ≤ va then (.cause cTranslation 3 0, none, s)
  else match s.ctx? who.pid who.ctx with
  | none => (.cause cTranslation 1 4, none, s)
  | some c =>
    match s.walk va c.l4base 4 with
    | .error (code, sub, lvl) => (.cause code sub lvl, none, s)
    | .ok l =>
      match s.leafAccess who l va acc remote with
      | .pa pa => (.pa pa, some l, if acc = .read then (s.markAD l acc).mayReplicate who l va else s.markAD l acc)
      | .zero => (.zero, some l, s.markAD l .read)
      | .remote d pa => (.remote d pa, some l, s.markAD l acc)
      | x => (x, some l, s)

/-! ### Invalidation (R73) -/

/-- Whether two ranges meet. -/
def meets (a n b m : Nat) : Bool := decide (a < b + m) && decide (b < a + n)

/-- Clears a lane's last-page register and marks its region if the range covers them, with the line as memory holds it now (R72,
R294). -/
def Thread.invalidate (m : Memory) (t : Thread) (va n : Nat) : Thread :=
  { t with
    last := match t.last with | some l => if meets l.va l.size va n then none else some l | none => none
    region := t.region.map fun r => if meets r.line.toNat 128 va n ∧ r.stale = none then
        { r with stale := some (memRead m r.pa 128) } else r }

/-- The invalidation of an ASID over a range (R73). Nothing else holds a translation in this model (log 4, DEDUCED). -/
def State.invalidate (s : State) (pid asid va n : Nat) : State :=
  { s with wgs := s.wgs.map fun e =>
      if e.2.id.pid == pid && s.asidOf pid e.2.id.ctx == asid then
        (e.1, { e.2 with lanes := e.2.lanes.map fun x => (x.1, x.2.invalidate s.mem va n), ctl := e.2.ctl.invalidate s.mem va n })
      else e }

/-- The last-page registers that translate to a physical range are cleared (R72, R73). -/
def State.forgetFrame (s : State) (base size : Nat) : State :=
  let go := fun (t : Thread) =>
    { t with last := match t.last with | some l => if meets l.pa l.size base size then none else some l | none => none }
  { s with wgs := s.wgs.map fun e => (e.1, { e.2 with lanes := e.2.lanes.map fun x => (x.1, go x.2), ctl := go e.2.ctl }) }

/-- A replica is dropped, with its translations. -/
def State.dropReplica (s : State) (r : Replica) : State :=
  { (s.freeFrame r.frame).forgetFrame r.frame r.size with
    replicas := s.replicas.filter fun x => !(x.die == r.die && x.home == r.home) }

/-- The replicas of what lies in a physical range are dropped. -/
def State.dropReplicas (s : State) (base size : Nat) : State :=
  (s.replicas.filter fun r => decide (base ≤ r.home) && decide (r.home < base + size)).foldl State.dropReplica s

/-- A page's frame is zeroed and free again, and nothing of the page is left: no replica and no translation. -/
def State.releaseFrame (s : State) (base size : Nat) : State :=
  (((s.dropReplicas base size).forgetFrame base size).zeroPhys base size).freeFrame base

/-! ### Collapse (R75, R77) -/

/-- The collapse that an access of a context waits for. -/
def State.collapseOf (s : State) (pid ctx : Nat) (va : DWord) : Option Collapse :=
  s.collapses.find? fun c => c.pid == pid && c.asid == s.asidOf pid ctx && c.va == va

/-- The leaf that a collapse is of. -/
def State.collapseLeaf (s : State) (c : Collapse) : Except (Nat × Nat × Nat) Leaf :=
  s.walk c.va.toNat (match (s.part? c.pid).bind fun p => (p.ctxs.find? fun e => e.2.asid == c.asid) with
      | some e => e.2.l4base | none => 0) 4

/-- Steps 2 to 5 of a collapse: the translations go, the replicas go, REPL and BUSY are cleared. -/
def State.finishCollapse (s : State) (c : Collapse) : State :=
  match s.collapseLeaf c with
  | .error _ => { s with collapses := s.collapses.filter fun x => x != c }
  | .ok l =>
    let s := s.invalidate c.pid c.asid l.va l.size
    let inPage := fun (r : Replica) => decide (l.frame ≤ r.home) && decide (r.home < l.frame + l.size)
    let dead := s.replicas.filter inPage
    let s := { s with replicas := s.replicas.filter fun r => !inPage r, collapses := s.collapses.filter fun x => x != c }
    let s := dead.foldl (fun s r => s.freeFrame r.frame) s
    let e := s.phys l.pte 8
    let e := if bitAt e 11 then e - 2 ^ 11 else e
    s.setPhys l.pte 8 (if bitAt e 1 then e - 2 else e)

/-- Step 1: BUSY is set, and the engine of the writer's die holds the collapse. -/
def State.startCollapse (s : State) (who : Who) (va pte : Nat) : State :=
  let e := s.phys pte 8
  { (s.setPhys pte 8 (if bitAt e 1 then e else e + 2)) with
    collapses := s.collapses ++ [{ die := who.die, pid := who.pid, asid := s.asidOf who.pid who.ctx
                                   va := BitVec.ofNat 64 va, pte := pte }] }

/-! ### Demand mapping (R69, R70) -/

def rgVbase (r : BitVec 256) : Nat := bitsAt r.toNat 248 192
def rgSize (r : BitVec 256) : Nat := bitsAt r.toNat 191 128
def rgBack (r : BitVec 256) : Nat := bitsAt r.toNat 127 56
def rgKind (r : BitVec 256) : Nat := bitsAt r.toNat 53 48
def rgTier (r : BitVec 256) : Nat := bitsAt r.toNat 47 46
def rgDie (r : BitVec 256) : Nat := bitsAt r.toNat 45 44
def rgLevel (r : BitVec 256) : Nat := bitsAt r.toNat 43 42
def rgPage (r : BitVec 256) : Nat := levelSize (rgLevel r)

/-- The region that holds an address. -/
def Context.regionOf (c : Context) (va : Nat) : Option (BitVec 256) :=
  c.regions.find? fun r => decide (rgVbase r ≤ va) && decide (va < rgVbase r + rgSize r)

/-- The leaf bits a region's descriptor gives: REPL, X, W, RD and MATTR, with L and V (Table 3-3). -/
def rgLeafBits (r : BitVec 256) : Nat := 2 ^ 7 + 1 + bitsAt r.toNat 6 2 * 4 + b2n (bitAt r.toNat 7) * 2 ^ 11

/-- Writes a leaf at a level, making the tables above it as needed. None when no frame is left for a table. -/
def State.mapLeaf (s : State) (pid l4 va lvl leaf : Nat) : Option State :=
  let rec go : Nat → Nat → State → Option State
    | 0, tab, s => some (s.setPhys (tab + 8 * (va / levelSize lvl % 512)) 8 leaf)
    | n + 1, tab, s =>
      let pte := tab + 8 * (va / levelSize (lvl + n + 1) % 512)
      let e := s.phys pte 8
      if bitAt e 0 && !bitAt e 7 then go n (bitsAt e 45 12 * 4096) s
      else match s.allocTable pid with
        | none => none
        | some (f, s) => go n f (s.setPhys pte 8 (f + 1))
  go (4 - lvl) l4 s

/-- The leaf for an address of a region, with a fresh zeroed frame for KIND 1 and 2 (R70). None: no memory. The target addresses of a KIND
4 region wrap at 2^46, so that a leaf never leaves its tier (R50; log 143, DESIGN CHOICE). -/
def State.mapRegionPage (s : State) (pid l4 va : Nat) (r : BitVec 256) : Option State :=
  let page := va / rgPage r * rgPage r
  let off := page - rgVbase r
  match rgKind r with
  | 3 => s.mapLeaf pid l4 page (rgLevel r) (rgLeafBits r + 2 * 2 ^ 62 + (hostBase + bitsAt (rgBack r) 43 0 + off))
  | 4 => s.mapLeaf pid l4 page (rgLevel r)
      (rgLeafBits r + 3 * 2 ^ 62 + bitsAt (rgBack r) 63 54 * 2 ^ 52 + (bitsAt (rgBack r) 53 8 + off) % 2 ^ 46)
  | _ =>
    match s.allocPrefer pid (rgTier r) (rgDie r) (rgPage r) with
    | none => none
    | some (f, s) =>
      let tier := if f < farBase then 0 else 1
      (s.zeroPhys f (rgPage r)).mapLeaf pid l4 page (rgLevel r) (rgLeafBits r + tier * 2 ^ 62 + f)

/-- What firmware does with a fault (R70): a page is installed, none is available, or the cause is fatal. -/
inductive Resolved where
  | installed (s : State)
  | noMemory
  | fatal

/-- The three cases of R70. A page that another record's resolution has installed by now stays as it is. The frame that a
discarded page had is free again once the fresh one is mapped (log 119, DESIGN CHOICE). -/
def State.resolve (s : State) (pid ctx va cause sub : Nat) : Resolved :=
  match s.ctx? pid ctx with
  | none => .fatal
  | some c =>
    match c.regionOf va with
    | none => .fatal
    | some r =>
      if (cause = cTranslation ∧ sub = 1 ∧ (rgKind r = 1 ∨ rgKind r = 3)) ∨ (cause = cDiscarded ∧ rgKind r = 1) then
        let old := (s.walk va c.l4base 4).toOption
        if old.any fun l => !(cause == cDiscarded && l.disc) then .installed s
        else match s.mapRegionPage pid c.l4base va r with
          | some s => .installed ((old.elim s fun l => s.releaseFrame l.frame l.size).invalidate pid c.asid va (rgPage r))
          | none => .noMemory
      else .fatal

/-! ### Accesses of agents (R421) -/

/-- One translation for an agent: causes that firmware resolves are resolved, collapses and moves complete, and the
access is made again. The error is the unresolved cause and subcode. -/
def State.agentXlate (s : State) (who : Who) (va : Nat) (acc : Acc) : Nat → Except Cause Xlat × State
  | 0 => (.error { code := cTranslation, sub := 1, va := va, lvl := 0, acc := acc.code }, s)
  | n + 1 =>
    let (x, leaf, s) := s.xlate who va acc false
    match x with
    | .cause code sub lvl =>
      let err : Cause := { code := code, sub := sub, va := va, lvl := lvl, acc := acc.code }
      if code = cCollapseWait then
        match (s.ctx? who.pid who.ctx).map fun c => s.walk va c.l4base 4 with
        | some (.ok l) => (((s.startCollapse who va l.pte).finishCollapse
            { die := who.die, pid := who.pid, asid := s.asidOf who.pid who.ctx, va := BitVec.ofNat 64 va, pte := l.pte })
            ).agentXlate who va acc n
        | _ => (.error err, s)
      else match s.resolve who.pid who.ctx va code sub with
        | .installed s => s.agentXlate who va acc n
        | .noMemory => (.error { err with sub := 5 }, s)
        | .fatal => (.error err, s)
    | .collapse pte =>
      ((s.startCollapse who va pte).finishCollapse
        { die := who.die, pid := who.pid, asid := s.asidOf who.pid who.ctx, va := BitVec.ofNat 64 va, pte := pte }
        ).agentXlate who va acc n
    | .busy =>
      (match s.collapses.find? fun (c : Collapse) => some c.pte == leaf.map Leaf.pte with
        | some c => s.finishCollapse c | none => s).agentXlate who va acc n
    | x => (.ok x, s)

/-- An agent's read of n bytes that lie in one page. -/
def State.agentRead (s : State) (who : Who) (va n : Nat) : Except Cause Nat × State :=
  match s.agentXlate who va .read 5 with
  | (.error c, s) => (.error c, s)
  | (.ok x, s) =>
    match x with
    | .pa pa => match s.eccSub pa n true with
      | some sub => (.error { code := cEcc, sub := sub, va := va, lvl := 0, acc := 0 }, s)
      | none => (.ok (s.phys pa n), s)
    | _ => (.ok 0, s)

/-- An agent's write of bytes that lie in one page. -/
def State.agentWrite (s : State) (who : Who) (va : Nat) (bs : List Byte) : Except Cause Unit × State :=
  match s.agentXlate who va .write 5 with
  | (.error c, s) => (.error c, s)
  | (.ok x, s) =>
    match x with
    | .pa pa => match s.eccSub pa bs.length false with
      | some sub => (.error { code := cEcc, sub := sub, va := va, lvl := 0, acc := 1 }, s)
      | none => (.ok (), { s with mem := memWrite s.mem pa bs })
    | _ => (.ok (), s)

/-- An agent's read of n bytes, piece by piece. -/
def State.agentReadMany (s : State) (who : Who) (va : Nat) : Nat → Nat → Except Cause (List Byte) × State
  | 0, _ => (.ok [], s)
  | k + 1, step =>
    match s.agentRead who va step with
    | (.error c, s) => (.error c, s)
    | (.ok x, s) =>
      match s.agentReadMany who (va + step) k step with
      | (.error c, s) => (.error c, s)
      | (.ok bs, s) => (.ok (bytesOf step x ++ bs), s)

/-- An agent's write of many bytes in pieces of 8, stopping at the first unresolved cause. -/
def State.agentWriteMany (s : State) (who : Who) (va : Nat) : List Byte → Except Cause Unit × State
  | a :: b :: c :: d :: e :: f :: g :: h :: bs =>
    match s.agentWrite who va [a, b, c, d, e, f, g, h] with
    | (.error x, s) => (.error x, s)
    | (.ok _, s) => s.agentWriteMany who (va + 8) bs
  | [] => (.ok (), s)
  | bs => s.agentWrite who va bs

/-- An agent's 4- or 8-byte atomic update at an address in one page. -/
def State.agentUpdate (s : State) (who : Who) (va n : Nat) (f : Nat → Nat) : Except Cause Unit × State :=
  match s.agentXlate who va .atomic 5 with
  | (.error c, s) => (.error c, s)
  | (.ok x, s) =>
    match x with
    | .pa pa => match s.eccSub pa n true with
      | some sub => (.error { code := cEcc, sub := sub, va := va, lvl := 0, acc := 2 }, s)
      | none => (.ok (), s.setPhys pa n (f (s.phys pa n)))
    | _ => (.ok (), s)

end Sys2Proof.Machine
end

