-- ==== Sys2Proof/Machine/Operands.lean ====
section
/-! DEFINITION. Operands: the path that is issuing, guards (R193), register naming and legality (R194 to R196), reading
and writing registers at their widths (R195, R219), and the end of an instruction's issue (PC, lookahead). -/

namespace Sys2Proof.Machine

/-- What issues: a path of lanes of a group, or a control thread, with the uniform registers as it reads them. -/
structure Path where
  w : Wg
  ctl : Bool
  grp : Nat
  mask : LaneMask
  uni : Cells 32

/-- The thread at lane l of the path; l is 0 for a control thread (R209). -/
def Path.thread (p : Path) (l : Nat) : Option Thread := if p.ctl then some p.w.ctl else p.w.lane? p.grp l

/-- The lanes of the path, or [0] for a control thread. -/
def Path.lanes (p : Path) : List Nat := if p.ctl then [0] else lanesOf p.mask

/-- The PC the path shares. -/
def Path.pc (p : Path) : DWord :=
  match p.lanes with
  | l :: _ => match p.thread l with | some t => t.pc | none => 0
  | [] => 0

/-- A uniform register as a lane reads it when writes of it are not yet ordered before the lane (R184): the present
value or one that it held since, by choice. -/
def State.uniforms (s : State) (w : Wg) (floor : Nat) : Cells 32 × State :=
  (List.range 32).foldl (fun (acc : Cells 32 × State) r =>
    match w.sLog.filter fun e => decide (floor ≤ e.seq) && e.reg == r with
    | [] => acc
    | es =>
      let (n, s) := acc.2.choose
      (cellSet acc.1 r (nthD (cellGet w.s r) (cellGet w.s r :: es.map (·.old)) (n % (es.length + 1))), s)) (w.s, s)

/-- The path or control thread that `cur` names. -/
def State.path? (s : State) : Option (Path × State) :=
  match s.cur with
  | none => none
  | some (.lanes core slot g m) =>
    (s.wg? core slot).map fun w =>
      let (u, s) := s.uniforms w (w.group g).sFloor
      ({ w := w, ctl := false, grp := g, mask := m, uni := u }, s)
  | some (.ctrl core slot) =>
    (s.wg? core slot).map fun w => ({ w := w, ctl := true, grp := 0, mask := 1, uni := w.s }, s)

/-- Who translates for the path. -/
def Path.who (p : Path) : Who := { pid := p.w.id.pid, ctx := p.w.id.ctx, die := dieOf p.w.id.core }

/-- Predicate n of a thread: p0 and q0 read 1 (R193). -/
def Thread.pred (t : Thread) (n : Nat) : Bool := n == 0 || t.p.getLsbD n

/-- The guard of R193 for a thread. -/
def Thread.guard (t : Thread) (g : Guard) : Bool := t.pred g.p.toNat != g.neg

/-- The lanes l with LaneActive(l) (R210), with their threads. -/
def Path.active (p : Path) (g : Guard) : List (Nat × Thread) :=
  p.lanes.filterMap fun l => match p.thread l with
    | some t => if t.guard g then some (l, t) else none
    | none => none

/-! ### Reading -/

/-- A register field at a width (R194, R195). -/
def Path.reg (p : Path) (t : Thread) (u : Use) (n : BitVec 6) (x : Bool) : Nat :=
  let v := fun i => (cellGet t.v i).toNat
  let k := fun i => (cellGet t.k i).toNat
  let s := fun i => (cellGet p.uni i).toNat
  let i := n.toNat
  if p.ctl then
    match u with
    | .r128 => k i + 2 ^ 64 * k (i + 1)
    | .r32 => if i < 32 then k i % 2 ^ 32 else s (i - 32)
    | .pred => b2n (t.pred i)
    | _ => if i < 32 then k i else s (i - 32)
  else match u with
    | .r64 => if x then s i + 2 ^ 32 * s (i + 1) else v i + 2 ^ 32 * v (i + 1)
    | .r128 => v i + 2 ^ 32 * v (i + 1) + 2 ^ 64 * v (i + 2) + 2 ^ 96 * v (i + 3)
    | .pred => b2n (t.pred i)
    | _ => if x then s i else v i

/-- Operands A, B and C: a register at the entry's width or the trailing literal (R200). -/
def Path.opA (p : Path) (t : Thread) (mj : Major) (f : LForm) : Nat :=
  if litOf mj f = .a then f.lit.toNat else p.reg t (useA mj f) f.a (f.xbit 0)
def Path.opB (p : Path) (t : Thread) (mj : Major) (f : LForm) : Nat :=
  if litOf mj f = .b then f.lit.toNat else p.reg t (useB mj f) f.b (f.xbit 1)
def Path.opC (p : Path) (t : Thread) (mj : Major) (f : LForm) : Nat :=
  if litOf mj f = .c then f.lit.toNat else p.reg t (useC mj f) f.c (f.xbit 2)

/-- Word 2 as a signed byte offset, or the literal that replaces it (R279, R280). -/
def offOf (mj : Major) (f : LForm) : Int := if litOf mj f = .off then sx 64 f.lit.toNat else sx 32 f.w2.toNat

/-- Word 2 [95:80] and [79:64] (Table 7-1). -/
def descOf (f : LForm) : Nat := f.w2.toNat / 2 ^ 16
def immOf (f : LForm) : Nat := f.w2.toNat % 2 ^ 16

/-! ### Writing -/

/-- wr(T, x) to register d (R195, R219). -/
def Path.wr (p : Path) (d : BitVec 6) (ty : Ty) (x : Int) : List RegWrite :=
  let i := d.toNat
  let b := wrBits ty x
  if p.ctl then
    (if i < 32 then [.k i (BitVec.ofNat 64 (kExtend ty (wrapN (tyWidth ty) x)))] else [.s (i - 32) (BitVec.ofNat 32 b)])
  else if tyWidth ty = 64 then [.v i (BitVec.ofNat 32 b), .v (i + 1) (BitVec.ofNat 32 (b / 2 ^ 32))]
  else [.v i (BitVec.ofNat 32 b)]

/-- A 32-bit unsigned result. -/
def Path.wr32 (p : Path) (d : BitVec 6) (x : Nat) : List RegWrite := p.wr d .ui32 (x : Int)

/-- A 64-bit result. -/
def Path.wr64 (p : Path) (d : BitVec 6) (x : Nat) : List RegWrite := p.wr d .ui64 (x : Int)

/-- Status and result in an even pair of k-registers (R378). -/
def wrPair (d : BitVec 6) (st x : Nat) : List RegWrite :=
  [.k d.toNat (BitVec.ofNat 64 st), .k (d.toNat + 1) (BitVec.ofNat 64 x)]

/-- A predicate result; p0 and q0 discard it (R195). -/
def wrPred (d : BitVec 6) (x : Bool) : List RegWrite := if d = 0 then [] else [.p d.toNat x]

/-- A loaded value of n bytes (R281, Table 10-4). -/
def Path.wrLoad (p : Path) (d : BitVec 6) (n : Nat) (sxt : Bool) (x : Nat) : List RegWrite :=
  let i := d.toNat
  if n = 16 then
    (if p.ctl then [.k i (BitVec.ofNat 64 x), .k (i + 1) (BitVec.ofNat 64 (x / 2 ^ 64))]
     else (List.range 4).map fun j => .v (i + j) (BitVec.ofNat 32 (x / 2 ^ (32 * j))))
  else if n = 8 then p.wr64 d x
  else
    let y : Nat := if sxt then wrapN 64 (sx (8 * n) x) else x
    if p.ctl ∧ i < 32 then [.k i (BitVec.ofNat 64 y)] else p.wr32 d (y % 2 ^ 32)

/-- One register write in a thread; a control thread's writes of uniform registers are logged (R184). -/
def Wg.write (w : Wg) (ctl : Bool) (g l : Nat) (r : RegWrite) : Wg :=
  let onThread := fun (f : Thread → Thread) => if ctl then { w with ctl := f w.ctl } else w.modLane g l f
  match r with
  | .v n x => onThread fun t => { t with v := cellSet t.v n x }
  | .k n x => onThread fun t => { t with k := cellSet t.k n x }
  | .p n x => onThread fun t =>
      { t with p := if n = 0 then t.p else if x then t.p ||| (1#16 <<< n) else t.p &&& ~~~(1#16 <<< n) }
  | .s n x =>
    { w with s := cellSet w.s n x, sSeq := w.sSeq + 1
             sLog := { seq := w.sSeq, reg := n, old := cellGet w.s n } :: w.sLog }

def Wg.writes (w : Wg) (ctl : Bool) (g l : Nat) (rs : List RegWrite) : Wg :=
  rs.foldl (fun w r => w.write ctl g l r) w

/-! ### Legality (R193 to R196, R207 steps 2 and 3) -/

/-- A lane's register field of a width: within NREG, even for a pair, a multiple of 4 for a quadruple. -/
def laneRegOk (nreg : Nat) (u : Use) (n : Nat) : Bool :=
  match u with
  | .r32 => n < nreg
  | .r64 => n % 2 == 0 && n + 1 < nreg
  | .r128 => n % 4 == 0 && n + 3 < nreg
  | .kpair => false
  | .pred => n < 16
  | .none | .raw => true

/-- A source field of a lane, X bit included. -/
def laneSrcOk (nreg : Nat) (u : Use) (n : Nat) (x : Bool) : Bool :=
  if x then
    match u with
    | .r32 => n < 32
    | .r64 => n % 2 == 0 && n < 32
    | .none | .raw => true
    | _ => false
  else laneRegOk nreg u n

/-- A field of a control thread (Table 7-2, Table 10-4). -/
def ctlRegOk (u : Use) (n : Nat) : Bool :=
  match u with
  | .r128 | .kpair => n % 2 == 0 && n < 32
  | .pred => n < 8
  | _ => true

/-- The stream is one the major is valid in (Table 7-7). -/
def streamOk (mj : Major) (ctl : Bool) : Bool :=
  match streamsOf mj with | .both => true | .lane => !ctl | .control => ctl

/-- The register and guard checks of R207 step 3. -/
def Path.regsOk (p : Path) (mj : Major) (f : LForm) : Bool :=
  let sxBad := (mj = .ld ∨ mj = .ldnr ∨ mj = .rld) && bitAt f.f.toNat 3 && decide ((if p.ctl then 3 else 2) ≤ f.size)
  if p.ctl then
    f.g.p.toNat < 8 && f.x == 0 && !sxBad && ctlRegOk (useD mj f) f.d.toNat && ctlRegOk (useA mj f) f.a.toNat
      && ctlRegOk (useB mj f) f.b.toNat && ctlRegOk (useC mj f) f.c.toNat
  else
    let n := p.w.id.nreg
    !sxBad && laneRegOk n (useD mj f) f.d.toNat && laneSrcOk n (useA mj f) f.a.toNat (f.xbit 0)
      && laneSrcOk n (useB mj f) f.b.toNat (f.xbit 1) && laneSrcOk n (useC mj f) f.c.toNat (f.xbit 2)
      && (mj != .call || decide (62 < n))

/-- An instruction that a lane in an atomic region may not issue (R293). -/
def regionBars (mj : Major) (f : LForm) : Bool :=
  let op := opOf mj
  if mj = .ale then false
  else if mj = .ld ∨ mj = .st then f.space != 0 || f.m != 0
  else (0x30 ≤ op && op ≤ 0x45) || (0x02 ≤ op && op ≤ 0x0B) || (0x60 ≤ op && op ≤ 0x69) || (0x6C ≤ op && op ≤ 0x7E)

/-- The first cause of R207 steps 2 and 3, and of R293, for a decoded instruction; none when it may execute. -/
def Path.illegal (p : Path) (mj : Major) (f : LForm) : Option Nat :=
  if !streamOk mj p.ctl then some cIllegal
  else if !p.regsOk mj f then some cIllegal
  else
    let rs := p.lanes.filterMap fun l => (p.thread l).bind (·.region)
    if rs.isEmpty then none
    else if regionBars mj f then some cIllegal
    else if rs.any fun r => decide (64 ≤ r.instrs) then some cAtomicSpan
    else none

/-! ### The end of an issue -/

/-- Every lane of the path goes to the next instruction, n bytes on (R193). -/
def Path.advance (p : Path) (w : Wg) (n : Nat) : Wg :=
  if p.ctl then { w with ctl := { w.ctl with pc := w.ctl.pc + BitVec.ofNat 64 n } }
  else p.lanes.foldl (fun w l => w.modLane p.grp l fun t => { t with pc := t.pc + BitVec.ofNat 64 n }) w

/-- The register writes of each lane. -/
def Path.apply (p : Path) (w : Wg) (ws : List (Nat × List RegWrite)) : Wg :=
  ws.foldl (fun w e => w.writes p.ctl p.grp e.1 e.2) w

/-- The end of an instruction that is complete when it has issued. -/
def Path.retire (p : Path) (s : State) (n : Nat) (ws : List (Nat × List RegWrite)) : State :=
  s.setWg (p.advance (p.apply p.w ws) n)

/-- Adds an outstanding instruction to a lane. -/
def Path.pushOut (p : Path) (w : Wg) (l : Nat) (o : Out) : Wg :=
  if p.ctl then { w with ctl := { w.ctl with outs := w.ctl.outs ++ [o] } }
  else w.modLane p.grp l fun t => { t with outs := t.outs ++ [o] }

/-- The results of a long-latency instruction whose results are known at issue: written now when LA is 0, since then
nothing issues before it completes; otherwise held for LONG_LATENCY_COMPLETE (R201, R202, log 15, DEDUCED). -/
def Path.results (p : Path) (s : State) (w : Wg) (la : Nat) (ws : List (Nat × List RegWrite))
    (reissue : Nat → Option MemReq) : Wg × State :=
  if la = 0 then (p.apply w ws, s)
  else
    let (tag, s) := s.tag
    (ws.foldl (fun w e => p.pushOut w e.1
      { tag := tag, left := la, ready := true, writes := e.2, owes := .nothing, reissue := reissue e.1 }) w, s)

/-! ### Order among a thread's accesses (R204, R253) -/

/-- What an instruction does that the order of a thread's accesses concerns: nothing, reads, writes or atomics, or an access
that all earlier ones precede (a release, an engine issue, an arrival). -/
inductive Order where
  | none | read | write | all
  deriving DecidableEq, Repr

/-- The order an instruction keeps (Table 9-3, R263, R267). -/
def orderOf (mj : Major) (f : LForm) : Order :=
  let op := opOf mj
  match mj with
  | .ld | .ldt | .ldnr | .rld => if 2 ≤ f.m.toNat then .all else .read
  | .st | .stt | .atom | .cas | .scadd | .lvinit | .rst | .ratom => if 2 ≤ f.m.toNat then .all else .write
  | .pfetch | .rsenter | .csrr => .none
  | _ => if 0x10 ≤ op ∧ op ≤ 0x2D ∨ 0x48 ≤ op ∧ op ≤ 0x58 ∨ mj = .nop then .none else .all

/-- What a remote instruction, or one whose result the thread acquires, owes until it has performed. -/
def owesOf (mj : Major) (f : LForm) : Owes :=
  match mj with
  | .rld | .ratom => if f.m.toNat % 2 = 1 ∨ f.m = 4 then .all else .read
  | .rst => if f.m.toNat % 2 = 1 ∨ f.m = 4 then .all else .write
  | .sqop | .fetchw => .all
  | _ => .nothing

/-- Whether an instruction may issue while another of its thread owes what it owes: a load passes a read or a write, a
store passes a write, whatever is ordered after both passes neither (R256, R258, R263, R267, R277). -/
def Owes.lets : Owes → Order → Bool
  | .nothing, _ => true
  | _, .none => true
  | .write, .read => true
  | .write, .write => true
  | .read, .read => true
  | _, _ => false

/-- The loads of a thread can no longer be abandoned: a later access of the thread has performed (R253, R263). -/
def Thread.bindLoads (t : Thread) : Thread :=
  { t with outs := t.outs.map fun o => if o.ready then { o with reissue := none } else o }

/-- A lane-by-lane instruction that only computes: each active lane's writes from its thread (R209). -/
def compute (s : State) (g : Guard) (n : Nat) (op : Path → Thread → List RegWrite) : Res :=
  match s.path? with
  | none => .fault .noThread
  | some (p, s) => .next (p.retire s n ((p.active g).map fun e => (e.1, op p e.2)))

/-- A cause raised for the whole path or for the control thread, with no effect: a record is delivered and the issuer
waits for its resolution (R207, R212, R400). -/
def Path.raise (p : Path) (s : State) (c : Cause) (mem : Bool) : State :=
  let (n, s) := s.deliver p.w.id c p.pc.toNat p.mask.toNat p.grp (if p.ctl then 1 else 0) none
  if p.ctl then s.setWg { p.w with ctlSusp := .fault n, ctlReplay := none }
  else
    let g := p.w.group p.grp
    s.setWg (p.w.setGroup p.grp { g with susp := .fault n, replay := none, pend := if mem then p.mask else g.pend })

/-- The instruction waits: nothing happens and the issuer keeps its PC. Step sees from `cur` that it did not issue. -/
def State.hold (s : State) : Res := .next { s with cur := none }

/-- Whether the issuer is suspended, by the other path of its issue. -/
def Path.suspended (p : Path) : Bool := p.w.suspOn (if p.ctl then none else some p.grp) != .none

/-- The path with its workgroup as it stands in s. -/
def Path.reload (p : Path) (s : State) : Path := { p with w := (s.wg? p.w.id.core p.w.id.slot).getD p.w }

/-- ILLEGAL_INSTR for the path. -/
def Path.illegalInstr (p : Path) (s : State) : Res := .next (p.raise s (Cause.plain cIllegal) false)

end Sys2Proof.Machine
end

