-- ==== Sys2Proof/Machine/Flags.lean ====
section
/-! DEFINITION. Predicates: the conditions of ICMP, FCMP and FCLASS, the combining of a result with a predicate, the
predicate operations, and the queries of a group (R241 to R245, R343, R344). The machine has no other flags. -/

namespace Sys2Proof.Machine

/-- The six integer conditions (Table 8-3). -/
def icond (f : Nat) (x y : Int) : Bool :=
  match f with
  | 0 => decide (x = y)
  | 1 => decide (x ≠ y)
  | 2 => decide (x < y)
  | 3 => decide (x ≤ y)
  | 4 => decide (y < x)
  | _ => decide (y ≤ x)

/-- The eight floating-point conditions (R343). -/
def fcond (f : Nat) (x y : XVal) : Bool :=
  let num := !x.isNan && !y.isNan
  match f with
  | 0 => xeq x y
  | 1 => !xeq x y
  | 2 => xlt x y
  | 3 => num && !xlt y x
  | 4 => xlt y x
  | 5 => num && !xlt x y
  | 6 => num
  | _ => !num

/-- M of a compare: the result alone, or combined with pC (R241, R343). -/
def combineP (m : Nat) (k c : Bool) : Bool :=
  match m with | 0 => k | 1 => k && c | 2 => k || c | _ => k != c

/-- PLOP (R242). -/
def plopP (f : Nat) (a b : Bool) : Bool :=
  match f with | 0 => a && b | 1 => a || b | 2 => a != b | 3 => a && !b | 4 => a || !b | _ => !a

/-- The class bit of a value in a format (Table 12-3). -/
def classBit (g : FFmt) (x : XVal) : Nat :=
  match x with
  | .nan => 8
  | .inf s => if s then 0 else 7
  | .fin s n d =>
    if n = 0 then (if s then 3 else 4)
    else
      let q := scaleQ 1 1 (1 - (g.bias : Int))
      if ltQ n d q.1 q.2 then (if s then 2 else 5) else (if s then 1 else 6)

/-- The predicates of a thread as PMOV .GET gives them (R242). -/
def predWord (t : Thread) (ctl : Bool) : Nat :=
  ((List.range (if ctl then 8 else 16)).map fun i => b2n (t.pred i) * 2 ^ i).foldl (· + ·) 0

end Sys2Proof.Machine
end

