-- ==== Sys2Proof/Machine/Control.lean ====
section
/-! DEFINITION. Control flow (spec/08_isa_control_integer.md, Table 8-1): branches, calls, EXIT, the barriers, YIELD, BKPT and
TRAP, the decision queue, NOP. -/

namespace Sys2Proof.Machine

/-! ### Branches and calls (R221, R222) -/

/-- A branch of n bytes: active lanes write their links and go to their targets, the others go on (R222). -/
def branchOp (g : Guard) (n : Nat) (target : Path → Thread → Nat) (link : Path → List RegWrite) (s : State) : Res :=
  match s.path? with
  | none => .fault .noThread
  | some (p, s) =>
    let act := p.active g
    let w := p.advance (p.apply p.w (act.map fun e => (e.1, link p))) n
    let go := fun (e : Nat × Thread) (t : Thread) => { t with pc := BitVec.ofNat 64 (target p e.2) }
    .next (s.setWg (act.foldl (fun w e =>
      if p.ctl then { w with ctl := go e w.ctl } else w.modLane p.grp e.1 (go e)) w))

/-- The displacement of R221, in words. -/
def dispOf (n18 : BitVec 18) (imm : Word) : Int := sx 18 n18.toNat + 2 ^ 18 * sx 32 imm.toNat

/-- The target of BRA and CALL (R221). -/
def relTarget (n18 : BitVec 18) (imm : Word) (_ : Path) (t : Thread) : Nat :=
  wrapN 64 ((t.pc.toNat : Int) + 4 * dispOf n18 imm)

/-- The target of BRX and CALLX (R222). -/
def regTarget (mj : Major) (f : LForm) (p : Path) (t : Thread) : Nat :=
  wrapN 64 ((p.opA t mj f : Int) + sx 32 f.w2.toNat)

/-- The return value of R222: (PC + n)[33:2] for a lane, PC + n for a control thread. -/
def retValue (p : Path) (n : Nat) : Nat := if p.ctl then p.pc.toNat + n else bitsAt (p.pc.toNat + n) 33 2

/-- The link of CALL: v62 or k31. -/
def callLink (n : Nat) (p : Path) : List RegWrite := p.wr (if p.ctl then 31 else 62) (if p.ctl then .ui64 else .ui32) (retValue p n)

/-- The link of CALLX: D, one register. -/
def callxLink (d : BitVec 6) (n : Nat) (p : Path) : List RegWrite :=
  p.wr d (if p.ctl then .ui64 else .ui32) (retValue p n)

/-- The target of RET (R222). -/
def retTarget (f : LForm) (p : Path) (t : Thread) : Nat :=
  let a := if p.ctl then p.reg t .r64 f.a false else p.opA t .ret f
  if p.ctl then a else bitsAt t.pc.toNat 56 34 * 2 ^ 34 + a % 2 ^ 32 * 4

/-! ### The end of a thread (R224) -/

/-- The reader count a thread holds is released (R224, Table 4-5). -/
def State.releaseReader (s : State) (core : Nat) (t : Thread) : State :=
  if t.rdepth = 0 then s else s.modCore core fun c => c.addCount t.rpar (-1)

/-- A thread that has ended. -/
def Thread.finish (t : Thread) : Thread :=
  { t with ended := true, rdepth := 0, region := none, wait := .none, outs := [], last := none }

/-- Frees the entries that every group not wholly exited has popped (R185), and forgets the uniform-register writes
that every such group sees (R184). -/
def Wg.trimQueue (w : Wg) : Wg :=
  let gs := (List.range w.ngroups).filter fun g => w.living g != 0
  let low := gs.foldl (fun m g => min m (w.group g).dqPos) (w.dqBase + w.dq.length)
  let floor := gs.foldl (fun m g => min m (w.group g).sFloor) w.sSeq
  { w with dq := w.dq.drop (low - w.dqBase), dqBase := max w.dqBase low
           sLog := w.sLog.filter fun e => decide (floor ≤ e.seq) }

/-- EXIT (R224). -/
def exitOp (g : Guard) (s : State) : Res :=
  match s.path? with
  | none => .fault .noThread
  | some (p, s) =>
    let act := p.active g
    let s := act.foldl (fun s e => s.releaseReader p.w.id.core e.2) s
    let stay := p.advance p.w 4
    let w := act.foldl (fun w e =>
      if p.ctl then { w with ctl := { e.2.finish with pc := e.2.pc } } else w.setLane p.grp e.1 { e.2.finish with pc := e.2.pc }) stay
    .next (s.setWg w.trimQueue)

/-! ### Barriers (R225) -/

/-- SYNCG and SYNCG.GRP: active lanes arrive and wait, the others go on. -/
def syncgOp (grpOnly : Bool) (g : Guard) (n : Nat) (s : State) : Res :=
  match s.path? with
  | none => .fault .noThread
  | some (p, s) =>
    let act := p.active g
    let m := maskOfLanes (act.map (·.1))
    let w := act.foldl (fun w e => w.setLane p.grp e.1 { e.2 with wait := .barrier n }) (p.advance p.w n)
    let x := w.group p.grp
    .next (s.setWg (w.setGroup p.grp
      (if grpOnly then { x with waitGrp := x.waitGrp ||| m } else { x with waitAll := x.waitAll ||| m })))

/-- YIELD (R227): the path stays out of slot p1 at the next issue, if the guard holds for some lane (R193). -/
def yieldOp (g : Guard) (s : State) : Res :=
  match s.path? with
  | none => .fault .noThread
  | some (p, s) =>
    .next (s.setWg (let w := p.advance p.w 4
      if (p.active g).isEmpty then w
      else w.setGroup p.grp { w.group p.grp with yielded := (w.group p.grp).yielded ||| p.mask }))

/-! ### Traps (R186, R228) -/

/-- BREAKPOINT or TRAP_INSTR with its code, once the guard holds for some lane (R228). -/
def trapOp (cause : Nat) (g : Guard) (code n : Nat) (s : State) : Res :=
  match s.path? with
  | none => .fault .noThread
  | some (p, s) =>
    let held := maskOfLanes ((p.active g).map (·.1))
    let w := p.advance p.w n
    if held = 0 then .next (s.setWg w)
    else
      let r : TrapReq := { cause := cause, sub := 0, code := BitVec.ofNat 32 code
                           info := if p.ctl then 0 else held.setWidth 64, pc := p.pc, acc := 0, mask := held }
      .next (if p.ctl then s.raiseCtl w r else s.raiseLane w p.grp r)

/-- BKPT with a debugger attached: the group halts, the breaking lanes stay at the BKPT (R186). -/
def breakOp (g : Guard) (s : State) : Res :=
  match s.path? with
  | none => .fault .noThread
  | some (p, s) =>
    let act := p.active g
    let w := act.foldl (fun w e => w.setLane p.grp e.1 e.2) (p.advance p.w 4)
    let x := w.group p.grp
    .next (s.setWg (if act.isEmpty then w
      else w.setGroup p.grp { x with halted := true, stepping := false
                                     brk := x.brk ||| maskOfLanes (act.map (·.1)) }))

/-! ### The decision queue (R185, R229) -/

/-- DQPOP. -/
def dqpopOp (f : LForm) (s : State) : Res :=
  match s.path? with
  | none => .fault .noThread
  | some (p, s) =>
    let act := p.active f.g
    let x := p.w.group p.grp
    if act.isEmpty then .next (s.setWg (p.advance p.w 4))
    else match (p.w.dq.drop (x.dqPos - p.w.dqBase)).head? with
      | none => if p.w.ctl.ended then p.illegalInstr s else s.hold
      | some e =>
        let w := (p.w.setGroup p.grp { x with dqPos := x.dqPos + 1, sFloor := max x.sFloor e.seq }).trimQueue
        let (w, s) := p.results s (p.advance w 4) f.la.toNat (act.map fun a => (a.1, p.wr64 f.d e.value.toNat)) fun _ => none
        .next (s.setWg w)

/-- DQPUSH. -/
def dqpushOp (f : LForm) (n : Nat) (s : State) : Res :=
  match s.path? with
  | none => .fault .noThread
  | some (p, s) =>
    if (p.active f.g).isEmpty then .next (s.setWg (p.advance p.w n))
    else if 16 ≤ p.w.dq.length then s.hold
    else
      let e : DqEntry := { value := BitVec.ofNat 64 (p.opB p.w.ctl .dqpush f), seq := p.w.sSeq }
      .next (s.setWg ((p.advance { p.w with dq := p.w.dq ++ [e] } n).trimQueue))

/-- NOP (R230). -/
def nopOp (n : Nat) (s : State) : Res :=
  match s.path? with
  | none => .fault .noThread
  | some (p, s) => .next (s.setWg (p.advance p.w n))

/-! ### The rows -/

/-- BRA, short form. -/
def execBraShort (g : Guard) (n : BitVec 18) (s : State) : Res := branchOp g 4 (relTarget n 0) (fun _ => []) s

/-- BRA. -/
def execBra (f : LForm) (s : State) : Res := branchOp f.g 12 (relTarget f.n18 f.w2) (fun _ => []) s

/-- BRX, short form. -/
def execBrxShort (f : SForm) (s : State) : Res :=
  branchOp f.g 4 (regTarget .brx (f.long (shortTy .brx))) (fun _ => []) s

/-- BRX. -/
def execBrx (f : LForm) (s : State) : Res := branchOp f.g 12 (regTarget .brx f) (fun _ => []) s

/-- CALL, short form. -/
def execCallShort (g : Guard) (n : BitVec 18) (s : State) : Res := branchOp g 4 (relTarget n 0) (callLink 4) s

/-- CALL. -/
def execCall (f : LForm) (s : State) : Res := branchOp f.g 12 (relTarget f.n18 f.w2) (callLink 12) s

/-- CALLX, short form. -/
def execCallxShort (f : SForm) (s : State) : Res :=
  branchOp f.g 4 (regTarget .callx (f.long (shortTy .callx))) (callxLink f.d 4) s

/-- CALLX. -/
def execCallx (f : LForm) (s : State) : Res := branchOp f.g 12 (regTarget .callx f) (callxLink f.d 12) s

/-- RET. -/
def execRet (f : SForm) (s : State) : Res := branchOp f.g 4 (retTarget (f.long (shortTy .ret))) (fun _ => []) s

/-- EXIT. -/
def execExit (f : SForm) (s : State) : Res := exitOp f.g s

/-- SYNCG, short form. -/
def execSyncgShort (f : SForm) (s : State) : Res := syncgOp false f.g 4 s

/-- SYNCG. -/
def execSyncg (f : LForm) (s : State) : Res := syncgOp false f.g 12 s

/-- SYNCG.GRP. -/
def execSyncgGrp (f : LForm) (s : State) : Res := syncgOp true f.g 12 s

/-- YIELD. -/
def execYield (f : SForm) (s : State) : Res := yieldOp f.g s

/-- BKPT: a halt of the path's group with a debugger attached, otherwise a program trap (R186, R228). -/
def execBkpt (g : Guard) (n : BitVec 18) (s : State) : Res :=
  match s.path? with
  | none => .fault .noThread
  | some (p, _) => if p.w.csrs.att && !p.ctl then breakOp g s else trapOp cBreakpoint g n.toNat 4 s

/-- TRAP, short form. -/
def execTrapShort (g : Guard) (n : BitVec 18) (s : State) : Res := trapOp cTrapInstr g n.toNat 4 s

/-- TRAP: the code's upper 14 bits are Word 2 [13:0] (R228). -/
def execTrap (f : LForm) (s : State) : Res := trapOp cTrapInstr f.g (f.n18.toNat + 2 ^ 18 * (f.w2.toNat % 2 ^ 14)) 12 s

/-- DQPOP. -/
def execDqpop (f : SForm) (s : State) : Res := dqpopOp (f.long (shortTy .dqpop)) s

/-- NOP, short form. -/
def execNopShort (_f : SForm) (s : State) : Res := nopOp 4 s

/-- NOP. -/
def execNop (_f : LForm) (s : State) : Res := nopOp 12 s

/-- DQPUSH, short form. -/
def execDqpushShort (f : SForm) (s : State) : Res := dqpushOp (f.long (shortTy .dqpush)) 4 s

/-- DQPUSH. -/
def execDqpush (f : LForm) (s : State) : Res := dqpushOp f (codedLen false f) s

end Sys2Proof.Machine
end

