-- ==== Sys2Proof/Machine/Issue.lean ====
section
/-! DEFINITION. Issuing: fetch (R189, R207 step 1), lookahead windows (R202), the checks before an instruction executes,
and the paths of a group with their slots and ports (R177 to R180). -/

namespace Sys2Proof.Machine

/-! ### Fetch -/

/-- What was there before each write since the context's step began, the latest first (R208). -/
def State.pastOf (s : State) (who : Who) : List Past :=
  match (s.ctx? who.pid who.ctx).bind (·.run) with | some r => r.past | none => []

/-- Which of memory and its past a fetch sees in a sector: 0 is memory as it stands. The choice is not determined (R208). -/
def State.fetchAge (s : State) (who : Who) : Nat × State :=
  match s.pastOf who with
  | [] => (0, s)
  | ms => let (n, s) := s.choose; (n % (ms.length + 1), s)

/-- Where the context's tables had an address before a write: memory as it was then, and a physical address in it. None where they
did not map it, or to another device. -/
def State.pastView (s : State) (x : Past) (va : Nat) : Option (Memory × Nat) :=
  match ({ s with mem := x.mem } : State).walk va x.l4base 4 with
  | .ok l => if l.tier = 3 then none else some (x.mem, l.frame + va % l.size)
  | .error _ => none

/-- What a fetch of an age sees of an instruction address: memory and a physical address in it. In the past, code that the
context's tables mapped then is where they had it; a page that they did not map is seen as it stands. -/
def State.viewOf (s : State) (who : Who) (age va pa : Nat) : Memory × Nat :=
  match age with
  | n + 1 => (((s.pastOf who)[n]?).bind fun x => s.pastView x va).getD (s.mem, pa)
  | 0 => (s.mem, pa)

/-- The word at an instruction address, of an age (R189, R207 step 1, R87). -/
def State.fetchWord (s : State) (who : Who) (age va : Nat) : Except Cause (List Byte) × State :=
  match s.xlate who va .fetch false with
  | (.pa pa, _, s) => match s.eccSub pa 4 true with
    | some sub => (.error { code := cEcc, sub := sub, va := va, lvl := 0, acc := 3 }, s)
    | none => let (m, a) := s.viewOf who age va pa; (.ok (memRead m a 4), s)
  | (.cause code sub lvl, _, s) => (.error { code := code, sub := sub, va := va, lvl := lvl, acc := 3 }, s)
  | (_, _, s) => (.ok [0, 0, 0, 0], s)

/-- n words from an instruction address, each of the age of its sector. -/
def State.fetchWords (s : State) (who : Who) (age : Nat → Nat) (va : Nat) : Nat → Except Cause (List Byte) × State
  | 0 => (.ok [], s)
  | n + 1 =>
    match s.fetchWord who (age (va / 32)) va with
    | (.error c, s) => (.error c, s)
    | (.ok a, s) =>
      match s.fetchWords who age (va + 4) n with
      | (.error c, s) => (.error c, s)
      | (.ok b, s) => (.ok (a ++ b), s)

/-- The words of a form by LEN (Table 7-1). -/
def wordsOfLen (b : Byte) : Nat := match b.toNat % 4 with | 0 => 1 | 3 => 5 | _ => 3

/-- The bytes of the instruction at a PC, of at most two sectors, or the cause of R207 step 1, whose VADDR is the PC. -/
def State.fetch (s : State) (who : Who) (pc : DWord) : Except Cause (List Byte) × State :=
  if pc.toNat % 4 != 0 then (.error { code := cMisaligned, sub := 0, va := pc.toNat, lvl := 0, acc := 3 }, s)
  else
    let (a0, s) := s.fetchAge who
    let (a1, s) := s.fetchAge who
    let age := fun sec => if sec = pc.toNat / 32 then a0 else a1
    match s.fetchWord who a0 pc.toNat with
    | (.error c, s) => (.error { c with va := pc.toNat }, s)
    | (.ok w0, s) =>
      match s.fetchWords who age (pc.toNat + 4) (wordsOfLen (nthD 0 w0 0) - 1) with
      | (.error c, s) => (.error { c with va := pc.toNat }, s)
      | (.ok rest, s) => (.ok (w0 ++ rest), s)

/-! ### Windows and waits -/

/-- R202: an instruction may issue while it is inside the window of everything the thread has outstanding, and its accesses
keep their order with what those instructions owe (R204). -/
def Thread.windowOk (t : Thread) (mj : Major) (f : LForm) : Bool :=
  t.outs.all fun o => decide (0 < o.left) && !closesWindow mj && (o.ready || o.owes.lets (orderOf mj f))

/-- One instruction of the window has issued; a lane in a region has issued one more there (R293). An access that a load
may not be made again after binds the loads before it. -/
def Thread.countIssue (t : Thread) (mj : Major) (f : LForm) : Thread :=
  let t := match orderOf mj f with | .none | .read => t | _ => t.bindLoads
  { t with outs := t.outs.map fun o => { o with left := o.left - 1 }
           region := t.region.map fun r => { r with instrs := r.instrs + 1 } }

/-- A control-register write that is a step of its own (R187, R188). -/
def refine (p : Path) (i : Instr) : Instr :=
  match i with
  | .csrw f =>
    let v := p.opA p.w.ctl .csrw f
    if csrNumber f = 0x10 ∧ bitAt v 1 then .dbgStopall f
    else if csrNumber f = 0x12 then
      match bitsAt v 9 8 with | 1 => .dbgcmdResume f | 2 => .dbgcmdStep f | 3 => .dbgcmdResumeall f | _ => i
    else i
  | _ => i

/-- Whether a lane of the path waits for a level object or for request slots: its path is not ready (R177). -/
def Path.waiting (p : Path) : Bool := p.lanes.any fun l => match p.thread l with | some t => t.wait != .none | none => false

/-- The decision-queue waits that keep a path from being ready (R177, R185). An instruction whose guard holds for no
lane waits for nothing (R193, R229). -/
def Path.queueWait (p : Path) (i : Instr) : Bool :=
  match i with
  | .dqpop f => !p.w.ctl.ended && decide (p.w.dqBase + p.w.dq.length ≤ (p.w.group p.grp).dqPos)
      && !(p.active f.g).isEmpty
  | .dqpushShort f => decide (16 ≤ p.w.dq.length) && !(p.active f.g).isEmpty
  | .dqpush f => decide (16 ≤ p.w.dq.length) && !(p.active f.g).isEmpty
  | _ => false

/-- What an issuer's next instruction is: a cause raised before it executes, a wait, or the instruction. -/
inductive Next where
  | raise (c : Cause) (mem : Bool)
  | wait
  | run (i : Instr) (mj : Major) (f : LForm)
  deriving DecidableEq, Repr

/-- Fetch, decode and the checks of R207 steps 1 to 3, then the windows of every lane. -/
def Path.decoded (p : Path) (s : State) : Next × State :=
  match s.fetch p.who p.pc with
  | (.error c, s) => (.raise c true, s)
  | (.ok bs, s) =>
    match decode bs with
    | .error _ => (.raise (Cause.plain cIllegal) false, s)
    | .ok (i, _) =>
      match coded i with
      | none => (.raise (Cause.plain cIllegal) false, s)
      | some (mj, _, f) =>
        match p.illegal mj f with
        | some c => (.raise (Cause.plain c) (c == cAtomicSpan), s)
        | none =>
          if (p.lanes.all fun l => match p.thread l with | some t => t.windowOk mj f | none => true) && !p.queueWait i then
            (.run (refine p i) mj f, s)
          else (.wait, s)

/-- What the path does next. One that would raise a cause while its group is suspended by the other path of its issue
raises it later (log 19, DEDUCED). -/
def Path.next (p : Path) (s : State) : Next × State :=
  if p.waiting then (.wait, s)
  else match p.decoded s with
  | (.raise c mem, s) => if p.suspended then (.wait, s) else (.raise c mem, s)
  | x => x

/-- The marks an issue leaves on the threads of the path. -/
def Path.countIssue (p : Path) (s : State) (mj : Major) (f : LForm) : State :=
  s.setWg (if p.ctl then { p.w with ctl := p.w.ctl.countIssue mj f }
           else p.lanes.foldl (fun w l => w.modLane p.grp l fun t => t.countIssue mj f) p.w)

/-! ### Paths of a group (R177 to R180) -/

/-- The active lanes of a group (R177). -/
def Wg.activeMask (w : Wg) (g : Nat) : LaneMask :=
  let x := w.group g
  if x.susp != .none || !x.traps.isEmpty || (x.halted && !x.stepping) || w.fails.any (fun e => e.2 == some g) then 0
  else maskOfLanes ((List.range 32).filter fun l =>
    match w.lane? g l with
    | some t => !t.ended && !(x.pend ||| x.waitAll ||| x.waitGrp).getLsbD l
    | none => false)

/-- The paths of a group: PC and lanes, in increasing PC. -/
def Wg.paths (w : Wg) (g : Nat) : List (Nat × LaneMask) :=
  (lanesOf (w.activeMask g)).foldl (fun t l =>
    match w.lane? g l with
    | some th => tabSet t th.pc.toNat ((tabGet t th.pc.toNat).getD 0 ||| (1#32 <<< l))
    | none => t) []

/-- R178: the paths in slots p1 and p2, and whether p1 is promoted. They are chosen before it is known which is ready: a promoted path
that waits stays p1, and a third path does not issue, beyond the bound of R180 too (log 98, DEDUCED). A path that holds a lane that
yielded is a yielding path (log 162, DESIGN CHOICE). -/
def Wg.slots (w : Wg) (g : Nat) : Option ((Nat × LaneMask) × Option (Nat × LaneMask) × Bool) :=
  let x := w.group g
  let ps := w.paths g
  match ps with
  | [] => none
  | low :: _ =>
    let pick : (Nat × LaneMask) × Bool :=
      if x.den = 32 then
        let cand := ps.filter fun e => e.2 &&& ~~~x.issued != 0
        match cand.filter fun e => decide (x.lpc < e.1) with
        | e :: _ => (e, true)
        | [] => (nthD low cand 0, true)
      else match ps.find? fun e => x.lost != 0 && (e.2 &&& x.lost) != 0 with
        | some e => (e, false)
        | none =>
          match ps.filter fun e => (e.2 &&& x.yielded) == 0 with
          | e :: _ => (e, false)
          | [] => (low, false)
    some (pick.1, (ps.filter fun e => e.1 != pick.1.1).head?, pick.2)

/-- The register reads of a lane instruction in bank k (Table 6-6). A register in two source fields counts twice (log 151, DESIGN
CHOICE). -/
def bankReads (i : Instr) (k : Nat) : Nat :=
  match coded i with
  | none => 0
  | some (mj, _, f) =>
    let one := fun (u : Use) (n : Nat) (x : Bool) =>
      if x then 0 else match u with
        | .r32 => b2n (n % 4 == k)
        | .r64 => b2n (n % 4 == k) + b2n ((n + 1) % 4 == k)
        | .r128 => 1
        | _ => 0
    one (useA mj f) f.a.toNat (f.xbit 0) + one (useB mj f) f.b.toNat (f.xbit 1) + one (useC mj f) f.c.toNat (f.xbit 2)

/-- Whether two instructions, or one alone, exceed a port of Table 6-6. -/
def portsExceeded (is : List (Instr × Major)) : Bool :=
  let n := fun (f : Nat → Bool) => (is.filter fun e => f (opOf e.2)).length
  (List.range 4).any (fun k => decide (2 < (is.map fun e => bankReads e.1 k).foldl (· + ·) 0))
    || decide (1 < n fun op => 0x30 ≤ op && op ≤ 0x45) || decide (1 < n fun op => 0x51 ≤ op && op ≤ 0x54)
    || decide (2 < n fun op => 0x01 ≤ op && op ≤ 0x06)

/-- A lane path as an issuer. -/
def Wg.lanePath (w : Wg) (g : Nat) (m : LaneMask) : Path := { w := w, ctl := false, grp := g, mask := m, uni := w.s }

/-- The end of a group's issue (R178): LPC and DEN, the lanes that issued, and a single step's halt (R188). -/
def State.endPair (s : State) (q : Pair) : State :=
  s.modWg q.core q.slot fun w =>
    let x := w.group q.grp
    let win := q.promoted && (q.issued &&& q.p1) != 0
    let x := if win then { x with lpc := q.pc1.toNat, den := 0 } else x
    let all := q.issued &&& q.act == q.act
    let x := { x with den := if all then 0 else min (x.den + 1) 32, issued := q.issued }
    let x := if q.issued = 0 then x else
      { x with lastIssue := s.cycle, readySince := none, stepping := false }
    w.setGroup q.grp x

/-! ### Quarters and the scalar pipe (R182, R183) -/

/-- The order of R182: starved first, then WPRI, then the longer time since the last issue, then the group number
above the last one issued, wrapping; of the groups of a fused pair the longer waits and the lower number. Before any issue the last
one counts as 63 (log 152, DESIGN CHOICE). -/
def State.quarterKey (s : State) (c : Core) (q : Nat) (w : Wg) (gs : List Nat) : Nat × Nat × Nat × Nat :=
  let starved := gs.any fun g => match (w.group g).readySince with | some t => decide (t + 256 ≤ s.cycle) | none => false
  let least := fun (f : Nat → Nat) => (gs.map f).foldl min (f (nthD 0 gs 0))
  (b2n (!starved), w.id.wpri, least fun g => (w.group g).lastIssue,
    (least (fun g => nthD g w.id.gnum g) + 64 - ((tabGet c.lastGroup q).getD 63 + 1)) % 64)

/-- Lexicographic order of keys. -/
def keyLt (a b : Nat × Nat × Nat × Nat) : Bool :=
  decide (a.1 < b.1) || (a.1 == b.1 && (decide (a.2.1 < b.2.1) || (a.2.1 == b.2.1 && (decide (a.2.2.1 < b.2.2.1)
    || (a.2.2.1 == b.2.2.1 && decide (a.2.2.2 < b.2.2.2))))))

/-- Whether a control thread can issue (R183, R401: not while it is diverted or waits). -/
def Wg.ctlCan (w : Wg) : Bool :=
  !w.ended && !w.ctl.ended && w.ctlSusp == .none && w.ctlTrap.isNone && w.ctl.wait == .none
    && !w.fails.any (fun e => e.2 == none) && !(!w.csrs.hm && w.groups.any fun e => !e.2.traps.isEmpty)

end Sys2Proof.Machine
end

