-- ==== Sys2Proof/Machine/Descriptor.lean ====
section
/-! DEFINITION. Tensor descriptors (R379, R380, Table 14-3), the format word (Table 11-6), the core's descriptor cache, and
element addresses (R286, R312, R318). -/

namespace Sys2Proof.Machine

/-! ### Fields (Tables 14-3 and 11-6) -/

def Desc.bitsOf (d : Desc) (hi lo : Nat) : Nat := bitsAt d.bits.toNat hi lo
def Desc.base (d : Desc) : Nat := d.bitsOf 63 0
def Desc.limit (d : Desc) : Nat := d.bitsOf 127 64
def Desc.scaleb (d : Desc) : Nat := d.bitsOf 255 192
def Desc.stata (d : Desc) : Nat := d.bitsOf 319 256
def Desc.rd (d : Desc) : Bool := d.bitsOf 320 320 == 1
def Desc.wr (d : Desc) : Bool := d.bitsOf 321 321 == 1
/-- SPACE: true for .SP. -/
def Desc.sp (d : Desc) : Bool := d.bitsOf 322 322 == 1
def Desc.ndim (d : Desc) : Nat := d.bitsOf 326 323
def Desc.wrap (d : Desc) (j : Nat) : Bool := bitAt (d.bitsOf 335 328) j
def Desc.ext (d : Desc) (j : Nat) : Nat := d.bitsOf (32 * j + 415) (32 * j + 384)
def Desc.str (d : Desc) (j : Nat) : Int := sx 64 (d.bitsOf (64 * j + 703) (64 * j + 640))
/-- Entry i of the codebook, a BF16 code (R320). -/
def Desc.cb (d : Desc) (i : Nat) : Nat := d.bitsOf (16 * i + 1167) (16 * i + 1152)
def Desc.fmt (d : Desc) : Nat := d.bitsOf 133 128
def Desc.ftz (d : Desc) : Bool := d.bitsOf 136 136 == 1
def Desc.satm (d : Desc) : Bool := d.bitsOf 137 137 == 1
def Desc.rm (d : Desc) : Nat := d.bitsOf 139 138
/-- The element width in bits (Table 11-1). -/
def Desc.ew (d : Desc) : Nat := fmtWidth d.fmt

/-- The dimensions 0 to NDIM − 1. -/
def Desc.dims (d : Desc) : List Nat := List.range d.ndim

/-- The conditions of R380, the reserved bits of the format word (R324) among them. -/
def Desc.ok (d : Desc) : Bool :=
  d.bitsOf 327 327 == 1 && decide (1 ≤ d.ndim) && decide (d.ndim ≤ 8) && d.dims.all (fun j => d.ext j != 0)
    && d.bitsOf 2047 1408 == 0 && d.bitsOf 383 336 == 0 && d.bitsOf 191 140 == 0 && d.bitsOf 135 134 == 0

/-- The conditions on the format of R310, R312 and R318, at use. -/
def Desc.fmtOk (d : Desc) : Bool :=
  fmtListed d.fmt && (d.ew != 4 || d.ext 0 % 2 == 0)
    && (!fmtBlock d.fmt || (d.ext 0 % 8 == 0 && (d.ew < 8 || d.str 0 == (d.ew / 8 : Nat))
          && (List.range 8).all fun j => j == 0 || d.str j % (d.ew : Int) == 0))

/-! ### The descriptor cache (R380) -/

/-- The copy that an instruction on a core uses: the cached one, or one filled from the partition's table, most
recently used first among 64. None when R380 raises DESC_RIGHTS. -/
def State.descriptor (s : State) (core pid id : Nat) : Option Desc × State :=
  let key := pid * 65536 + id
  let c := s.core core
  let d : Desc := match c.dcache.find? fun x => x.id == key with
    | some d => d
    | none => { id := key, bits := ((s.part? pid).bind fun p => tabGet p.descs id).getD 0 }
  let s := s.setCore core { c with dcache := (d :: c.dcache.filter fun x => x.id != key).take 64 }
  (if d.ok then some d else none, s)

/-! ### Element addresses -/

/-- One coordinate after WRAP, or none outside the extent (R286). -/
def Desc.coord (d : Desc) (j : Nat) (c : Int) : Option Nat :=
  if d.wrap j then some (c % (d.ext j : Int)).toNat
  else if c < 0 ∨ (d.ext j : Int) ≤ c then none
  else some c.toNat

/-- The coordinates over the descriptor's own dimensions; none if one is out of bounds. -/
def Desc.coords (d : Desc) (c : Nat → Int) : Option (List Nat) :=
  d.dims.foldr (fun j r => match d.coord j (c j), r with | some x, some xs => some (x :: xs) | _, _ => none) (some [])

/-- The signed byte offset of an element, without dimension 0 for 4-bit formats (R286, R312). -/
def Desc.offset (d : Desc) (cs : List Nat) : Int :=
  ((List.range cs.length).map fun j =>
    let c : Nat := nthD 0 cs j
    if j = 0 ∧ d.ew = 4 then ((c / 2 : Nat) : Int) else (c : Int) * d.str j).foldl (· + ·) (0 : Int)

/-- The address of an element's first byte in a space of `bits` address bits, within BASE and LIMIT; none otherwise. -/
def Desc.addrOf (d : Desc) (sp : Bool) (cs : List Nat) : Option Nat :=
  let w : Nat := if sp then 32 else 64
  let base := d.base % 2 ^ w
  let lim := d.limit % 2 ^ w
  let ea : Nat := wrapN w ((base : Int) + d.offset cs)
  let n := max 1 (d.ew / 8)
  if ea < base ∨ lim < ea + n then none else some ea

/-- The address of the scale byte of the block an element lies in (R318). -/
def Desc.scaleAddr (d : Desc) (cs : List Nat) : Nat :=
  let first := match cs with | c :: r => (c / 8 * 8) :: r | [] => []
  let w : Nat := if d.sp then 32 else 64
  wrapN w ((d.scaleb + wrapN w (d.offset first) / d.ew : Nat) : Int)

end Sys2Proof.Machine
end

