-- ==== Sys2Proof/Machine/Access.lean ====
section
/-! DEFINITION. One lane's access to a space (R72, R167, R172, R173, R211, R280 to R282), what an instruction made of such
accesses leaves behind (R79, R80, R84, R75, R76), and the watch (R399). -/

namespace Sys2Proof.Machine

/-- Why a lane's access does not perform. -/
inductive Stop where
  | cause (c : Cause)
  /-- A write met REPL = 1, its leaf at `pte` (R75). -/
  | collapse (va pte : Nat)
  /-- A write met BUSY = 1 (R76). -/
  | busy (va : Nat)
  deriving DecidableEq, Repr

/-- Where an access goes: physical bytes, the zero bytes of a discarded page, a workgroup's scratchpad, or another
device. -/
inductive Spot where
  | mem (pa : Nat)
  | zero
  | sp (core slot off : Nat)
  | remote (dev pa : Nat)
  deriving DecidableEq, Repr

/-! ### FIFO segments (R170 to R172) -/

/-- The FIFO whose segment holds an offset: 0 or 1. -/
def Wg.fifoAt (w : Wg) (off : Nat) : Option Nat :=
  let c := w.csrs.fifocfg.toNat
  if bitAt c 15 && bitsAt c 5 0 == off / 65536 then some 0
  else if bitAt c 31 && bitsAt c 21 16 == off / 65536 then some 1
  else none

def Wg.fifo (w : Wg) (k : Nat) : Fifo := if k = 0 then w.fifo0 else w.fifo1
def Wg.setFifo (w : Wg) (k : Nat) (x : Fifo) : Wg := if k = 0 then { w with fifo0 := x } else { w with fifo1 := x }

/-- n rounded up to a multiple of 16. -/
def up16 (n : Nat) : Nat := ceilDiv n 16 * 16

/-- One record pushed: padded with zeros to a multiple of 16 (R172). -/
def Fifo.push (x : Fifo) (bs : List Byte) : Fifo :=
  { x with data := x.data ++ bs ++ List.replicate (up16 bs.length - bs.length) 0 }

/-- n bytes popped, then the bytes up to the next 16-byte boundary discarded (R172). -/
def Fifo.pop (x : Fifo) (n : Nat) : Fifo :=
  { head := (x.head + up16 n / 16) % 4096, data := x.data.drop (up16 n) }

/-! ### Scratchpad and windows -/

/-- PERMISSION for an access of a kind: NO_READ or NO_WRITE. -/
def deny (ea : Nat) (acc : Acc) : Stop :=
  .cause { code := cPermission, sub := if acc = .read then 1 else 2, va := ea, lvl := 0, acc := acc.code }

/-- A scratchpad access outside FIFO segments (R167, R172). -/
def spSpot (w : Wg) (ea n : Nat) (acc : Acc) : Except Stop Spot :=
  if 4096 * w.id.scr < ea + n ∨ (w.fifoAt ea).isSome ∨ (w.fifoAt (ea + n - 1)).isSome then .error (deny ea acc)
  else .ok (.sp w.id.core w.id.slot ea)

/-- A cluster-window access (R173). -/
def State.cwSpot (s : State) (w : Wg) (ea n : Nat) (acc : Acc) : Except Stop Spot :=
  let core := w.id.core / 4 * 4 + bitsAt ea 15 14
  let off := bitsAt ea 6 0
  match tabGet (s.core core).windows (bitsAt ea 13 7) with
  | none => .error (deny ea acc)
  | some e =>
    if ea < 2 ^ 16 ∧ e.pid = w.id.pid ∧ e.ctx = w.id.ctx ∧ off + n ≤ 128
        ∧ (acc = .read ∨ (e.sw = true ∧ w.id.core % 4 = e.wcore)) then
      match s.wg? core e.wgs with
      | some o => if (o.fifoAt (e.offs * 128)).isSome then .error (deny ea acc)
                  else .ok (.sp core e.wgs (e.offs * 128 + off))
      | none => .error (deny ea acc)
    else .error (deny ea acc)

/-! ### Global accesses -/

/-- Whether a lane's last-page register serves an access (R72): a write needs D. -/
def LastPage.serves (l : LastPage) (ea : Nat) (acc : Acc) (remote : Bool) : Bool :=
  decide (l.va ≤ ea) && decide (ea < l.va + l.size) && (l.tier == 3) == remote &&
    match acc with
    | .read => l.rd || l.disc
    | .write => l.w && l.d && !l.disc
    | .atomic => l.rd && l.w && l.d && !l.disc && l.tier != 2
    | .fetch => false

/-- The register after a translation by a leaf: of the page, or of a replica's part of it (R72, R74). -/
def lastPageOf (l : Leaf) (e : Nat) (ea : Nat) (pa : Option Nat) : LastPage :=
  let home := l.frame + ea % l.size
  let pa := pa.getD home
  let size := if pa = home then l.size else min l.size 0x20_0000
  { va := ea / size * size, size := size, pa := pa - ea % size, pte := l.pte, tier := l.tier, dev := l.dev
    mattr := bitsAt e 3 2, rd := l.rd, w := l.w, x := l.x, d := bitAt e 8, disc := l.disc }

/-- Where a global access goes, by the last-page register or the tables (R63 to R66, R72, R75 to R77, R87). -/
def State.gPlace (s : State) (who : Who) (last : Option LastPage) (ea : Nat) (acc : Acc) (remote : Bool) :
    Except Stop Spot × Option LastPage × State :=
  match last with
  | some l =>
    if l.serves ea acc remote then
      (.ok (if l.disc then .zero else if remote then .remote l.dev (l.pa + (ea - l.va)) else .mem (l.pa + (ea - l.va))), last, s)
    else byTables s
  | none => byTables s
where
  byTables (s : State) : Except Stop Spot × Option LastPage × State :=
    match s.xlate who ea acc remote with
    | (x, leaf, s) =>
      let lp := fun (pa : Option Nat) => match leaf with
        | some l => some (lastPageOf l (s.phys l.pte 8) ea pa)
        | none => none
      match x with
      | .pa pa => (.ok (.mem pa), lp (some pa), s)
      | .zero => (.ok .zero, lp none, s)
      | .remote d pa => (.ok (.remote d pa), lp none, s)
      | .cause code sub lvl =>
        (.error (.cause { code := code, sub := sub, va := ea, lvl := lvl, acc := acc.code }), last, s)
      | .collapse pte => (.error (.collapse ea pte), last, s)
      | .busy => (.error (.busy ea), last, s)

/-- An uncorrectable sector of an access to n bytes raises ECC_UNCORR (R21). -/
def State.eccChecked (s : State) (r : Except Stop Spot) (ea n : Nat) (acc : Acc) : Except Stop Spot :=
  match r with
  | .ok (.mem pa) => match s.eccSub pa n (acc != .write) with
    | some sub => .error (.cause { code := cEcc, sub := sub, va := ea, lvl := 0, acc := acc.code })
    | none => r
  | _ => r

/-- A global access to n bytes that lie in one page. -/
def State.gSpot (s : State) (who : Who) (last : Option LastPage) (ea n : Nat) (acc : Acc) (remote : Bool) :
    Except Stop Spot × Option LastPage × State :=
  let (r, last, s) := s.gPlace who last ea acc remote
  (s.eccChecked r ea n acc, last, s)

/-- Where lane l of a path finds a global address; its last-page register takes the translation (R72). -/
def Path.place (p : Path) (s : State) (l ea : Nat) (acc : Acc) (remote : Bool) : Except Stop Spot × State :=
  let p := p.reload s
  let last := if p.ctl then none else (p.thread l).bind (·.last)
  let (r, last, s) := s.gPlace p.who last ea acc remote
  (r, if p.ctl then s else s.modWg p.w.id.core p.w.id.slot fun w => w.modLane p.grp l fun t => { t with last := last })

/-- An access of lane l of a path to a space (R211). -/
def Path.spot (p : Path) (s : State) (l space ea n : Nat) (acc : Acc) (remote : Bool) : Except Stop Spot × State :=
  if space = 0 then
    let (r, s) := p.place s l ea acc remote
    (s.eccChecked r ea n acc, s)
  else if space = 1 then (spSpot (p.reload s).w ea n acc, s)
  else (s.cwSpot (p.reload s).w ea n acc, s)

/-- n bytes at a spot. -/
def State.spotRead (s : State) (x : Spot) (n : Nat) : List Byte :=
  match x with
  | .mem pa => memRead s.mem pa n
  | .sp core slot off => match s.wg? core slot with
    | some w => (List.range n).map fun i => cellGet w.scratch (off + i)
    | none => List.replicate n 0
  | _ => List.replicate n 0

/-- Bytes written into a scratchpad. -/
def scratchWrite (c : Cells 8) (off : Nat) : List Byte → Cells 8
  | [] => c
  | b :: bs => scratchWrite (cellSet c off b) (off + 1) bs

/-- Bytes written at a spot. -/
def State.spotWrite (s : State) (x : Spot) (bs : List Byte) : State :=
  match x with
  | .mem pa => { s with mem := memWrite s.mem pa bs }
  | .sp core slot off => s.modWg core slot fun w => { w with scratch := scratchWrite w.scratch off bs }
  | _ => s

/-- A number of n bytes at a spot. -/
def State.spotNat (s : State) (x : Spot) (n : Nat) : Nat := ofBytes (s.spotRead x n)

/-! ### Addresses and alignment (R280, R282) -/

/-- The effective address of R280 from the base. -/
def eaOf (mj : Major) (f : LForm) (a : Nat) : Nat :=
  if f.space = 0 then wrapN 64 ((a : Int) + offOf mj f) else wrapN 32 (((a % 2 ^ 32 : Nat) : Int) + offOf mj f)

/-- MISALIGNED for a plain access. -/
def misaligned (ea : Nat) (acc : Acc) : Stop :=
  .cause { code := cMisaligned, sub := 0, va := ea, lvl := 0, acc := acc.code }

/-- R282 for a misaligned atomic access of n bytes. -/
def misatomic (ea n : Nat) (acc : Acc) : Stop :=
  .cause { code := if ea / 32 = (ea + n - 1) / 32 then cMisaligned else cAtomicSpan, sub := 0, va := ea, lvl := 0
           acc := acc.code }

/-! ### What an instruction's accesses come to -/

/-- The lanes' outcomes: register writes of the lanes that completed, with the .G bytes each accessed (0 bytes when
nothing is watched); the lanes that could not perform; lanes that completed and wait; and a cause raised outside the
per-lane loop (R212). -/
structure Perf where
  done : List (Nat × List RegWrite)
  seen : List (Nat × Nat × Nat)
  fail : List (Nat × Stop)
  wait : List (Nat × Wait)
  fatal : Option Cause
  deriving DecidableEq, Repr

def Perf.none : Perf := { done := [], seen := [], fail := [], wait := [], fatal := Option.none }

/-- What a lane answers. -/
structure LaneDone where
  ws : List RegWrite
  ea : Nat
  n : Nat
  deriving DecidableEq, Repr

/-- One lane's outcome added. -/
def Perf.add (r : Perf) (l : Nat) (x : Except Stop LaneDone) : Perf :=
  match x with
  | .error e => { r with fail := r.fail ++ [(l, e)] }
  | .ok d => { r with done := r.done ++ [(l, d.ws)], seen := r.seen ++ [(l, d.ea, d.n)] }

/-- The lanes of a request one after the other, in lane order. -/
def perLane (g : State → LaneOp → Except Stop LaneDone × State) : List LaneOp → Perf → State → Perf × State
  | [], r, s => (r, s)
  | o :: os, r, s =>
    let (x, s) := g s o
    perLane g os (r.add o.lane x) s

/-- The lanes of an atomic instruction as they act: those that name one location together, in lane order, and the locations in
the order of their lowest lane (R287). -/
def byPlace (ea : LaneOp → Nat) (os : List LaneOp) : List LaneOp :=
  (os.map ea).eraseDups.flatMap fun a => os.filter fun o => ea o == a

/-- The outcomes in lane order. -/
def Perf.inOrder (r : Perf) (os : List LaneOp) : Perf :=
  { r with
    done := os.flatMap fun o => r.done.filter fun e => e.1 == o.lane
    seen := os.flatMap fun o => r.seen.filter fun e => e.1 == o.lane
    fail := os.flatMap fun o => r.fail.filter fun e => e.1 == o.lane }

/-! ### The watch (R399) -/

/-- Whether an access is watched. -/
def Wg.watches (w : Wg) (acc : Acc) (ea n : Nat) : Bool :=
  let c := w.csrs.watchctl.toNat
  let size := 2 ^ min (bitsAt c 15 8) 40
  let lo := bitsAt w.csrs.watcha.toNat 56 0 / size * size
  bitAt c 0 && (if acc = .read then bitAt c 1 else bitAt c 2) && n != 0 && meets ea n lo size

/-- Lanes in a region return to their ALB, their regions closed (R295). -/
def Wg.dropRegions (w : Wg) (g : Nat) (ls : List Nat) : Wg :=
  ls.foldl (fun w l => w.modLane g l fun t => match t.region with
    | some r => { t with region := none, pc := r.alb }
    | none => t) w

/-- WATCH raised for the lowest watched lane (R399): a halt with a debugger attached, otherwise a handler cause. -/
def Path.raiseWatch (p : Path) (s : State) (pc : DWord) (acc : Acc) (ea : Nat) (held : LaneMask) : State :=
  let r : TrapReq := { cause := cWatch, sub := 0, code := 0, info := BitVec.ofNat 64 ea, pc := pc, acc := acc.code
                       mask := held }
  let p := p.reload s
  if p.ctl then s.raiseCtl p.w r
  else
    let x := p.w.group p.grp
    if p.w.csrs.att then s.setWg (p.w.setGroup p.grp { x with halted := true, stepping := false })
    else s.raiseLane (p.w.dropRegions p.grp (lanesOf held)) p.grp r

/-! ### The end of a memory instruction -/

/-- The state's wait of the issuer for an agent: a record, a collapse that starts, or a BUSY page. -/
def Path.stopAt (p : Path) (s : State) (st : Stop) (pc : DWord) (pend : LaneMask) : Susp × State :=
  match st with
  | .cause c =>
    let (n, s) := s.deliver p.w.id c pc.toNat pend.toNat p.grp (if p.ctl then 1 else 0) none
    (.fault n, s)
  | .collapse va pte => (.collapse (BitVec.ofNat 64 va), s.startCollapse p.who va pte)
  | .busy va => (.busy (BitVec.ofNat 64 va), s)

/-- Lanes move n bytes on. -/
def Path.advanceLanes (p : Path) (w : Wg) (ls : List Nat) (n : Nat) : Wg :=
  if p.ctl then (if ls.isEmpty then w else { w with ctl := { w.ctl with pc := w.ctl.pc + BitVec.ofNat 64 n } })
  else ls.foldl (fun w l => w.modLane p.grp l fun t => { t with pc := t.pc + BitVec.ofNat 64 n }) w

/-- Lanes begin to wait. -/
def Path.setWaits (p : Path) (w : Wg) (ws : List (Nat × Wait)) : Wg :=
  ws.foldl (fun w e =>
    if p.ctl then { w with ctl := { w.ctl with wait := e.2 } } else w.modLane p.grp e.1 fun t => { t with wait := e.2 }) w

/-- Lanes whose loads may no longer be abandoned (R253). -/
def Path.bindLoads (p : Path) (w : Wg) (ls : List Nat) : Wg :=
  if p.ctl then (if ls.isEmpty then w else { w with ctl := w.ctl.bindLoads })
  else ls.foldl (fun w l => w.modLane p.grp l Thread.bindLoads) w

/-- The end of an issue or a replay (R79, R80, R84): the completed lanes' results, the PCs of the lanes that are done,
the pending lanes with the request they replay, a record for the first of them, and the watch. `ls` are the lanes
concerned, guarded-off lanes included; while one waits, the path waits (R300, R306). `keep` are the lanes whose local load
may be abandoned and reissued (R145). -/
def Path.finish (p : Path) (s : State) (req : MemReq) (acc : Acc) (keep ls : List Nat) (r : Perf) : State :=
  let p := p.reload s
  match r.fatal with
  | some c =>
    let w := p.apply p.w r.done
    let (n, s) := s.deliver w.id c req.pc.toNat (maskOfLanes ls).toNat p.grp (if p.ctl then 1 else 0) none
    s.setWg (if p.ctl then { w with ctlSusp := .fault n, ctlReplay := none }
      else w.setGroup p.grp { w.group p.grp with susp := .fault n, replay := none, pend := 0 })
  | none =>
    let final := (r.done.map (·.1)).filter fun l => req.la == 0 || !keep.contains l
    let w := if acc = .read then p.bindLoads p.w final else p.w
    let (w, s) := p.results s w req.la r.done fun l => if keep.contains l then some { req with la := 0 } else none
    let stay := r.fail.map (·.1)
    let w := if r.wait.isEmpty then p.advanceLanes w (ls.filter fun l => !stay.contains l) req.len else p.setWaits w r.wait
    let s := s.setWg w
    let pend := maskOfLanes (r.fail.map (·.1))
    let again : MemReq := { req with lanes := req.lanes.filter fun o => pend.getLsbD o.lane }
    let s := match r.fail with
      | [] => s.setWg (if p.ctl then { w with ctlSusp := .none, ctlReplay := none }
          else
            let x := w.group p.grp
            if x.susp = .none ∨ x.susp = .replay then
              w.setGroup p.grp { x with susp := .none, replay := none, pend := 0 }
            else w)
      | e :: _ =>
        let (susp, s) := p.stopAt s e.2 req.pc pend
        s.setWg (if p.ctl then { w with ctlSusp := susp, ctlReplay := some again }
          else w.setGroup p.grp { w.group p.grp with susp := susp, replay := some again, pend := pend })
    match r.seen.find? fun e => w.watches acc e.2.1 e.2.2 with
    | some e => p.raiseWatch s req.pc acc e.2.1 (maskOfLanes (req.lanes.map (·.lane)))
    | none => s

/-- LA of an instruction whose results may be held: remote operations hold their own. -/
def laOf (mj : Major) (f : LForm) : Nat := match mj with | .rld | .rst | .ratom => 0 | _ => f.la.toNat

/-- The operands each active lane holds for a memory instruction. -/
def Path.gather (p : Path) (i : Instr) (mj : Major) (f : LForm) : MemReq :=
  { i := i, pc := p.pc, len := codedLen false f, la := laOf mj f
    lanes := (p.active f.g).map fun e =>
      { lane := e.1, a := BitVec.ofNat 64 (p.opA e.2 mj f), b := BitVec.ofNat 128 (p.opB e.2 mj f)
        c := BitVec.ofNat 64 (p.opC e.2 mj f) } }

/-! ### Accesses not yet performed (R73) -/

/-- The addresses that an unanswered remote request was made for. -/
def Remote.eas (r : Remote) : List Nat :=
  match r.copy, coded r.i with
  | none, some (mj, _, f) => r.lanes.map fun o => eaOf mj f o.a.toNat
  | _, _ => r.lanes.map fun o => o.a.toNat

/-- The requests of this device that are not yet answered, those that saved workgroups have still to send among them. -/
def State.remotes (s : State) : List Remote :=
  s.fabric.out ++ s.parts.flatMap fun p => p.2.ctxs.flatMap fun c => c.2.saved.flatMap (·.remotes)

/-- The page of a context that holds an address, base and size; one byte where nothing is mapped. -/
def State.pageAt (s : State) (pid ctx va : Nat) : Nat × Nat :=
  match (s.ctx? pid ctx).map fun c => s.walk va c.l4base 4 with
  | some (.ok l) => (l.va, l.size)
  | _ => (va, 1)

/-- Whether a remote access of an ASID, through a page that a range meets, is not yet performed (R73), be its workgroup resident,
saved or gone. Every other access is performed as it is translated. -/
def State.remoteIn (s : State) (pid asid va n : Nat) : Bool :=
  s.remotes.any fun r => r.msg.spart == pid && s.asidOf pid r.ctx == asid && r.eas.any fun ea =>
    let g := s.pageAt pid r.ctx ea
    meets g.1 g.2 va n

/-- Whether step 2 of a collapse may complete: no access through the page is still to be performed (R73, R75). -/
def State.collapseDue (s : State) (c : Collapse) : Bool :=
  match s.collapseLeaf c with
  | .ok l => !s.remoteIn c.pid c.asid l.va l.size
  | .error _ => true

end Sys2Proof.Machine
end

