-- ==== Sys2Proof/Machine/Remote.lean ====
section
/-! DEFINITION. Remote operations over Tarile: what a target accepts and performs (R88 to R90, R93), request slots and
sequence numbers (R91, R93), and the results of a response (R305 to R307). -/

namespace Sys2Proof.Machine

/-! ### Atomic operations (Table 10-3) -/

/-- The new value m′ from the old value m and the operand x, w = tyWidth t bits; .CAS is .EXCH here. -/
def atomNew (op : Nat) (t : Ty) (m x : Nat) : Nat :=
  let w := tyWidth t
  match op with
  | 0 => (m + x) % 2 ^ w
  | 1 => if val t m ≤ val t x then m else x % 2 ^ w
  | 2 => if val t x ≤ val t m then m else x % 2 ^ w
  | 3 => Nat.land m (x % 2 ^ w)
  | 4 => Nat.lor m (x % 2 ^ w)
  | 5 => Nat.xor m (x % 2 ^ w)
  | 7 => fadd32 m (x % 2 ^ 32)
  | _ => x % 2 ^ w

/-- The same with .CAS, its compare value in x and its new value in y. -/
def ratomNew (op : Nat) (t : Ty) (m x y : Nat) : Nat :=
  if op = 8 then (if m = x % 2 ^ tyWidth t then y % 2 ^ tyWidth t else m) else atomNew op t m x

/-! ### The target's side (R90, R93) -/

/-- The fabric group that firmware has recorded for a source and its partition; this device's own partitions carry
theirs in their records. -/
def State.pairGroup (s : State) (src spart : Nat) : Option Nat :=
  if src = s.fabric.devId then (s.part? spart).map (·.fabgrp)
  else (s.fabric.pairs.find? fun e => e.1 == src && e.2.1 == spart).map (·.2.2)

/-- R90: whether a request to n bytes at a physical address is accepted. A frame that holds a table is never reached: only
firmware and the A/D updates write it (R68; log 125, DEDUCED). -/
def State.accepts (s : State) (src spart pa n : Nat) : Bool :=
  let ok := fun a => (s.tierOf a == some 0 || s.tierOf a == some 1) && !inReserved a
  ok pa && ok (pa + n - 1) &&
    match s.frames.find? fun f => decide (f.base ≤ pa) && decide (pa + n ≤ f.base + f.size) with
    | some f => match s.part? f.pid, s.pairGroup src spart with
      | some p, some g => p.fabric && p.fabgrp == g && !f.table
      | _, _ => false
    | none => false

/-- The status a target answers for an access (Table 3-7): 0, 1 ACCESS, or 2 to 4 for ECC. -/
def State.targetStatus (s : State) (src spart pa n : Nat) (reads : Bool) : Nat :=
  if s.accepts src spart pa n then (match s.eccSub pa n reads with | some sub => sub + 1 | none => 0) else 1

/-- The cause a status gives its lanes (R307). -/
def statusCause (status va : Nat) (acc : Acc) : Cause :=
  { code := if status = 1 then cPermission else cEcc, sub := if status = 1 then 6 else status - 1, va := va, lvl := 0
    acc := acc.code }

/-- Bytes that a target writes at a physical address; a replica of them keeps the same bytes (R74). -/
def State.targetWrite (s : State) (pa : Nat) (bs : List Byte) : State :=
  let put := fun (s : State) (a : Nat) => ({ s with mem := memWrite s.mem a bs } : State)
  s.replicas.foldl (fun s r =>
    if r.filled && decide (r.home ≤ pa) && decide (pa + bs.length ≤ r.home + r.size) then put s (r.frame + (pa - r.home))
    else s) (put s pa)

/-- Bytes written at offsets of a line. -/
def State.lineWrite (s : State) (line : Nat) : List Nat → List Byte → State
  | o :: os, b :: bs => (s.targetWrite (line + o) [b]).lineWrite line os bs
  | _, _ => s

/-! ### The source's side (R91, R306) -/

/-- A core's request slots towards a target that are in use; the copy engine's are counted apart. -/
def Fabric.slotsUsed (fb : Fabric) (core dst : Nat) (copy : Bool) : Nat :=
  (fb.out.filter fun r => r.sent && r.core == core && r.msg.dst == dst && r.copy.isSome == copy).length

/-- The requests outstanding towards a target. -/
def Fabric.pairUsed (fb : Fabric) (dst : Nat) : Nat := (fb.out.filter fun r => r.sent && r.msg.dst == dst).length

/-- Whether a thread of a workgroup waits until the messages of an instruction have entered virtual channel 0. -/
def Wg.awaitsSlots (w : Wg) (tag : Nat) : Bool :=
  (w.ctl :: w.lanes.map (·.2)).any fun t => match t.wait with | .slots k _ => k == tag | _ => false

/-- Whether a request is part of the remote-slot wait of a workgroup. -/
def Remote.awaited (r : Remote) (w : Wg) : Bool := r.core == w.id.core && r.slot == w.id.slot && !r.sent && w.awaitsSlots r.outTag

/-- Whether a request is part of a wait that pre-emption keeps (Table 5-8): its context is PREEMPTED (log 155, DEDUCED). -/
def State.waitKept (s : State) (r : Remote) : Bool :=
  ((s.ctx? r.msg.spart r.ctx).any fun c => c.cstate == 3) && (s.wg? r.core r.slot).any r.awaited

/-- Whether a message may enter virtual channel 0 (R91), for which its workgroup need not be there any more. -/
def State.slotFree (s : State) (r : Remote) : Bool :=
  let rslots := match s.part? r.msg.spart with | some p => p.rslots | none => 0
  decide (s.fabric.slotsUsed r.core r.msg.dst r.copy.isSome < (if r.copy.isSome then 32 else rslots))
    && decide (s.fabric.pairUsed r.msg.dst < 1024) && !s.waitKept r

/-- The oldest outstanding SEQ towards a target, or the next one (LOW of Table 3-7): the one farthest behind the next. -/
def Fabric.low (fb : Fabric) (dst next : Nat) : Nat :=
  let back := (fb.out.filter fun r => r.sent && r.msg.dst == dst).map fun r => (next + 65536 - r.msg.seq.toNat) % 65536
  (next + 65536 - back.foldl max 0) % 65536

/-- Sends one request: it takes its slot and its SEQ, and its message goes on channel 0. -/
def State.sendRemote (s : State) (r : Remote) : State :=
  let fb := s.fabric
  let seq := (tabGet fb.nextSeq r.msg.dst).getD 0
  let m := { r.msg with seq := BitVec.ofNat 16 seq, low := BitVec.ofNat 16 (fb.low r.msg.dst seq) }
  { s with fabric := { fb with
      nextSeq := tabSet fb.nextSeq r.msg.dst ((seq + 1) % 65536), tx := fb.tx ++ [m]
      out := fb.out.map fun x => if x.tag == r.tag then { x with msg := m, sent := true, first := s.ns, last := s.ns }
                                 else x } }

/-- Sends what may be sent, the messages of one instruction in order, and ends the waits of instructions whose last
message has entered: their lanes go on. -/
def State.serveSlots (s : State) : State :=
  let (s, _) := s.fabric.out.foldl (fun (acc : State × List Nat) r =>
    if r.sent || acc.2.contains r.outTag then acc
    else if acc.1.slotFree r then (acc.1.sendRemote r, acc.2)
    else (acc.1, r.outTag :: acc.2)) (s, [])
  let go := fun (t : Thread) => match t.wait with
    | .slots tag n =>
      if s.fabric.out.any fun r => r.outTag == tag && !r.sent then t
      else { t with wait := .none, pc := t.pc + BitVec.ofNat 64 n }
    | _ => t
  { s with wgs := s.wgs.map fun e =>
      (e.1, { e.2 with lanes := e.2.lanes.map fun x => (x.1, go x.2), ctl := go e.2.ctl }) }

/-! ### One instruction's messages (R305, R306) -/

/-- The request of lanes at one device and line (RLD, RST) or of one lane (RATOM): TYPE, OPC, the bytes named and the
data sent. Where lanes leave gaps in a line, LEN counts the bytes named, and their offsets stand beside the header (log 126,
DESIGN CHOICE). -/
def remoteMsg (s : State) (p : Path) (mj : Major) (f : LForm) (dev line : Nat) (lanes : List (LaneOp × Nat)) : Msg :=
  let n := 2 ^ f.size
  let bytes : Tab Byte := lanes.foldl (fun t e => (List.range n).foldl (fun t i =>
    tabSet t (e.2 - line + i) (BitVec.ofNat 8 (e.1.b.toNat / 2 ^ (8 * i)))) t) []
  let base : Msg := { dst := dev, src := s.fabric.devId, type := .rld, seq := 0, low := 0, spart := p.w.id.pid, len := 0
                      opc := 0, retx := false, addr := 0, offs := [], data := [] }
  match mj with
  | .ratom =>
    match lanes with
    | e :: _ => { base with
        type := .ratom, len := 16, addr := e.2
        opc := BitVec.ofNat 8 (f.low5 % 16 + (if f.low5 % 16 = 7 then 0 else tyCode f.ty % 4 * 16))
        data := bytesOf 8 e.1.b.toNat ++ bytesOf 8 e.1.c.toNat }
    | [] => base
  | .rst => { base with
      type := .rst, len := bytes.length, addr := line + ((bytes.map (·.1)).head?.getD 0), offs := bytes.map (·.1)
      data := bytes.map (·.2) }
  | _ => { base with
      type := .rld, len := bytes.length, addr := line + ((bytes.map (·.1)).head?.getD 0), offs := bytes.map (·.1) }

/-- Lanes grouped by device and line, each group in the place of its lowest lane. -/
def byLine : List (LaneOp × Nat × Nat) → List ((Nat × Nat) × List (LaneOp × Nat))
  | [] => []
  | (o, dev, pa) :: r =>
    let key := (dev, pa / 128 * 128)
    let g := byLine r
    let mine := ((g.find? fun x => x.1 == key).map (·.2)).getD []
    (key, (o, pa) :: mine) :: g.filter fun x => x.1 != key

/-- The register writes of one lane from the bytes at its address or the old value. -/
def remoteWrites (p : Path) (mj : Major) (f : LForm) (x : Nat) : List RegWrite :=
  match mj with
  | .rld => p.wrLoad f.d (2 ^ f.size) (bitAt f.f.toNat 3) x
  | .ratom => if bitAt f.f.toNat 4 then [] else p.wr f.d f.ty (x : Int)
  | _ => []

/-- A lane whose leaf names this device (R88): performed at once under the target's checks. -/
def State.localRemote (s : State) (p : Path) (mj : Major) (f : LForm) (o : LaneOp) (ea pa : Nat) (acc : Acc) :
    Except Stop LaneDone × State :=
  let n := if mj = .ratom then tyWidth f.ty / 8 else 2 ^ f.size
  match s.targetStatus s.fabric.devId p.w.id.pid pa n (acc != .write) with
  | 0 =>
    let m := s.phys pa n
    let s := match mj with
      | .rst => s.targetWrite pa (bytesOf n o.b.toNat)
      | .ratom => s.targetWrite pa (bytesOf n (ratomNew (f.low5 % 16) f.ty m o.b.toNat o.c.toNat))
      | _ => s
    (.ok { ws := remoteWrites p mj f m, ea := ea, n := n }, s)
  | k => (.error (.cause (statusCause k ea acc)), s)

/-- Whether a request serves a thread of a path. -/
def Remote.ofLane (r : Remote) (p : Path) (l : Nat) : Bool :=
  r.core == p.w.id.core && r.slot == p.w.id.slot && r.copy.isNone && r.group == (if p.ctl then none else some p.grp)
    && r.lanes.any fun o => o.lane == l

/-- Whether an unanswered request of the same thread names the line that a remote access reaches: the two are kept in
order (R256, R277). -/
def State.remoteClash (s : State) (p : Path) (mj : Major) (f : LForm) (os : List LaneOp) : Bool :=
  match mj with
  | .rld | .rst | .ratom => os.any fun o =>
      let mine := s.fabric.out.filter fun r => r.ofLane p o.lane
      !mine.isEmpty && match (p.place s o.lane (eaOf mj f o.a.toNat) (match mj with | .rld => .read | .rst => .write | _ => .atomic)
          true).1 with
        | .ok (.remote dev pa) => mine.any fun r => r.msg.dst == dev && r.msg.addr / 128 == pa / 128
        | _ => false
  | _ => false

/-- The lanes an RLD, RST or RATOM has performed on this device: with LA not 0 their results are outstanding under the
instruction's tag (R201), `far` are the lanes that wait for another device. -/
def Path.holdLocal (p : Path) (s : State) (la tag : Nat) (far : List Nat) (r : Perf) : Perf × State :=
  if la = 0 then (r, s)
  else
    let p := p.reload s
    let near := r.done.filter fun d => !far.contains d.1
    ({ r with done := r.done.map fun d => (d.1, []) },
      s.setWg (near.foldl (fun w d => p.pushOut w d.1
        { tag := tag, left := la, ready := true, writes := d.2, owes := .nothing, reissue := none }) p.w))

/-- RLD, RST and RATOM (R305, R306): each lane translates; lanes of this device perform, the others' messages are
queued and enter channel 0 as slots allow. The path waits until the last has entered, its lanes then for the responses. -/
def State.performRemote (s : State) (p : Path) (mj : Major) (f : LForm) (req : MemReq) : Perf × State :=
  let acc : Acc := match mj with | .rld => .read | .rst => .write | _ => .atomic
  let n := if mj = .ratom then tyWidth f.ty / 8 else 2 ^ f.size
  let (r, far, s) := req.lanes.foldl (fun (a : Perf × List (LaneOp × Nat × Nat) × State) o =>
    let (r, far, s) := a
    let ea := eaOf mj f o.a.toNat
    if ea % n != 0 then
      (r.add o.lane (.error (if mj = .ratom then misatomic ea n acc else misaligned ea acc)), far, s)
    else match p.spot s o.lane 0 ea n acc true with
      | (.error e, s) => (r.add o.lane (.error e), far, s)
      | (.ok (.remote dev pa), s) =>
        if dev = s.fabric.devId then
          let (x, s) := s.localRemote p mj f o ea pa acc
          (r.add o.lane x, far, s)
        else (r.add o.lane (.ok { ws := [], ea := ea, n := n }), far ++ [(o, dev, pa)], s)
      | (.ok _, s) => (r.add o.lane (.ok { ws := remoteWrites p mj f 0, ea := ea, n := n }), far, s)) (Perf.none, [], s)
  if far.isEmpty ∧ f.la = 0 then (r, s)
  else
    let (tag, s) := s.tag
    let (r, s) := p.holdLocal s f.la.toNat tag (far.map fun e => e.1.lane) r
    let groups := if mj = .ratom then far.map fun e => ((e.2.1, e.2.2), [(e.1, e.2.2)]) else byLine far
    let (rs, s) := groups.foldl (fun (a : List Remote × State) g =>
      let (t, s) := a.2.tag
      (a.1 ++ [{ tag := t, msg := remoteMsg s p mj f g.1.1 g.1.2 g.2, ctx := p.w.id.ctx, core := p.w.id.core, slot := p.w.id.slot
                 group := if p.ctl then none else some p.grp, outTag := tag, lanes := g.2.map (·.1), i := req.i
                 pc := req.pc, sent := false, first := 0, last := 0, tries := 0, copy := none }], s)) ([], s)
    let p := p.reload s
    let w := far.foldl (fun w e => p.pushOut w e.1.lane
      { tag := tag, left := f.la.toNat, ready := false, writes := [], owes := owesOf mj f, reissue := none }) p.w
    let stay := p.lanes.filter fun l => !r.fail.any fun e => e.1 == l
    ({ r with wait := if far.isEmpty then [] else stay.map fun l => (l, .slots tag req.len) },
      { s.setWg w with fabric := { s.fabric with out := s.fabric.out ++ rs } })

/-! ### Responses (R93, R306, R307) -/

/-- An outstanding instruction of a thread has performed: loads before it may no longer be abandoned (R253). -/
def Thread.bindBefore (t : Thread) (tag : Nat) : Thread :=
  let i := t.outs.findIdx fun o => o.tag == tag
  { t with outs := (({ t with outs := t.outs.take i } : Thread).bindLoads).outs ++ t.outs.drop i }

/-- An outstanding instruction of a thread is complete: loads before it may no longer be abandoned (R253). -/
def Thread.dropOut (t : Thread) (tag : Nat) : Thread :=
  let i := t.outs.findIdx fun o => o.tag == tag
  { t with outs := (({ t with outs := t.outs.take i } : Thread).bindLoads).outs ++ t.outs.drop (i + 1) }

/-- A lane or control thread loses an outstanding instruction and takes its register writes, if it still has it. -/
def Wg.complete (w : Wg) (ctl : Bool) (g l tag : Nat) (ws : List RegWrite) : Wg :=
  let t? := if ctl then some w.ctl else w.lane? g l
  match t? with
  | none => w
  | some t =>
    if t.outs.any fun o => o.tag == tag then
      let t' := t.dropOut tag
      (if ctl then { w with ctl := t' } else w.setLane g l t').writes ctl g l ws
    else w

/-- The thread once the results of an outstanding instruction are known: they wait for LONG_LATENCY_COMPLETE. -/
def Thread.hear (t : Thread) (tag : Nat) (ws : List RegWrite) : Thread :=
  { t.bindBefore tag with outs := (t.bindBefore tag).outs.map fun o =>
      if o.tag == tag then { o with ready := true, writes := ws, owes := .nothing } else o }

/-- The results of an outstanding instruction arrive: none or one register completes it; several are written together or one
by one, as R203 leaves open. -/
def Wg.receive (w : Wg) (ctl : Bool) (g l tag : Nat) (ws : List RegWrite) : Wg :=
  if ws.length ≤ 1 then w.complete ctl g l tag ws
  else if ctl then { w with ctl := w.ctl.hear tag ws }
  else w.modLane g l fun t => t.hear tag ws

/-- The path or control thread that a request serves. -/
def Remote.path (r : Remote) (w : Wg) : Path :=
  match r.group with
  | some g => { w := w, ctl := false, grp := g, mask := maskOfLanes (r.lanes.map (·.lane)), uni := w.s }
  | none => { w := w, ctl := true, grp := 0, mask := 1, uni := w.s }

/-- The value a response gives a lane: its bytes of the line (RLD) or the old value. -/
def responseValue (mj : Major) (f : LForm) (r : Remote) (data : List Byte) (o : LaneOp) : Nat :=
  match mj with
  | .rld =>
    let first := eaOf mj f o.a.toNat % 128
    ofBytes ((List.range (2 ^ f.size)).map fun i =>
      (tabGet (r.msg.offs.zip data) (first + i)).getD 0)
  | _ => ofBytes (data.take 8) % 2 ^ tyWidth f.ty

/-- The lanes of a request take a response's data. -/
def State.answerLanes (s : State) (r : Remote) (data : List Byte) : State :=
  match coded r.i with
  | none => s
  | some (mj, _, f) =>
    s.modWg r.core r.slot fun w =>
      let p := r.path w
      r.lanes.foldl (fun w o =>
        w.receive p.ctl p.grp o.lane r.outTag (remoteWrites p mj f (responseValue mj f r data o))) w

/-- The lanes of a request fail (R307): they become pending with a record for the first (R79). -/
def State.failLanes (s : State) (r : Remote) (c : Acc → Nat → Cause) : State :=
  match s.wg? r.core r.slot, coded r.i with
  | some w, some (mj, _, f) =>
    let p := r.path w
    let live := r.lanes.filter fun o => match p.thread o.lane with
      | some t => t.outs.any fun x => x.tag == r.outTag
      | none => false
    match live with
    | [] => s
    | o :: _ =>
      let acc : Acc := match mj with | .rld => .read | .rst => .write | _ => .atomic
      let w := live.foldl (fun w o => w.complete p.ctl p.grp o.lane r.outTag []) w
      let pend := maskOfLanes (live.map (·.lane))
      let (n, s) := s.deliver w.id (c acc (eaOf mj f o.a.toNat)) r.pc.toNat pend.toNat p.grp (if p.ctl then 1 else 0) none
      s.setWg ((if p.ctl then w else w.setGroup p.grp { w.group p.grp with pend := (w.group p.grp).pend ||| pend }).suspend r.group n)
  | _, _ => s

end Sys2Proof.Machine
end

