-- ==== Sys2Proof/Machine/Perform.lean ====
section
/-! DEFINITION. What the memory instructions do once their operands are held (spec/10_isa_memory_sync.md): loads, stores,
tensor elements, atomics, regions, level objects, DISCARD, PUBLISH, SYS.TDSET. The same operations serve the first
issue and a replay (R84). -/

namespace Sys2Proof.Machine

/-- The bytes each access of LD, ST, LDNR, RLD and RST moves. -/
def accBytes (f : LForm) : Nat := 2 ^ f.size

/-- A lane that completed without a .G access to watch. -/
def quiet (ws : List RegWrite) : LaneDone := { ws := ws, ea := 0, n := 0 }

/-- A lane that completed an access of n bytes. -/
def heard (f : LForm) (ws : List RegWrite) (ea n : Nat) : LaneDone :=
  { ws := ws, ea := ea, n := if f.space = 0 then n else 0 }

/-! ### Regions (R292 to R294) -/

/-- The last byte held for an address, or none. -/
def lastByte (a : Nat) : List (Nat × Byte) → Option Byte
  | [] => none
  | e :: r => match lastByte a r with | some b => some b | none => if e.1 = a then some e.2 else none

/-- A byte of a region's line: of the home slice, or as it was when an invalidation covered the line, whose frame may be gone since
(log 154, DESIGN CHOICE). -/
def Region.byte (r : Region) (m : Memory) (a : Nat) : Byte :=
  match r.stale with
  | some bs => nthD 0 bs (a - r.line.toNat)
  | none => cellGet (w := 8) m (r.pa + (a - r.line.toNat))

/-- A region LD: held bytes, otherwise bytes of the line, which are recorded (R293). -/
def Region.load (r : Region) (m : Memory) (ea n : Nat) : List Byte × Region :=
  (List.range n).foldl (fun (a : List Byte × Region) i =>
    match lastByte (ea + i) r.held with
    | some b => (a.1 ++ [b], a.2)
    | none =>
      let b := r.byte m (ea + i)
      (a.1 ++ [b], { a.2 with recs := a.2.recs ++ [(ea + i, b)] })) ([], { r with accesses := r.accesses + 1 })

/-- A region ST: the bytes are held (R293). -/
def Region.store (r : Region) (ea : Nat) (bs : List Byte) : Region :=
  { r with accesses := r.accesses + 1, held := r.held ++ (List.range bs.length).map fun i => (ea + i, nthD 0 bs i) }

/-- Whether an LD or ST of a lane in a region may not be made there: the ninth, or a byte outside the line (R293). -/
def Region.bars (r : Region) (ea n : Nat) : Bool := decide (8 ≤ r.accesses) || ea / 128 * 128 != r.line.toNat
  || (ea + n - 1) / 128 * 128 != r.line.toNat

/-- The region of a lane of the path. -/
def Path.region (p : Path) (l : Nat) : Option Region := (p.thread l).bind (·.region)

/-- Sets a lane's region. -/
def State.setRegion (s : State) (p : Path) (l : Nat) (r : Option Region) : State :=
  s.modWg p.w.id.core p.w.id.slot fun w => w.modLane p.grp l fun t => { t with region := r }

/-! ### Loads and stores (R284) -/

/-- The load of one lane. -/
def loadLane (p : Path) (mj : Major) (f : LForm) (s : State) (o : LaneOp) : Except Stop LaneDone × State :=
  let n := accBytes f
  let ea := eaOf mj f o.a.toNat
  let ret := fun (x : Nat) => heard f (p.wrLoad f.d n (bitAt f.f.toNat 3) x) ea n
  if ea % n != 0 then (.error (misaligned ea .read), s)
  else match (p.reload s).region o.lane with
  | some r =>
    match if r.stale.isSome then none else s.eccSub (r.pa + (ea - r.line.toNat)) n true with
    | some sub => (.error (.cause { code := cEcc, sub := sub, va := ea, lvl := 0, acc := 0 }), s)
    | none =>
      let (bs, r) := r.load s.mem ea n
      (.ok (ret (ofBytes bs)), s.setRegion p o.lane (some r))
  | none =>
    match p.spot s o.lane f.space ea n .read false with
    | (.error e, s) => (.error e, s)
    | (.ok x, s) => (.ok (ret (s.spotNat x n)), s)

/-- The store of one lane. -/
def storeLane (p : Path) (mj : Major) (f : LForm) (n : Nat) (s : State) (o : LaneOp) : Except Stop LaneDone × State :=
  let ea := eaOf mj f o.a.toNat
  let bs := bytesOf n o.b.toNat
  if ea % n != 0 then (.error (misaligned ea .write), s)
  else match (p.reload s).region o.lane with
  | some r => (.ok (heard f [] ea n), s.setRegion p o.lane (some (r.store ea bs)))
  | none =>
    match p.spot s o.lane f.space ea n .write false with
    | (.error e, s) => (.error e, s)
    | (.ok x, s) => (.ok (heard f [] ea n), s.spotWrite x bs)

/-- The element load of LDNR (R86, R284): any cause gives 0 and a false predicate, and nothing is mapped. -/
def ldnrLane (p : Path) (f : LForm) (s : State) (o : LaneOp) : Except Stop LaneDone × State :=
  let n := accBytes f
  let ea := eaOf .ldnr f o.a.toNat
  let pc : BitVec 6 := f.c
  let absent : LaneDone := quiet (p.wrLoad f.d n false 0 ++ wrPred pc false)
  if ea % n != 0 then (.ok absent, s)
  else match p.spot s o.lane 0 ea n .read false with
  | (.ok (.mem pa), s') =>
    (.ok (heard f (p.wrLoad f.d n (bitAt f.f.toNat 3) (s'.phys pa n) ++ wrPred pc true) ea n), s')
  | (.ok _, s') => (.ok absent, s')
  | (.error _, _) => (.ok absent, s)

/-- The lanes whose LD.SP or ST.SP lies in FIFO k's segment (R172). -/
def fifoLanes (w : Wg) (mj : Major) (f : LForm) (k : Nat) (os : List LaneOp) : List LaneOp :=
  if (mj = .ld ∨ mj = .st) ∧ f.space = 1 then
    os.filter fun o =>
      let ea := eaOf mj f o.a.toNat
      ea % accBytes f == 0 && decide (ea + accBytes f ≤ 4096 * w.id.scr) && w.fifoAt ea == some k
  else []

/-- Whether a push lacks space or a pop lacks bytes, the ones it discards included (R172). -/
def fifoBlocked (w : Wg) (mj : Major) (f : LForm) (os : List LaneOp) : Bool :=
  [0, 1].any fun k =>
    let n := (fifoLanes w mj f k os).length * accBytes f
    if mj = .ld then decide ((w.fifo k).data.length < up16 n)
    else n != 0 && decide (65536 < (w.fifo k).data.length + up16 n)

/-- Pushes of ST.SP and pops of LD.SP, then the other lanes (R172, R284). -/
def State.performFifo (s : State) (p : Path) (mj : Major) (f : LForm) (os : List LaneOp) : Perf × State :=
  [0, 1].foldl (fun (a : Perf × State) k =>
    let (r, s) := a
    let w := (p.reload s).w
    let mine := fifoLanes w mj f k os
    let x := w.fifo k
    if mine.isEmpty then (r, s)
    else if mj = .ld then
      let r := (List.range mine.length).foldl (fun (r : Perf) i =>
        match mine.drop i with
        | o :: _ => r.add o.lane (.ok (quiet (p.wrLoad f.d (accBytes f) (bitAt f.f.toNat 3)
            (ofBytes ((x.data.drop (i * accBytes f)).take (accBytes f))))))
        | [] => r) r
      (r, s.setWg (w.setFifo k (x.pop (mine.length * accBytes f))))
    else
      let bs := mine.flatMap fun o => bytesOf (accBytes f) o.b.toNat
      (mine.foldl (fun (r : Perf) o => r.add o.lane (.ok (quiet []))) r, s.setWg (w.setFifo k (x.push bs))))
    (Perf.none, s)

/-- LD and ST, regions checked first for the path (R293). -/
def State.performLdSt (s : State) (p : Path) (mj : Major) (f : LForm) (os : List LaneOp) : Perf × State :=
  let barred := os.find? fun o => match p.region o.lane with
    | some r => r.bars (eaOf mj f o.a.toNat) (accBytes f)
    | none => false
  match barred with
  | some o =>
    let c : Cause := { code := cAtomicSpan, sub := 0, va := eaOf mj f o.a.toNat, lvl := 0,
                       acc := if mj = .ld then 0 else 1 }
    ({ Perf.none with fatal := some c }, s)
  | none =>
    let fifo := fifoLanes p.w mj f 0 os ++ fifoLanes p.w mj f 1 os
    let (r, s) := s.performFifo p mj f os
    perLane (fun s o => if mj = .ld then loadLane p mj f s o else storeLane p mj f (accBytes f) s o)
      (os.filter fun o => !fifo.contains o) r s

/-! ### Tensor elements (R286) -/

/-- The coordinates of LDT and STT, signed 32-bit. -/
def ldtCoord (f : LForm) (o : LaneOp) (j : Nat) : Int :=
  match j with
  | 0 => sx 32 (wrapN 32 (sx 32 o.a.toNat + sx 16 (immOf f)))
  | 1 => sx 32 (o.a.toNat / 2 ^ 32)
  | 2 => if f.f.toNat % 2 = 1 then sx 32 o.c.toNat else 0
  | 3 => if f.f.toNat % 2 = 1 then sx 32 (o.c.toNat / 2 ^ 32) else 0
  | _ => 0

/-- A descriptor cause; its record's address is the descriptor's ID. -/
def descStop (code id : Nat) (acc : Acc) : Stop := .cause { code := code, sub := 0, va := id, lvl := 0, acc := acc.code }

/-- The checks of R286 on one lane, in their order: the element's address. -/
def elementAddr (d? : Option Desc) (id : Nat) (acc : Acc) (space : Nat) (c : Nat → Int) : Except Stop Nat :=
  match d? with
  | none => .error (descStop cDescRights id acc)
  | some d =>
    if !d.fmtOk || !(if acc = .read then d.rd else d.wr) || !(d.ew == 8 || d.ew == 16 || d.ew == 32) then
      .error (descStop cDescRights id acc)
    else if (List.range 4).any fun j => decide (d.ndim ≤ j) && c j != 0 then .error (descStop cDescBounds id acc)
    else match (d.coords c).bind fun cs => d.addrOf (space == 1) cs with
    | none => .error (descStop cDescBounds id acc)
    | some ea => if ea % (d.ew / 8) != 0 then .error (misaligned ea acc) else .ok ea

/-- LDT and STT. -/
def State.performTensor (s : State) (p : Path) (mj : Major) (f : LForm) (os : List LaneOp) : Perf × State :=
  if os.isEmpty then (Perf.none, s)
  else
    let acc : Acc := if mj = .ldt then .read else .write
    let (d?, s) := s.descriptor p.w.id.core p.w.id.pid (descOf f)
    let n := match d? with | some d => d.ew / 8 | none => 0
    perLane (fun s o =>
      match elementAddr d? (descOf f) acc f.space (ldtCoord f o) with
      | .error e => (.error e, s)
      | .ok ea =>
        match p.spot s o.lane f.space ea n acc false with
        | (.error e, s) => (.error e, s)
        | (.ok x, s) =>
          if mj = .ldt then (.ok (heard f (p.wr32 f.d (s.spotNat x n)) ea n), s)
          else (.ok (heard f [] ea n), s.spotWrite x (bytesOf n o.b.toNat))) os Perf.none s

/-! ### Atomics (R287 to R290) -/

/-- An atomic lane at its aligned spot: `g` gives the new value and the register writes from the old one. -/
def atomicLane (p : Path) (mj : Major) (f : LForm) (n : Nat) (g : LaneOp → Nat → Nat × List RegWrite) (s : State)
    (o : LaneOp) : Except Stop LaneDone × State :=
  let ea := eaOf mj f o.a.toNat
  if ea % n != 0 then (.error (misatomic ea n .atomic), s)
  else match p.spot s o.lane f.space ea n .atomic false with
  | (.error e, s) => (.error e, s)
  | (.ok x, s) =>
    let (m, ws) := g o (s.spotNat x n)
    (.ok (heard f ws ea n), s.spotWrite x (bytesOf n m))

/-- Lanes that act location by location, each on the value the one before left (R287). -/
def perPlace (ea : LaneOp → Nat) (g : State → LaneOp → Except Stop LaneDone × State) (os : List LaneOp) (s : State) :
    Perf × State :=
  let (r, s) := perLane g (byPlace ea os) Perf.none s
  (r.inOrder os, s)

/-- ATOM. -/
def State.performAtom (s : State) (p : Path) (f : LForm) (os : List LaneOp) : Perf × State :=
  perPlace (fun o => eaOf .atom f o.a.toNat) (atomicLane p .atom f (tyWidth f.ty / 8) fun o m =>
    (atomNew (f.low5 % 16) f.ty m o.b.toNat, if bitAt f.f.toNat 4 then [] else p.wr f.d f.ty (m : Int))) os s

/-- A CAS lane. One that fails only reads (R257): what it may do is checked as for an atomic, and its translation sets no D. -/
def casLane (p : Path) (f : LForm) (s : State) (o : LaneOp) : Except Stop LaneDone × State :=
  let n := tyWidth f.ty / 8
  let ea := eaOf .cas f o.a.toNat
  let write := atomicLane p .cas f n (fun o m => (ratomNew 8 f.ty m o.b.toNat o.c.toNat, p.wr f.d f.ty (m : Int))) s o
  if ea % n != 0 then write
  else match p.spot s o.lane f.space ea n .atomic false with
  | (.error _, _) => write
  | (.ok x, t) =>
    let m := t.spotNat x n
    if m = o.b.toNat % 2 ^ tyWidth f.ty then write
    else (.ok (heard f (p.wr f.d f.ty (m : Int)) ea n), (p.spot s o.lane f.space ea n .read false).2)

/-- CAS. -/
def State.performCas (s : State) (p : Path) (f : LForm) (os : List LaneOp) : Perf × State :=
  perPlace (fun o => eaOf .cas f o.a.toNat) (casLane p f) os s

/-- The addition of SCADD (R289). -/
def scAdd (t : Ty) (x y : Nat) : Nat := if t = .f32 then fadd32 x y else (x + y) % 2 ^ 32

/-- SCADD: addends of one location, a distinct address of the space, summed first, in lane order (R289). -/
def State.performScadd (s : State) (p : Path) (f : LForm) (os : List LaneOp) : Perf × State :=
  let (r, spots, s) := os.foldl (fun (a : Perf × List (Nat × Spot × Nat) × State) o =>
    let (r, spots, s) := a
    let ea := eaOf .scadd f o.a.toNat
    let x := o.b.toNat % 2 ^ 32
    if ea % 4 != 0 then (r.add o.lane (.error (misatomic ea 4 .atomic)), spots, s)
    else match p.spot s o.lane f.space ea 4 .atomic false with
    | (.error e, s) => (r.add o.lane (.error e), spots, s)
    | (.ok sp, s) =>
      let spots := if spots.any fun e => e.1 == ea then
          spots.map fun e => if e.1 == ea then (ea, e.2.1, scAdd f.ty e.2.2 x) else e
        else spots ++ [(ea, sp, x)]
      (r.add o.lane (.ok (heard f [] ea 4)), spots, s)) (Perf.none, [], s)
  (r, spots.foldl (fun s e => s.spotWrite e.2.1 (bytesOf 4 (scAdd f.ty (s.spotNat e.2.1 4) e.2.2))) s)

/-! ### Atomic regions -/

/-- ALB: the line is checked as for an atomic and the region opens (R292). -/
def albLane (p : Path) (f : LForm) (pc : DWord) (s : State) (o : LaneOp) : Except Stop LaneDone × State :=
  let line := eaOf .alb f o.a.toNat / 128 * 128
  match p.place s o.lane line .atomic false with
  | (.ok (.mem pa), s) =>
    (.ok (quiet []), s.setRegion p o.lane (some { line := BitVec.ofNat 64 line, pa := pa, alb := pc, recs := [], held := []
                                                  accesses := 0, instrs := 0, stale := none }))
  | (.error e, s) => (.error e, s)
  | (.ok _, s) => (.ok (quiet []), s)

/-- The first byte of a region's accesses that meets an uncorrectable error at its home, with the subcode (R18, R21). A stale region
makes no access any more. -/
def State.regionEcc (s : State) (r : Region) : Option (Nat × Nat) :=
  if r.stale.isSome then none
  else (r.recs.map (fun e => (e.1, true)) ++ r.held.map fun e => (e.1, false)).findSome? fun e =>
    (s.eccSub (r.pa + (e.1 - r.line.toNat)) 1 e.2).map fun sub => (e.1, sub)

/-- ALE of one lane: commits if every recorded byte still holds its value and no invalidation came between (R294). -/
def aleLane (p : Path) (f : LForm) (s : State) (o : LaneOp) : Except Stop LaneDone × State :=
  match (p.reload s).region o.lane with
  | none => (.ok (quiet []), s)
  | some r =>
    match s.regionEcc r with
    | some (ea, sub) => (.error (.cause { code := cEcc, sub := sub, va := ea, lvl := 0, acc := 2 }), s)
    | none =>
    let at_ := fun a => r.pa + (a - r.line.toNat)
    let good := r.stale.isNone && r.recs.all fun e => cellGet (w := 8) s.mem (at_ e.1) == e.2
    let mem := if good then r.held.foldl (fun m e => cellSet (w := 8) m (at_ e.1) e.2) s.mem else s.mem
    (.ok (quiet (wrPred f.d good)), { s with mem := mem }.setRegion p o.lane none)

/-! ### Level objects (Table 10-5, R298 to R300) -/

def lvTarget (o : Nat) : Nat := bitsAt o 31 0
def lvFill (o : Nat) : Nat := bitsAt o 63 32
def lvPhc (o : Nat) : Nat := bitsAt o 95 64
def lvMode (o : Nat) : Bool := bitAt o 96

/-- An object whose arrivals fail (R299). -/
def lvBad (o : Nat) : Bool := lvTarget o == 0 || decide (lvTarget o ≤ lvFill o)

/-- The object after n arrivals: every phase they complete counts (R299). -/
def lvArrive (o n : Nat) : Nat :=
  let f := lvFill o + n
  o / 2 ^ 96 * 2 ^ 96 + (lvPhc o + f / lvTarget o) % 2 ^ 32 * 2 ^ 64 + f % lvTarget o * 2 ^ 32 + lvTarget o

/-- LEVEL_BOUNDS at an object. -/
def levelBounds (ea : Nat) (acc : Acc) : Cause := { code := cLevel, sub := 0, va := ea, lvl := 0, acc := acc.code }

/-- LVINIT (R298): a store, which asks for W and no right of an atomic (log 164, DEDUCED). -/
def lvinitLane (p : Path) (f : LForm) (s : State) (o : LaneOp) : Except Stop LaneDone × State :=
  let ea := eaOf .lvinit f o.a.toNat
  if ea % 16 != 0 then (.error (misatomic ea 16 .write), s)
  else match p.spot s o.lane 0 ea 16 .write false with
  | (.error e, s) => (.error e, s)
  | (.ok x, s) =>
    let v := o.b.toNat % 2 ^ 32 + lvPhc (s.spotNat x 16) * 2 ^ 64 + f.f.toNat % 2 * 2 ^ 96
    (.ok (heard f [] ea 16), s.spotWrite x (bytesOf 16 v))

/-- LVINIT of a path: a target of 0 raises LEVEL_BOUNDS and writes nothing (R298). -/
def State.performLvinit (s : State) (p : Path) (f : LForm) (os : List LaneOp) : Perf × State :=
  match os.find? fun o => o.b.toNat % 2 ^ 32 == 0 with
  | some o => ({ Perf.none with fatal := some (levelBounds (eaOf .lvinit f o.a.toNat) .write) }, s)
  | none => perLane (lvinitLane p f) os Perf.none s

/-- LVARV (R299): object by object, its lanes in lane order; objects that fail raise LEVEL_BOUNDS at the end. -/
def State.performLvarv (s : State) (p : Path) (f : LForm) (os : List LaneOp) : Perf × State :=
  let (r, bad, s) := (byPlace (fun o => eaOf .lvarv f o.a.toNat) os).foldl (fun (a : Perf × List Nat × State) o =>
    let (r, bad, s) := a
    let ea := eaOf .lvarv f o.a.toNat
    if ea % 16 != 0 then (r.add o.lane (.error (misatomic ea 16 .atomic)), bad, s)
    else match p.spot s o.lane 0 ea 16 .atomic false with
    | (.error e, s) => (r.add o.lane (.error e), bad, s)
    | (.ok x, s) =>
      let v := s.spotNat x 16
      if bad.contains ea || lvBad v then (r, bad ++ [ea], s)
      else (r.add o.lane (.ok (heard f (p.wr32 f.d (lvPhc v)) ea 16)),
            bad, s.spotWrite x (bytesOf 16 (lvArrive v (o.b.toNat % 2 ^ 32))))) (Perf.none, [], s)
  ({ r.inOrder os with fatal := bad.head?.map fun ea => levelBounds ea .atomic }, s)

/-- LVWAIT (R300): passes when every lane's object differs, otherwise the path waits. -/
def State.performLvwait (s : State) (p : Path) (f : LForm) (req : MemReq) : Perf × State :=
  let (r, bad, far, s) := req.lanes.foldl (fun (a : Perf × List Nat × List (LaneOp × Nat × Bool) × State) o =>
    let (r, bad, far, s) := a
    let ea := eaOf .lvwait f o.a.toNat
    if ea % 16 != 0 then (r.add o.lane (.error (misatomic ea 16 .read)), bad, far, s)
    else match p.spot s o.lane 0 ea 16 .read false with
    | (.error e, s) => (r.add o.lane (.error e), bad, far, s)
    | (.ok x, s) =>
      let v := s.spotNat x 16
      if lvTarget v = 0 then (r, bad ++ [ea], far, s)
      else (r, bad, far ++ [(o, ea, lvPhc v != o.b.toNat % 2 ^ 32)], s)) (Perf.none, [], [], s)
  let mask := maskOfLanes (far.map (·.1.lane))
  match bad with
  | ea :: _ => ({ r with fatal := some (levelBounds ea .read) }, s)
  | [] =>
    if far.all (·.2.2) then (far.foldl (fun (r : Perf) e => r.add e.1.lane (.ok (heard f [] e.2.1 16))) r, s)
    else
      let path := maskOfLanes (p.lanes.filter fun l => !r.fail.any fun e => e.1 == l)
      ({ r with wait := far.map fun e =>
        (e.1.lane, .level (BitVec.ofNat 64 e.2.1) (BitVec.ofNat 32 e.1.b.toNat) mask path req.len) }, s)

/-! ### Superstep barriers (R301, R302) -/

/-- A fabric barrier that the partition's FABRIC bit denies, which is decided before anything else (R302). -/
def State.fabDenied (s : State) (p : Path) (fab : Bool) : Bool :=
  fab && !(match s.part? p.w.id.pid with | some q => q.fabric | none => false)

/-- The arrival and wait of SSTEP, once the thread's engine operations have completed. A device's own last arrival on a
fabric object goes to the counter group instead. -/
def State.performSstep (s : State) (p : Path) (fab : Bool) (f : LForm) (os : List LaneOp) : Perf × State :=
  match os with
  | [] => (Perf.none, s)
  | o :: _ =>
    let ea := eaOf .sstep f o.a.toNat
    let part := s.part? p.w.id.pid
    if s.fabDenied p fab then
      (Perf.none.add 0 (.error (.cause { code := cPermission, sub := 6, va := ea, lvl := 0, acc := 2 })), s)
    else if ea % 16 != 0 then (Perf.none.add 0 (.error (misatomic ea 16 .atomic)), s)
    else match p.spot s 0 0 ea 16 .atomic false with
    | (.error e, s) => (Perf.none.add 0 (.error e), s)
    | (.ok x, s) =>
      let v := s.spotNat x 16
      if lvMode v || lvBad v then ({ Perf.none with fatal := some (levelBounds ea .atomic) }, s)
      else
        let last := decide (lvTarget v ≤ lvFill v + 1)
        let wait : Wait := .sstep (BitVec.ofNat 64 ea) (BitVec.ofNat 32 (lvPhc v))
        if fab && last then
          let g := match part with | some q => q.fabKey p.w.id.pid | none => 0
          let s := s.spotWrite x (bytesOf 16 (v - lvFill v * 2 ^ 32))
          let grp := s.fabGroup g
          let s := s.setFabGroup g { grp with waiting := grp.waiting ++ [(p.w.id.pid, p.w.id.ctx, BitVec.ofNat 64 ea)] }
          ({ Perf.none with wait := [(0, wait)] },
            { s with fabric := { s.fabric with counterTx := s.fabric.counterTx ++ [(g, s.fabric.devId)] } })
        else
          let s := s.spotWrite x (bytesOf 16 (lvArrive v 1))
          if last then (Perf.none.add 0 (.ok (heard f [] ea 16)), s)
          else ({ Perf.none with wait := [(0, wait)] }, s)

/-! ### DISCARD (R309) -/

/-- Pages of a range, each 4 KiB in turn; `skip` counts the rest of a page already handled. A page marked takes DISC and is
written with zeros for every other way to its bytes (R272), whose leaves stay (log 135, DEDUCED). The pages marked, address and size, or NO_WRITE at the page where
it arises. -/
def State.discardFrom (s : State) (who : Who) (l4 : Nat) : Nat → Nat → Nat → List (Nat × Nat) → Except Nat (List (Nat × Nat)) × State
  | 0, _, _, d => (.ok d, s)
  | n + 1, skip, va, d =>
    if skip != 0 then s.discardFrom who l4 n (skip - 1) (va + 4096) d
    else match (if va < 2 ^ 57 then s.walk va l4 4 else .error (cTranslation, 3, 0)) with
    | .error _ => s.discardFrom who l4 n 0 (va + 4096) d
    | .ok l =>
      let pages := l.size / 4096
      if 2 ≤ l.tier then s.discardFrom who l4 n 0 (va + 4096) d
      else if va % l.size != 0 || decide (n + 1 < pages) then s.discardFrom who l4 n 0 (va + 4096) d
      else if !l.w then (.error va, s)
      else
        let s := if l.repl then
            let c : Collapse := { die := who.die, pid := who.pid, asid := s.asidOf who.pid who.ctx
                                  va := BitVec.ofNat 64 va, pte := l.pte }
            (s.startCollapse who va l.pte).finishCollapse c
          else s
        let e := s.phys l.pte 8
        let s := if bitAt e 10 then s
          else
            let s := { s with mem := cellClear (w := 8) s.mem l.frame (l.frame + l.size) }
            (s.setPhys l.pte 8 (e + 2 ^ 10)).invalidate who.pid (s.asidOf who.pid who.ctx) va l.size
        s.discardFrom who l4 n (pages - 1) (va + 4096) (if bitAt e 10 then d else d ++ [(va, l.size)])

/-- DISCARD. Its write of zero to each page that it marks is watched (R272, R399; log 122, DEDUCED). -/
def State.performDiscard (s : State) (p : Path) (f : LForm) (os : List LaneOp) : Perf × State :=
  match os with
  | [] => (Perf.none, s)
  | o :: _ =>
    let ea := eaOf .discard f o.a.toNat
    let len := o.b.toNat % 2 ^ 64
    if ea % 4096 != 0 || len % 4096 != 0 then (Perf.none.add 0 (.error (misaligned ea .write)), s)
    else
      let l4 := match s.ctx? p.w.id.pid p.w.id.ctx with | some c => c.l4base | none => 0
      match s.discardFrom p.who l4 (min (len / 4096) (2 ^ 45)) 0 ea [] with
      | (.error va, s) =>
        (Perf.none.add 0 (.error (.cause { code := cPermission, sub := 2, va := va, lvl := 0, acc := 1 })), s)
      | (.ok d, s) => ({ Perf.none with done := [(0, p.wr64 f.d d.length)], seen := d.map fun e => (0, e.1, e.2) }, s)

/-! ### SYS.TDSET (R381) -/

/-- n bytes at a global address, read with the thread's rights, 16 at a time. -/
def Path.readBytes (p : Path) (s : State) (ea : Nat) : Nat → Except Stop (List Byte) × State
  | 0 => (.ok [], s)
  | n + 1 =>
    match p.spot s 0 0 ea 16 .read false with
    | (.error e, s) => (.error e, s)
    | (.ok x, s) =>
      let bs := s.spotRead x 16
      match p.readBytes s (ea + 16) n with
      | (.error e, s) => (.error e, s)
      | (.ok r, s) => (.ok (bs ++ r), s)

/-- The entry is written and its copies leave every descriptor cache of the partition. -/
def State.performTdset (s : State) (p : Path) (f : LForm) (os : List LaneOp) : Perf × State :=
  match os with
  | [] => (Perf.none, s)
  | o :: _ =>
    let ea := o.a.toNat
    if ea % 16 != 0 then (Perf.none.add 0 (.error (misaligned ea .read)), s)
    else match p.readBytes s ea 16 with
    | (.error e, s) => (Perf.none.add 0 (.error e), s)
    | (.ok bs, s) =>
      let pid := p.w.id.pid
      let key := pid * 65536 + descOf f
      let s := s.modPart pid fun q => { q with descs := tabSet q.descs (descOf f) (BitVec.ofNat 2048 (ofBytes bs)) }
      let s := { s with cores := s.cores.map fun e => (e.1, { e.2 with dcache := e.2.dcache.filter fun d => d.id != key }) }
      (Perf.none.add 0 (.ok { ws := [], ea := ea, n := 256 }), s)

/-! ### Every memory instruction -/

/-- The access kind of a major, for records and the watch. -/
def accOf : Major → Acc
  | .ld | .ldt | .ldnr | .rld | .lvwait | .sys => .read
  | .st | .stt | .rst | .lvinit | .publish | .discard => .write
  | _ => .atomic

/-- A request's instruction acts with its held operands. -/
def State.perform (s : State) (p : Path) (mj : Major) (f : LForm) (req : MemReq) : Perf × State :=
  match mj with
  | .ld | .st => s.performLdSt p mj f req.lanes
  | .ldt | .stt => s.performTensor p mj f req.lanes
  | .ldnr => perLane (ldnrLane p f) req.lanes Perf.none s
  | .atom => s.performAtom p f req.lanes
  | .cas => s.performCas p f req.lanes
  | .scadd => s.performScadd p f req.lanes
  | .alb => perLane (albLane p f req.pc) req.lanes Perf.none s
  | .ale => perLane (aleLane p f) req.lanes Perf.none s
  | .lvinit => s.performLvinit p f req.lanes
  | .lvarv => s.performLvarv p f req.lanes
  | .lvwait => s.performLvwait p f req
  | .sstep => s.performSstep p (f.s == 3) f req.lanes
  | .discard => s.performDiscard p f req.lanes
  | .publish => perLane (storeLane p .publish f 8) req.lanes Perf.none s
  | .sys => s.performTdset p f req.lanes
  | .rld | .rst | .ratom => s.performRemote p mj f req
  | _ => (Perf.none, s)

/-- The local loads of Table 5-8. -/
def isLoad (mj : Major) : Bool := mj == .ld || mj == .ldt || mj == .ldnr

/-- The lanes whose local load changes nothing, so that it may be made again (R145): not a pop, and not in a region, which
starts again as a whole. -/
def Path.reloads (p : Path) (mj : Major) (f : LForm) (os : List LaneOp) : List Nat :=
  if isLoad mj then
    (os.filter fun o => (p.region o.lane).isNone && !(fifoLanes p.w mj f 0 [o] ++ fifoLanes p.w mj f 1 [o]).contains o).map (·.lane)
  else []

/-- The accesses of a request and their end (R79), remote messages sent as slots allow (R306). -/
def Path.act (p : Path) (s : State) (mj : Major) (f : LForm) (req : MemReq) (ls : List Nat) (x : Perf × State) : State :=
  let s := p.finish x.2 req (accOf mj) ((p.reload s).reloads mj f req.lanes) ls x.1
  match mj with
  | .rld | .rst | .ratom => s.serveSlots
  | _ => s

/-- An issue: the operands are held, the accesses made, and the end is that of R79. A path that would be suspended
while its group already is issues later (log 19, DEDUCED), and a remote access follows an earlier one of its thread to the
same line (R256, R277). -/
def memOp (i : Instr) (mj : Major) (f : LForm) (s : State) : Res :=
  match s.path? with
  | none => .fault .noThread
  | some (p, s) =>
    let req := p.gather i mj f
    if fifoBlocked p.w mj f req.lanes || s.remoteClash p mj f req.lanes then s.hold
    else
      let x := s.perform p mj f req
      if p.suspended && (!x.1.fail.isEmpty || x.1.fatal.isSome) then s.hold
      else .next (p.act s mj f req p.lanes x)

/-- A replay: the same for the pending lanes, with the operands they held (R84). -/
def Path.replay (p : Path) (s : State) (req : MemReq) : State :=
  match coded req.i with
  | none => s
  | some (mj, _, f) => p.act s mj f req (req.lanes.map (·.lane)) (s.perform p mj f req)

end Sys2Proof.Machine
end

