-- ==== Sys2Proof/Machine/Engines.lean ====
section
/-! DEFINITION. What the engines share: their accesses and faults (R80, R364), tensor elements with block scales (R312, R318),
arrivals on level objects (R299), reader counts (R116), and statistics with their flushes (R333 to R335). -/

namespace Sys2Proof.Machine

/-! ### Accesses -/

/-- An engine's access for an operation of a workgroup to a space. -/
def State.engSpot (s : State) (w : WgId) (sp : Bool) (ea n : Nat) (acc : Acc) : Except Stop Spot × State :=
  if sp then
    (match s.wg? w.core w.slot with | some x => spSpot x ea n acc | none => .error (deny ea acc), s)
  else
    let (r, _, s) := s.gSpot { pid := w.pid, ctx := w.ctx, die := dieOf w.core } none ea n acc false
    (r, s)

/-- The parts of n bytes that lie in one 128-byte line each: an engine's element need not be aligned, and its parts may lie
in two pages. -/
def lineParts (ea n : Nat) : List (Nat × Nat) :=
  let k := 128 - ea % 128
  if n ≤ k then [(ea, n)] else [(ea, k), (ea + k, n - k)]

/-- The parts of an access to a space. -/
def partsOf (sp : Bool) (ea n : Nat) : List (Nat × Nat) := if sp then [(ea, n)] else lineParts ea n

/-- The spots of the parts of an access, each found by `at_`, with its length. -/
def State.spotsOf (s : State) (at_ : State → Nat → Nat → Except Stop Spot × State) :
    List (Nat × Nat) → Except Stop (List (Spot × Nat)) × State
  | [] => (.ok [], s)
  | (a, k) :: r =>
    match at_ s a k with
    | (.error e, s) => (.error e, s)
    | (.ok x, s) => match s.spotsOf at_ r with
      | (.error e, s) => (.error e, s)
      | (.ok xs, s) => (.ok ((x, k) :: xs), s)

/-- The spots of the parts of an engine's access; none is accessed when one stops. -/
def State.engSpots (s : State) (w : WgId) (sp : Bool) (ea n : Nat) (acc : Acc) : Except Stop (List (Spot × Nat)) × State :=
  s.spotsOf (fun s a k => s.engSpot w sp a k acc) (partsOf sp ea n)

/-- The bytes at the spots of an access. -/
def State.spotsRead (s : State) (xs : List (Spot × Nat)) : List Byte := xs.flatMap fun e => s.spotRead e.1 e.2

/-- Bytes written at the spots of an access. -/
def State.spotsWrite (s : State) : List (Spot × Nat) → List Byte → State
  | [], _ => s
  | (x, k) :: r, bs => (s.spotWrite x (bs.take k)).spotsWrite r (bs.drop k)

/-- An engine read of n bytes. -/
def State.engRead (s : State) (w : WgId) (sp : Bool) (ea n : Nat) : Except Stop (List Byte) × State :=
  match s.engSpots w sp ea n .read with
  | (.error e, s) => (.error e, s)
  | (.ok xs, s) => (.ok (s.spotsRead xs), s)

/-- An engine write. -/
def State.engWrite (s : State) (w : WgId) (sp : Bool) (ea : Nat) (bs : List Byte) : Except Stop Unit × State :=
  match s.engSpots w sp ea bs.length .write with
  | (.error e, s) => (.error e, s)
  | (.ok xs, s) => (.ok (), s.spotsWrite xs bs)

/-- Whether a scratchpad range lies in the allocation and outside enabled FIFO segments (R363 item 4). -/
def Wg.rangeOk (w : Wg) (off n : Nat) : Bool :=
  decide (off + n ≤ 4096 * w.id.scr) &&
    (n == 0 || (List.range ((off + n - 1) / 65536 - off / 65536 + 1)).all fun k => (w.fifoAt (off + 65536 * k)).isNone)

/-! ### Elements -/

/-- The bits of an element, its nibble for 4-bit formats (R312). -/
def State.elementBits (s : State) (w : WgId) (d : Desc) (cs : List Nat) : Except Stop Nat × State :=
  match d.addrOf d.sp cs with
  | none => (.error (descStop cDescBounds (d.id % 65536) .read), s)
  | some ea =>
    match s.engRead w d.sp ea (max 1 (d.ew / 8)) with
    | (.error e, s) => (.error e, s)
    | (.ok bs, s) => (.ok (if d.ew = 4 then ofBytes bs / 16 ^ (nthD 0 cs 0 % 2) % 16 else ofBytes bs), s)

/-- The scale byte of an element's block; 127 for formats without one (R318). -/
def State.scaleByte (s : State) (w : WgId) (d : Desc) (cs : List Nat) : Except Stop Nat × State :=
  if fmtBlock d.fmt then
    match s.engRead w d.sp (d.scaleAddr cs) 1 with
    | (.error e, s) => (.error e, s)
    | (.ok bs, s) => (.ok (ofBytes bs), s)
  else (.ok 127, s)

/-- Decode of an element with its block scale and codebook (R319, R320). -/
def Desc.decode (d : Desc) (scale bits : Nat) : XVal := (decodeEl (fmtBase d.fmt) d.cb bits).scale (scaleExp scale)

/-- The value of the element at coordinates after WRAP. -/
def State.elementVal (s : State) (w : WgId) (d : Desc) (cs : List Nat) : Except Stop XVal × State :=
  match s.elementBits w d cs with
  | (.error e, s) => (.error e, s)
  | (.ok b, s) =>
    match s.scaleByte w d cs with
    | (.error e, s) => (.error e, s)
    | (.ok x, s) => (.ok (d.decode x b), s)

/-- Writes the bits of an element; a nibble is one read-modify-write of its byte (R312). -/
def State.setElementBits (s : State) (w : WgId) (d : Desc) (cs : List Nat) (x : Nat) : Except Stop Unit × State :=
  match d.addrOf d.sp cs with
  | none => (.error (descStop cDescBounds (d.id % 65536) .write), s)
  | some ea =>
    let n := max 1 (d.ew / 8)
    match s.engSpots w d.sp ea n .write with
    | (.error e, s) => (.error e, s)
    | (.ok xs, s) =>
      if d.ew = 4 then
        let old := ofBytes (s.spotsRead xs)
        let k := 16 ^ (nthD 0 cs 0 % 2)
        (.ok (), s.spotsWrite xs (bytesOf 1 (old - old / k % 16 * k + x % 16 * k)))
      else (.ok (), s.spotsWrite xs (bytesOf n x))

/-- Values of a list of elements. -/
def State.elementVals (s : State) (w : WgId) (d : Desc) : List (List Nat) → Except Stop (List XVal) × State
  | [] => (.ok [], s)
  | cs :: r =>
    match s.elementVal w d cs with
    | (.error e, s) => (.error e, s)
    | (.ok v, s) =>
      match s.elementVals w d r with
      | (.error e, s) => (.error e, s)
      | (.ok vs, s) => (.ok (v :: vs), s)

/-- The bits of a list of elements are written in order. -/
def State.setElements (s : State) (w : WgId) (d : Desc) : List (List Nat × Nat) → Except Stop Unit × State
  | [] => (.ok (), s)
  | e :: r =>
    match s.setElementBits w d e.1 e.2 with
    | (.error x, s) => (.error x, s)
    | (.ok _, s) => s.setElements w d r

/-! ### Arrivals -/

/-- An engine's arrival of count n in BYTES mode, 1 in ARR mode; an object that cannot take it abandons it with a
record (R299). -/
def State.engArrive (s : State) (w : WgId) (ea n : Nat) : Except Stop Unit × State :=
  match s.engSpot w false ea 16 .atomic with
  | (.error e, s) => (.error e, s)
  | (.ok x, s) =>
    let v := s.spotNat x 16
    if lvBad v then (.ok (), s.post w (levelBounds ea .atomic) 0)
    else (.ok (), s.spotWrite x (bytesOf 16 (lvArrive v (if lvMode v then n else 1))))

/-! ### Operations in flight (R116, R157) -/

/-- One more operation of the workgroup in flight. It holds a reader count when its thread is in a section. -/
def Path.startOp (p : Path) (s : State) : Option Nat × State :=
  let par := if p.w.ctl.rdepth = 0 then none else some p.w.ctl.rpar
  let s := s.modWg p.w.id.core p.w.id.slot fun w => { w with engOps := w.engOps + 1 }
  (par, match par with | some q => s.modCore p.w.id.core fun c => c.addCount q 1 | none => s)

/-- Whether the count of R116 would pass 4,095 (R390). -/
def Path.countFull (p : Path) (s : State) : Bool :=
  p.w.ctl.rdepth != 0 && decide (4095 ≤ (s.core p.w.id.core).count p.w.ctl.rpar)

/-- An operation has ended. -/
def State.endOp (s : State) (core slot : Nat) (par : Option Nat) : State :=
  let s := s.modWg core slot fun w => { w with engOps := w.engOps - 1 }
  match par with | some q => s.modCore core fun c => c.addCount q (-1) | none => s

/-- What an engine waits for when an access stops it: its record, the collapse it starts, or a BUSY page. -/
def State.engStop (s : State) (w : WgId) (srck : Nat) (st : Stop) : Susp × State :=
  match st with
  | .cause c => let (n, s) := s.deliver w c 0 0 0 srck none; (.fault n, s)
  | .collapse va pte =>
    (.collapse (BitVec.ofNat 64 va), s.startCollapse { pid := w.pid, ctx := w.ctx, die := dieOf w.core } va pte)
  | .busy va => (.busy (BitVec.ofNat 64 va), s)

/-- Whether a page is still BUSY. -/
def State.pageBusy (s : State) (pid ctx va : Nat) : Bool :=
  match (s.ctx? pid ctx).map fun c => s.walk va c.l4base 4 with
  | some (.ok l) => l.busy
  | _ => false

/-- A stopped engine that may go on: its collapse is carried out, or its page is no longer BUSY. None while it waits
for a record or for accesses that its collapse waits for. -/
def State.engResume (s : State) (w : WgId) (st : Susp) : Option State :=
  match st with
  | .none | .replay => some s
  | .fault _ => none
  | .collapse va =>
    match s.collapseOf w.pid w.ctx va with
    | some c => if s.collapseDue c then some (s.finishCollapse c) else none
    | none => some s
  | .busy va => if s.pageBusy w.pid w.ctx va.toNat then none else some s

/-! ### Statistics (R333 to R335) -/

/-- A 32-bit count added with saturation. -/
def satAdd32 (a b : Nat) : Nat := min (a + b) (2 ^ 32 - 1)

/-- A flush: one read-modify-write of bytes 0 to 11, or a record when it cannot be made (R334, R335). -/
def State.flushStat (s : State) (w : WgId) (x : StatCount) : State :=
  let ea := x.addr.toNat
  if x.sat = 0 ∧ x.ftz = 0 ∧ x.nan = 0 then s
  else if ea % 16 != 0 then s.post w { code := cMisaligned, sub := 0, va := ea, lvl := 0, acc := 2 } 0
  else match s.agentUpdate { pid := w.pid, ctx := w.ctx, die := dieOf w.core } ea 12 (fun o =>
      satAdd32 (bitsAt o 31 0) x.sat + satAdd32 (bitsAt o 63 32) x.ftz * 2 ^ 32 + satAdd32 (bitsAt o 95 64) x.nan * 2 ^ 64) with
    | (.ok _, s) => s
    | (.error c, s) => s.post w c 0

/-- Counts of an encode made on a descriptor's behalf. A seventeenth descriptor ID first flushes the least recently used; an
ID whose block has moved is flushed to where it was. -/
def State.countStats (s : State) (core slot : Nat) (d : Desc) (c : Counts) : State :=
  if d.stata = 0 then s
  else match s.wg? core slot with
  | none => s
  | some w =>
    let addr := BitVec.ofNat 64 d.stata
    let old := w.stats.find? fun x => x.id == d.id
    let rest := w.stats.filter fun x => x.id != d.id
    let (o, moved) := match old with
      | some x => if x.addr = addr then (x, none) else ({ id := d.id, addr := addr, sat := 0, ftz := 0, nan := 0 }, some x)
      | none => ({ id := d.id, addr := addr, sat := 0, ftz := 0, nan := 0 }, none)
    let new := { o with sat := o.sat + c.sat, ftz := o.ftz + c.ftz, nan := o.nan + c.nan }
    let s := match moved, rest.drop 15 with
      | some x, _ => s.flushStat w.id x
      | none, x :: _ => s.flushStat w.id x
      | none, [] => s
    s.modWg core slot fun w => { w with stats := new :: rest.take 15 }

/-- Every count of a workgroup is flushed (R334). -/
def State.flushStats (s : State) (core slot : Nat) : State :=
  match s.wg? core slot with
  | none => s
  | some w => (w.stats.foldl (fun s x => s.flushStat w.id x) s).modWg core slot fun w => { w with stats := [] }

end Sys2Proof.Machine
end

