-- ==== Sys2Proof/Machine/Copy.lean ====
section
/-! DEFINITION. Copies (R382 to R387): CPY and CPYG, what the copy engine does with them, and their arrivals. A transfer
of a copy is one element, or a block of eight where the destination's block encoding needs them together (R329). -/

namespace Sys2Proof.Machine

/-! ### The command (Table 14-4) -/

def cmIdxa (c : BitVec 1024) : Nat := bitsAt c.toNat 959 896
def cmNdim (c : BitVec 1024) : Nat := bitsAt c.toNat 35 32
def cmBox (c : BitVec 1024) (j : Nat) : Nat := if j < cmNdim c then bitsAt c.toNat (32 * j + 671) (32 * j + 640) else 1
def cmDorg (c : BitVec 1024) (j : Nat) : Int :=
  if j < cmNdim c then sx 32 (bitsAt c.toNat (32 * j + 415) (32 * j + 384)) else 0
def cmSorg (c : BitVec 1024) (j : Nat) : Int :=
  if j < cmNdim c then sx 32 (bitsAt c.toNat (32 * j + 159) (32 * j + 128)) else 0
def cmLva (c : BitVec 1024) : Nat := bitsAt c.toNat 127 64
def cmIdim (c : BitVec 1024) : Nat := bitsAt c.toNat 46 44
def cmIdxsp (c : BitVec 1024) : Bool := bitAt c.toNat 42
def cmMcast (c : BitVec 1024) : Bool := bitAt c.toNat 41
def cmLv (c : BitVec 1024) : Bool := bitAt c.toNat 40
def cmMask (c : BitVec 1024) : Nat := bitsAt c.toNat 39 36
def cmDdesc (c : BitVec 1024) : Nat := bitsAt c.toNat 31 16
def cmSdesc (c : BitVec 1024) : Nat := bitsAt c.toNat 15 0

/-- A reserved bit of the command is set. -/
def cmReserved (c : BitVec 1024) : Bool :=
  bitsAt c.toNat 1023 960 != 0 || bitsAt c.toNat 63 47 != 0 || bitAt c.toNat 43

/-- The elements of the box. -/
def cmCount (c : BitVec 1024) : Nat := (List.range 8).foldl (fun n j => n * cmBox c j) 1

/-- Coordinate j of element e of the box; c0 varies fastest (R384). -/
def cmCoord (c : BitVec 1024) (e j : Nat) : Nat := e / ((List.range j).foldl (fun n i => n * cmBox c i) 1) % cmBox c j

/-- The destination coordinates of an element. -/
def cmDst (c : BitVec 1024) (e j : Nat) : Int := cmDorg c j + (cmCoord c e j : Int)

/-- The source coordinates of an element, the indexed dimension at `idx` in a gather. -/
def cmSrc (c : BitVec 1024) (gather : Bool) (e : Nat) (idx : Int) (j : Nat) : Int :=
  if gather && j == cmIdim c then idx else cmSorg c j + (cmCoord c e j : Int)

/-! ### The checks of R383 -/

/-- Plane-form formats. -/
def planeFmt (d : Desc) : Bool := decide (0x20 ≤ d.fmt)

/-- Item 2, for two descriptors that R380 accepts. -/
def copyRights (c : BitVec 1024) (sd dd : Desc) : Bool :=
  sd.rd && dd.wr && !planeFmt sd && !planeFmt dd && sd.fmtOk && dd.fmtOk
    && (sd.fmt == dd.fmt || (sd.fmt != 0x0A && dd.fmt != 0x0A && dd.fmt != 0x08)) && !(cmMcast c && !dd.sp)

/-- The multiples that BOX0 and an origin must be for a descriptor's format. -/
def copyGrain (d : Desc) : Nat := if fmtBlock d.fmt then 8 else if d.ew = 4 then 2 else 1

/-- Whether the index of a gather decides the address in a descriptor. -/
def indexed (c : BitVec 1024) (gather : Bool) (d : Desc) : Bool := gather && decide (cmIdim c < d.ndim)

/-- Item 3. An indexed source is checked on its other dimensions; its addresses are checked as it runs. -/
def copyBounds (c : BitVec 1024) (gather : Bool) (sd dd : Desc) : Bool :=
  let n := cmCount c
  (List.range 8).all (fun j => cmBox c j != 0) && decide (n ≤ 2 ^ 40)
    && cmBox c 0 % copyGrain sd == 0 && cmBox c 0 % copyGrain dd == 0
    && cmSorg c 0 % (copyGrain sd : Int) == 0 && cmDorg c 0 % (copyGrain dd : Int) == 0
    && (List.range n).all (fun e =>
      ((dd.coords (cmDst c e)).bind fun cs => dd.addrOf dd.sp cs).isSome
        && match sd.coords (cmSrc c gather e 0) with
          | none => false
          | some cs => indexed c gather sd || (sd.addrOf sd.sp cs).isSome)

/-- Whether the n bytes of a destination element lie in the allocation, and all inside or all outside one enabled FIFO segment. -/
def Wg.copyDstOk (w : Wg) (ea n : Nat) : Bool :=
  decide (ea + n ≤ 4096 * w.id.scr) && w.fifoAt ea == w.fifoAt (ea + n - 1)

/-- The first address of a scratchpad range of a descriptor's elements that is not allowed: the elements of the box in turn,
each with the scale byte of its block. Only elements of a destination may lie in a FIFO segment (R172; for scale bytes log 110,
DEDUCED). -/
def Wg.copyBad (w : Wg) (src : Bool) (d : Desc) (n : Nat) (at_ : Nat → Option (List Nat)) : Option Nat :=
  if d.sp then (List.range n).findSome? fun e => (at_ e).bind fun cs => (d.addrOf d.sp cs).bind fun ea =>
    let k := max 1 (d.ew / 8)
    if !(if src then w.rangeOk ea k else w.copyDstOk ea k) then some ea
    else if fmtBlock d.fmt && !w.rangeOk (d.scaleAddr cs) 1 then some (d.scaleAddr cs)
    else none
  else none

/-- Items 4 and 5. -/
def copyRanges (w : Wg) (c : BitVec 1024) (gather : Bool) (sd dd : Desc) : Option Cause :=
  let n := cmCount c
  match (if indexed c gather sd then none else w.copyBad true sd n fun e => sd.coords (cmSrc c gather e 0)),
      w.copyBad false dd n fun e => dd.coords (cmDst c e) with
  | some ea, _ => some (Cause.mk cPermission 1 ea 0 0)
  | none, some ea => some (Cause.mk cPermission 2 ea 0 1)
  | none, none =>
    if gather && cmIdxsp c && !w.rangeOk (cmIdxa c) (4 * cmBox c (cmIdim c)) then some (Cause.mk cPermission 1 (cmIdxa c) 0 0)
    else if cmLv c && cmLva c % 16 != 0 then some (Cause.mk cMisaligned 0 (cmLva c) 0 2)
    else if gather && cmIdxa c % 4 != 0 then some (Cause.mk cMisaligned 0 (cmIdxa c) 0 0)
    else none

/-- R383: the first cause, or the two descriptors. -/
def State.copyCheck (s : State) (w : Wg) (c : BitVec 1024) (gather : Bool) : Except Cause (Desc × Desc) × State :=
  let dc := fun (code id : Nat) => Cause.mk code 0 id 0 0
  if cmReserved c || cmNdim c == 0 || decide (8 < cmNdim c) || (cmMcast c && (!w.id.quartet || cmMask c == 0)) then
    (.error (Cause.plain cIllegal), s)
  else
    let (sd?, s) := s.descriptor w.id.core w.id.pid (cmSdesc c)
    let (dd?, s) := s.descriptor w.id.core w.id.pid (cmDdesc c)
    match sd?, dd? with
    | some sd, some dd =>
      if !copyRights c sd dd then (.error (dc cDescRights (if sd.rd then cmDdesc c else cmSdesc c)), s)
      else if !copyBounds c gather sd dd then (.error (dc cDescBounds (cmSdesc c)), s)
      else match copyRanges w c gather sd dd with
        | some x => (.error x, s)
        | none => (.ok (sd, dd), s)
    | none, _ => (.error (dc cDescRights (cmSdesc c)), s)
    | _, none => (.error (dc cDescRights (cmDdesc c)), s)

/-- R382: the command's 128 bytes, or the cause of reading them. -/
def Wg.copyCommand (w : Wg) (off : Nat) : Except Cause (BitVec 1024) :=
  if off % 16 != 0 then .error (Cause.mk cMisaligned 0 off 0 0)
  else if !w.rangeOk off 128 then .error (Cause.mk cPermission 1 off 0 0)
  else .ok (BitVec.ofNat 1024 (ofBytes ((List.range 128).map fun i => cellGet w.scratch (off + i))))

/-- An issue of CPY or CPYG (R382, R383, R387). -/
def copyOp (gather : Bool) (f : LForm) (s : State) : Res :=
  match s.path? with
  | none => .fault .noThread
  | some (p, s) =>
    let mj := if gather then Major.cpyg else Major.cpy
    let n := codedLen false f
    if (p.active f.g).isEmpty then .next (p.retire s n [])
    else
      let off := wrapN 32 (((p.opA p.w.ctl mj f % 2 ^ 32 : Nat) : Int) + offOf mj f)
      match p.w.copyCommand off with
      | .error x => .next (p.raise s x false)
      | .ok c =>
        match s.copyCheck p.w c gather with
        | (.error x, s) => .next ((p.reload s).raise s x false)
        | (.ok (sd, dd), s) =>
          if decide (32 ≤ (s.core p.w.id.core).copies.length) || p.countFull s then s.hold
          else
            let (par, s) := p.startOp s
            let (tag, s) := s.tag
            let op : CopyOp := { tag := tag, slot := p.w.id.slot, pc := p.pc, gather := gather, cmd := c, src := sd, dst := dd
                                 next := 0, written := 0, arrived := 0, stop := .none, parity := par, half := 0, got := [] }
            let s := s.modCore p.w.id.core fun k => { k with copies := k.copies ++ [op] }
            .next ((p.reload s).retire s n [])

/-! ### What the engine does -/

/-- Why a transfer does not complete: a stop, or a wait for a response or for room in a FIFO. -/
inductive CopyHalt where
  | stop (x : Stop)
  | wait
  deriving DecidableEq, Repr

/-- A position in memory or scratchpad, or on another device through a TIER 3 leaf (R385). -/
def State.copySpot (s : State) (w : WgId) (sp : Bool) (ea n : Nat) (acc : Acc) : Except Stop Spot × State :=
  match s.engSpot w sp ea n acc with
  | (.error (.cause c), s') =>
    if !sp && c.code == cPermission && c.sub == 4 then
      let (r, _, s) := s.gSpot { pid := w.pid, ctx := w.ctx, die := dieOf w.core } none ea n acc true
      match r with
      | .ok (.remote dev pa) =>
        if dev = s.fabric.devId then
          match s.targetStatus dev w.pid pa n (acc == .read) with
          | 0 => (r, s)
          | k => (.error (.cause (statusCause k ea acc)), s)
        else (r, s)
      | _ => (r, s)
    else (.error (.cause c), s')
  | x => x

/-- A request of the copy engine, for bytes of one line (R88). -/
def State.copyRequest (s : State) (w : WgId) (op : CopyOp) (dev pa ea : Nat) (write : Bool) (n : Nat) (bs : List Byte) :
    State :=
  let (t, s) := s.tag
  let line := pa / 128 * 128
  let m : Msg := { dst := dev, src := s.fabric.devId, type := if write then .copyWrite else .rld, seq := 0, low := 0
                   spart := w.pid, len := n, opc := 0, retx := false, addr := pa
                   offs := (List.range n).map fun i => pa - line + i, data := bs }
  let r : Remote := { tag := t, msg := m, ctx := w.ctx, core := w.core, slot := w.slot, group := none, outTag := op.tag
                      lanes := [{ lane := 0, a := BitVec.ofNat 64 ea, b := 0, c := 0 }]
                      i := if write then .copyWrite else .rldRequest, pc := op.pc, sent := false, first := 0, last := 0
                      tries := 0, copy := some op.tag }
  { s with fabric := { s.fabric with out := s.fabric.out ++ [r] } }.serveSlots

/-- The bytes at a copy's spot: of this device's memory, or those a response has brought; a remote read asks for them and waits. -/
def State.copyBytes (s : State) (w : WgId) (op : CopyOp) (ea : Nat) (x : Spot) (n : Nat) : Except CopyHalt (List Byte) × State :=
  match x with
  | .remote dev pa =>
    if dev = s.fabric.devId then (.ok (memRead s.mem pa n), s)
    else match op.got.find? fun g => g.1 == dev && g.2.1 == pa && g.2.2.length == n with
      | some g => (.ok g.2.2, s)
      | none => (.error .wait, s.copyRequest w op dev pa ea false n [])
  | x => (.ok (s.spotRead x n), s)

/-- The bytes at the parts of an access, in order. -/
def State.copyParts (s : State) (w : WgId) (op : CopyOp) (ea : Nat) : List (Spot × Nat) → Except CopyHalt (List Byte) × State
  | [] => (.ok [], s)
  | (x, n) :: r =>
    match s.copyBytes w op ea x n with
    | (.error e, s) => (.error e, s)
    | (.ok bs, s) => match s.copyParts w op (ea + n) r with
      | (.error e, s) => (.error e, s)
      | (.ok cs, s) => (.ok (bs ++ cs), s)

/-- Reads n bytes. -/
def State.copyRead (s : State) (w : WgId) (op : CopyOp) (sp : Bool) (ea n : Nat) : Except CopyHalt (List Byte) × State :=
  match s.spotsOf (fun s a k => s.copySpot w sp a k .read) (partsOf sp ea n) with
  | (.error e, s) => (.error (.stop e), s)
  | (.ok xs, s) => s.copyParts w op ea xs

/-- Where one target takes the bytes of a transfer: the tail of a FIFO (R172), or the parts of an access. -/
inductive CopyPlace where
  | fifo (core slot k : Nat)
  | spots (xs : List (Spot × Nat))
  deriving DecidableEq, Repr

/-- The places of n bytes at every target; nothing is written when one stops. -/
def State.copyPlaces (s : State) (w : WgId) (op : CopyOp) (ea n : Nat) :
    List (Nat × Nat) → Except CopyHalt (List CopyPlace) × State
  | [] => (.ok [], s)
  | t :: ts =>
    let sp := op.dst.sp
    let (r, s) : Except CopyHalt CopyPlace × State :=
      match (if sp then (s.wg? t.1 t.2).bind fun x => x.fifoAt ea else none) with
      | some k => (.ok (.fifo t.1 t.2 k), s)
      | none =>
        match s.spotsOf (fun s a k => s.copySpot { w with core := t.1, slot := t.2 } sp a k .write) (partsOf sp ea n) with
        | (.error e, s) => (.error (.stop e), s)
        | (.ok xs, s) => (.ok (.spots xs), s)
    match r with
    | .error e => (.error e, s)
    | .ok x => match s.copyPlaces w op ea n ts with
      | (.error e, s) => (.error e, s)
      | (.ok xs, s) => (.ok (x :: xs), s)

/-- Writes at the parts of an access; another device is asked. -/
def State.copyStore (s : State) (w : WgId) (op : CopyOp) (ea : Nat) : List (Spot × Nat) → List Byte → State
  | [], _ => s
  | (x, n) :: r, bs =>
    let b := bs.take n
    let s := match x with
      | .remote dev pa => if dev = s.fabric.devId then s.targetWrite pa b else s.copyRequest w op dev pa ea true n b
      | x => s.spotWrite x b
    s.copyStore w op (ea + n) r (bs.drop n)

/-- Bytes taken at a FIFO's tail. -/
def State.fifoAppend (s : State) (core slot k : Nat) (bs : List Byte) : State :=
  s.modWg core slot fun x => x.setFifo k { x.fifo k with data := (x.fifo k).data ++ bs }

/-- Writes whole bytes at a place. -/
def State.copyPut (s : State) (w : WgId) (op : CopyOp) (ea : Nat) (bs : List Byte) (x : CopyPlace) : State :=
  match x with
  | .fifo core slot k => s.fifoAppend core slot k bs
  | .spots xs => s.copyStore w op ea xs bs

/-- Writes nibble k of a byte at a place: one read-modify-write (R312). A FIFO and another device take whole bytes: they take
the byte with its second nibble (log 110, DEDUCED). -/
def State.copyNibble (s : State) (w : WgId) (op : CopyOp) (ea k code : Nat) (x : CopyPlace) : State :=
  let put := fun (old : Nat) => bytesOf 1 (if k = 0 then old / 16 * 16 + code % 16 else old % 16 + code % 16 * 16)
  match x with
  | .spots [(.remote dev pa, 1)] =>
    if dev = s.fabric.devId then s.targetWrite pa (put (s.phys pa 1))
    else if k = 0 then s else s.copyPut w op ea (put op.half) x
  | .spots [(y, 1)] => s.spotWrite y (put (ofBytes (s.spotRead y 1)))
  | _ => if k = 0 then s else s.copyPut w op ea (put op.half) x

/-- The workgroups a copy writes for: its own, or the members of its quartet that MCMASK names (R385). -/
def State.copyTargets (s : State) (w : WgId) (c : BitVec 1024) : List (Nat × Nat) :=
  if cmMcast c then
    (s.wgs.filter fun e =>
      let x := e.2.id
      x.core / 4 == w.core / 4 && bitAt (cmMask c) (x.core % 4) && x.pid == w.pid && x.ctx == w.ctx && x.node == w.node
        && x.quartet && x.wgi / 4 == w.wgi / 4).map fun e => (e.2.id.core, e.2.id.slot)
  else [(w.core, w.slot)]

/-- The index of an element of a gather, read by the engine; none for 0xFFFF_FFFF (R384). -/
def State.copyIndex (s : State) (w : WgId) (op : CopyOp) (e : Nat) : Except CopyHalt (Option Int) × State :=
  if !op.gather then (.ok (some 0), s)
  else
    let c := op.cmd
    match s.engRead w (cmIdxsp c) (cmIdxa c + 4 * cmCoord c e (cmIdim c)) 4 with
    | (.error x, s) => (.error (.stop x), s)
    | (.ok bs, s) => (.ok (if ofBytes bs = 0xFFFFFFFF then none else some (sx 32 (ofBytes bs))), s)

/-- What one element's source gives: nothing for an absent row, else its bits and scale byte. -/
def State.copyElement (s : State) (w : WgId) (op : CopyOp) (e : Nat) : Except CopyHalt (Option (Nat × Nat)) × State :=
  let d := op.src
  match s.copyIndex w op e with
  | (.error x, s) => (.error x, s)
  | (.ok none, s) => (.ok none, s)
  | (.ok (some i), s) =>
    match (d.coords (cmSrc op.cmd op.gather e i)).bind fun cs => (d.addrOf d.sp cs).map fun ea => (cs, ea) with
    | none => (.error (.stop (descStop cDescBounds (d.id % 65536) .read)), s)
    | some (cs, ea) =>
      match s.copyRead w op d.sp ea (max 1 (d.ew / 8)) with
      | (.error x, s) => (.error x, s)
      | (.ok bs, s) =>
        let bits := if d.ew = 4 then ofBytes bs / 16 ^ (nthD 0 cs 0 % 2) % 16 else ofBytes bs
        if fmtBlock d.fmt then
          match s.copyRead w op d.sp (d.scaleAddr cs) 1 with
          | (.error x, s) => (.error x, s)
          | (.ok sc, s) => (.ok (some (bits, ofBytes sc)), s)
        else (.ok (some (bits, 127)), s)

/-- The elements from e on, n of them. -/
def State.copyElements (s : State) (w : WgId) (op : CopyOp) (e : Nat) : Nat → Except CopyHalt (List (Option (Nat × Nat))) × State
  | 0 => (.ok [], s)
  | n + 1 =>
    match s.copyElement w op e with
    | (.error x, s) => (.error x, s)
    | (.ok v, s) =>
      match s.copyElements w op (e + 1) n with
      | (.error x, s) => (.error x, s)
      | (.ok vs, s) => (.ok (v :: vs), s)

/-- The code of +0 in a descriptor's format: in CB4 the first entry that is +0; a codebook without one has none that the manual
states, and the code is open (log 21, DESIGN CHOICE). -/
def Desc.plus0 (d : Desc) : Nat :=
  if d.fmt = 0x08 then
    match (List.range 16).find? fun i => d.cb i == 0 with
    | some i => i
    | none => (Config.openWord 384 ((List.range 16).map d.cb)).toNat % 16
  else (encodeEl (fmtBase d.fmt) xzero 0 false false).1

/-- Elements that are encoded together: a block (R329), else one. -/
def CopyOp.size (op : CopyOp) : Nat := if fmtBlock op.dst.fmt && op.src.fmt != op.dst.fmt then 8 else 1

/-- The codes of a transfer, the scale byte it writes, and the counts. A bit copy writes a block's scale byte with the block's
first element, and in a gather along dimension 0 with every element that is there (log 110, DEDUCED). -/
def copyCodes (op : CopyOp) (es : List (Option (Nat × Nat))) : List Nat × Option Nat × Counts :=
  let (sd, dd) := (op.src, op.dst)
  let val := fun (e : Option (Nat × Nat)) => match e with | some x => sd.decode x.2 x.1 | none => xzero
  if op.size = 8 then
    let b := encodeBlock dd.fmt (es.map val) dd.rm dd.ftz dd.satm
    (b.2.1, some b.1, b.2.2)
  else match es.head? with
    | some (some x) =>
      if sd.fmt = dd.fmt then
        ([x.1], if fmtBlock dd.fmt && (op.next % 8 == 0 || (op.gather && cmIdim op.cmd == 0)) then some x.2 else none, .zero)
      else let y := encodeEl dd.fmt (sd.decode x.2 x.1) dd.rm dd.ftz dd.satm; ([y.1], none, y.2)
    | _ => ([dd.plus0],
        if fmtBlock dd.fmt && op.next % 8 == 0 then some (encodeBlock dd.fmt (List.replicate 8 xzero) 0 false false).1 else none, .zero)

/-- The destination bytes of the whole copy at one target. -/
def CopyOp.bytes (op : CopyOp) : Nat := cmCount op.cmd * op.dst.ew / 8

/-- The destination bytes that a transfer completes at one target: a byte of two nibbles with the second. -/
def CopyOp.gives (op : CopyOp) : Nat :=
  if op.dst.ew = 4 && op.size == 1 then op.next % 2 else op.size * op.dst.ew / 8

/-- The padding that the last transfer appends to a FIFO (R172). -/
def CopyOp.pad (op : CopyOp) : Nat :=
  if op.next + op.size = cmCount op.cmd then up16 op.bytes - op.bytes else 0

/-- Whether the FIFOs among a transfer's places have room for its bytes and the padding. -/
def State.copyRoom (s : State) (op : CopyOp) (xs : List CopyPlace) : Bool :=
  xs.all fun x => match x with
    | .fifo core slot k => match s.wg? core slot with
      | some w => decide ((w.fifo k).data.length + op.gives + op.pad ≤ 65536)
      | none => true
    | .spots _ => true

/-- The next transfer: the destination bytes it completes at all its targets. -/
def State.copyUnit (s : State) (w : WgId) (op : CopyOp) : Except CopyHalt (Nat × Nat) × State :=
  match s.copyElements w op op.next op.size with
  | (.error x, s) => (.error x, s)
  | (.ok es, s) =>
    let (codes, scale, cnt) := copyCodes op es
    let d := op.dst
    let cs := (d.coords (cmDst op.cmd op.next)).getD []
    let ea := (d.addrOf d.sp cs).getD 0
    let tgts := s.copyTargets w op.cmd
    match s.copyPlaces w op ea (max 1 (op.size * d.ew / 8)) tgts with
    | (.error x, s) => (.error x, s)
    | (.ok xs, s) =>
      match s.copyPlaces w op (d.scaleAddr cs) 1 (if scale.isSome then tgts else []) with
      | (.error x, s) => (.error x, s)
      | (.ok ys, s) =>
        if !s.copyRoom op xs then (.error .wait, s)
        else
          let s := ys.foldl (fun s y => s.copyPut w op (d.scaleAddr cs) (bytesOf 1 (scale.getD 0)) y) s
          let code := nthD 0 codes 0
          let s := xs.foldl (fun s x =>
            if d.ew = 4 && op.size == 1 then s.copyNibble w op ea (nthD 0 cs 0 % 2) code x
            else s.copyPut w op ea (if op.size = 1 then bytesOf (d.ew / 8) code
              else bytesOf d.ew ((List.range 8).map fun i => nthD 0 codes i % 2 ^ d.ew * 2 ^ (d.ew * i)).sum) x) s
          let s := xs.foldl (fun s x => match x with
            | .fifo core slot k => s.fifoAppend core slot k (List.replicate op.pad 0)
            | .spots _ => s) s
          (.ok (op.gives * tgts.length, code), if op.src.fmt = d.fmt then s else s.countStats w.core w.slot d cnt)

/-- An operation of a core's copy engine by its tag. -/
def Core.copy? (k : Core) (tag : Nat) : Option CopyOp := k.copies.find? fun o => o.tag == tag

def Core.modCopy (k : Core) (tag : Nat) (f : CopyOp → CopyOp) : Core :=
  { k with copies := k.copies.map fun o => if o.tag == tag then f o else o }

/-- Whether a request of the operation is not answered. -/
def State.copyAsks (s : State) (op : CopyOp) : Bool := s.fabric.out.any fun r => r.copy == some op.tag

/-- Every element is transferred and every request is answered. -/
def State.copyDone (s : State) (op : CopyOp) : Bool := decide (cmCount op.cmd ≤ op.next) && !s.copyAsks op

/-- The operation leaves the engine. -/
def State.endCopy (s : State) (core : Nat) (op : CopyOp) : State :=
  (s.modCore core fun k => { k with copies := k.copies.filter fun o => o.tag != op.tag }).endOp core op.slot op.parity

/-- At most n more transfers of an operation. None begins while a request of the operation is not answered, so that an element
is transferred before those after it (R80, R251). -/
def runCopy (core : Nat) (w : WgId) (tag : Nat) : Nat → State → State
  | 0, s => s
  | n + 1, s =>
    match (s.core core).copy? tag with
    | none => s
    | some op =>
      if cmCount op.cmd ≤ op.next || s.copyAsks op then s
      else match s.copyUnit w op with
        | (.error .wait, s) => s
        | (.error (.stop e), s) =>
          let (st, s) := s.engStop w 2 e
          s.modCore core fun k => k.modCopy tag fun o => { o with stop := st }
        | (.ok (b, code), s) =>
          runCopy core w tag n (s.modCore core fun k => k.modCopy tag fun o =>
            { o with next := o.next + op.size, written := o.written + b, half := code, got := [] })

/-- COPY_ENGINE_OPERATION: an operation of the engine goes on by a number of transfers, all for the choice 0, once what
stopped it is resolved (R80, R384, R385); without LV it ends when everything is written. -/
def execCopyEngineOperation (core index : Nat) (s : State) : Res :=
  match ((s.core core).copies.drop index).head? with
  | none => .next s
  | some op =>
    match s.wg? core op.slot with
    | none => .next s
    | some w =>
      match s.engResume w.id op.stop with
      | none => .next s
      | some s =>
        let s := s.modCore core fun k => k.modCopy op.tag fun o => { o with stop := .none }
        let (n, s) := s.choose
        let left := cmCount op.cmd - op.next
        let s := runCopy core w.id op.tag (if n % (left + 1) = 0 then left else n % (left + 1)) s
        match (s.core core).copy? op.tag with
        | some o => .next (if s.copyDone o && o.stop == .none && !cmLv o.cmd then s.endCopy core o else s)
        | none => .next s

/-- COPY_ARRIVAL: in ARR mode one arrival once everything is written, in BYTES mode of some or all of the bytes written
and not yet counted, all for the choice 0 (R386). The last arrival ends the operation. Only an arrival that is made sets A
and D in its page's leaf (R67). -/
def execCopyArrival (core index : Nat) (s : State) : Res :=
  match ((s.core core).copies.drop index).head? with
  | none => .next s
  | some op =>
    match s.wg? core op.slot with
    | none => .next s
    | some w =>
      match s.engResume w.id op.stop with
      | none => .next s
      | some s =>
        let lva := cmLva op.cmd
        let done := s.copyDone op
        if !cmLv op.cmd || !(done || (!s.copyAsks op && decide (op.arrived < op.written))) then .next s
        else match s.engSpot w.id false lva 16 .atomic with
        | (.error e, s) =>
          let (st, s) := s.engStop w.id 2 e
          .next (s.modCore core fun k => k.modCopy op.tag fun o => { o with stop := st })
        | (.ok x, s') =>
          let bytes := lvMode (s'.spotNat x 16)
          if !(done || bytes) then .next s
          else
            let s := s'
            let (n, s) := s.choose
            let left := op.written - op.arrived
            let k := if n % (left + 1) = 0 then left else n % (left + 1)
            let s := (s.engArrive w.id lva k).2
            let s := s.modCore core fun c => c.modCopy op.tag fun o => { o with arrived := o.arrived + k, stop := .none }
            .next (if done && (!bytes || k == left) then s.endCopy core op else s)

/-! ### The rows -/

/-- CPY. -/
def execCpy (f : LForm) (s : State) : Res := copyOp false f s

/-- CPYG. -/
def execCpyg (f : LForm) (s : State) : Res := copyOp true f s

end Sys2Proof.Machine
end

