-- ==== Sys2Proof/Machine/Matrix.lean ====
section
/-! DEFINITION. Issuing the matrix and attention instructions: the operand fields of Table 13-3, the checks of R363, the queue
of R357. -/

namespace Sys2Proof.Machine

/-- The quarter of F[1:0]. -/
def mxQuarter (f : LForm) : Nat := f.f.toNat % 4
/-- The minor bits F[7:2]. -/
def mxHi (f : LForm) : Nat := f.f.toNat / 4
/-- The precision p. -/
def mxP (f : LForm) : Nat := f.m.toNat + 1
/-- The tile of Word 2 [3:0]. -/
def mxTile (f : LForm) : Nat := f.w2.toNat % 16

/-- Shape fields: PO, KL and NR or NC of PLANE, MXMUL and MXSPM. -/
def mxPO (a : Nat) : Nat := bitsAt a 31 0
def mxKL (a : Nat) : Nat := bitsAt a 47 32
def mxN (a : Nat) : Nat := bitsAt a 54 48

/-- The signed origin coordinates in B. -/
def mxC0 (b : Nat) : Int := sx 32 b
def mxC1 (b : Nat) : Int := sx 32 (b / 2 ^ 32)

/-- The extent of MXSTORE and MXLDACC. -/
def stNR (a : Nat) : Nat := bitsAt a 6 0
def stNC (a : Nat) : Nat := bitsAt a 14 8

/-- Stored elements per group of 64 in MXSPM: all 64 in MXMUL, 32 with .K32, 16 with .K16 (R370). -/
def mxStored (mj : Major) (f : LForm) : Nat := if mj = .mxspm then (if mxHi f % 2 = 0 then 32 else 16) else 64

/-- Bytes of a K-block of a panel (R362). -/
def panelSB (p : Nat) : Nat := 256 + 64 * p

/-- Coordinates of a two-dimensional box element, dimensions 2 to 7 set to 0 (R363 item 3). -/
def boxCoord (c0 c1 : Int) (j : Nat) : Int := match j with | 0 => c0 | 1 => c1 | _ => 0

/-- The element coordinates after WRAP, none when R363 item 3 fails for it. -/
def Desc.boxAt (d : Desc) (c0 c1 : Int) : Option (List Nat) :=
  if d.ndim = 1 ∧ c1 ≠ 0 then none
  else match d.coords (boxCoord c0 c1) with
    | none => none
    | some cs => (d.addrOf d.sp cs).map fun _ => cs

/-- Every element of an n0 × n1 box is in bounds. -/
def Desc.boxOk (d : Desc) (c0 c1 : Int) (n0 n1 : Nat) : Bool :=
  (List.range n1).all fun (r : Nat) => (List.range n0).all fun (k : Nat) => (d.boxAt (c0 + k) (c1 + r)).isSome

/-- The tile bit of ACCMASK. -/
def Wg.holds (w : Wg) (q t : Nat) : Bool := w.csrs.accmask.getLsbD (16 * q + t)

/-- Formats PLANE, MXMUL and MXSPM accept. -/
def mxFmtAny (d : Desc) : Bool := d.fmt != 0x0A && !(decide (0x20 ≤ d.fmt))

/-- Formats MXSTORE, and with CB4 MXLDACC, accept (R366). -/
def mxFmtMove (load : Bool) (d : Desc) : Bool :=
  decide (d.fmt ≤ 0x07) || d.fmt == 0x09 || (decide (0x10 ≤ d.fmt) && decide (d.fmt ≤ 0x14)) || (load && d.fmt == 0x08)

def bad (code sub va : Nat) (acc : Acc) : Cause := { code := code, sub := sub, va := va, lvl := 0, acc := acc.code }

/-- Whether the instruction reads its descriptor: MXSTORE and MXLDACC of an empty box do not (R366). -/
def mxReadsDesc (mj : Major) (a : Nat) : Bool :=
  match mj with
  | .plane | .mxmul | .mxspm => true
  | .mxstore | .mxldacc => stNR a != 0 && stNC a != 0
  | _ => false

/-- The shape limits of Table 13-3. -/
def mxShapeOk (mj : Major) (a : Nat) : Bool :=
  match mj with
  | .plane => mxKL a % 8 == 0 && decide (8 ≤ mxKL a) && decide (mxKL a ≤ 16384) && decide (1 ≤ mxN a) && decide (mxN a ≤ 64)
  | .mxmul | .mxspm =>
    mxKL a % 64 == 0 && decide (64 ≤ mxKL a) && decide (mxKL a ≤ 16384) && decide (1 ≤ mxN a) && decide (mxN a ≤ 64)
  | .mxepi => decide (bitsAt a 38 32 ≤ 64)
  | .mxstore | .mxldacc => decide (stNR a ≤ 64) && decide (stNC a ≤ 64)
  | _ => true

/-- The extents of an operation's box. -/
def mxDims (mj : Major) (f : LForm) (a : Nat) : Nat × Nat :=
  match mj with
  | .plane => (mxKL a, mxN a)
  | .mxmul | .mxspm => (mxKL a / 64 * mxStored mj f, mxN a)
  | _ => (stNC a, stNR a)

/-- The box of R363 item 3. -/
def mxBoxOk (mj : Major) (f : LForm) (d : Desc) (a b : Nat) : Bool :=
  d.boxOk (mxC0 b) (mxC1 b) (mxDims mj f a).1 (mxDims mj f a).2
    && (!(mj == .mxstore && fmtBlock d.fmt) || (mxC0 b % 8 == 0 && stNC a % 8 == 0))

/-- The scratchpad ranges of R363 item 4, with the subcode of each: 1 NO_READ, 2 NO_WRITE. MXEPI with .INIT only writes its
records (R373). -/
def mxRanges (mj : Major) (f : LForm) (a : Nat) : List (Nat × Nat × Nat) :=
  match mj with
  | .plane => [(mxPO a, mxKL a / 8 * panelSB (mxP f), 2)]
  | .mxmul | .mxspm => [(mxPO a, mxKL a / 8 * panelSB (mxP f), 1)]
  | .mxepi =>
    (if bitAt (mxHi f) 4 then id else ((16 * bitsAt a 63 40, 1024, 1) :: ·)) <| (16 * bitsAt a 63 40, 1024, 2) ::
      (match mxHi f % 4 with
       | 1 => [(64 * bitsAt f.w2.toNat 31 10, 8192, 2)]
       | 2 => [(64 * bitsAt f.w2.toNat 31 10, 8 * panelSB (mxP f), 2)]
       | _ => [])
  | .mxscale | .clmerge => [(bitsAt a 31 0, 1024, 1), (bitsAt a 31 0, 1024, 2)]
  | _ => []

/-- The addresses of R363 item 5. -/
def mxAligned (mj : Major) (f : LForm) (a c : Nat) : Option Nat :=
  match mj with
  | .plane | .mxmul => if mxPO a % 64 = 0 then none else some (mxPO a)
  | .mxspm => if mxPO a % 64 != 0 then some (mxPO a) else if c % 8 = 0 then none else some c
  | .mxscale | .clmerge => if bitsAt a 31 0 % 16 = 0 then none else some (bitsAt a 31 0)
  | .mxstore => if mxHi f = 1 ∧ c % 16 ≠ 0 then some c else none
  | _ => none

/-- The tiles an instruction names: the mask of MXZERO or one tile (R363 item 1). -/
def mxTilesOk (w : Wg) (mj : Major) (f : LForm) (a : Nat) : Bool :=
  let q := mxQuarter f
  match mj with
  | .mxzero => (List.range 16).all fun t => !bitAt f.w2.toNat t || w.holds q t
  | .plane | .slope => true
  | .clmerge => w.holds q (mxTile f) && bitAt (bitsAt a 35 32) (w.id.core % 4)
  | _ => w.holds q (mxTile f)

/-- R363, in order: the first cause, or none. -/
def mxCheck (w : Wg) (mj : Major) (f : LForm) (d? : Option Desc) (a b c : Nat) : Option Cause :=
  let acc : Acc := if mj = .mxstore then .write else .read
  let reads := mxReadsDesc mj a
  let rights := match d? with
    | none => false
    | some d => d.fmtOk && (if mj = .mxstore then d.wr else d.rd)
        && (match mj with
            | .mxstore => mxFmtMove false d
            | .mxldacc => mxFmtMove true d
            | _ => mxFmtAny d)
  let boxes := match d? with | none => false | some d => mxBoxOk mj f d a b
  if !mxTilesOk w mj f a then some (Cause.plain cIllegal)
  else if reads && !rights then some (bad cDescRights 0 (descOf f) acc)
  else if !mxShapeOk mj a || (reads && !boxes) then some (bad cDescBounds 0 (descOf f) acc)
  else match (mxRanges mj f a).find? fun r => !w.rangeOk r.1 r.2.1 with
    | some r => some (bad cPermission r.2.2 r.1 (if r.2.2 = 1 then .read else .write))
    | none => (mxAligned mj f a c).map fun ea => bad cMisaligned 0 ea (match mj with | .plane => .write | .mxstore => .atomic | _ => acc)

/-- An issue: the checks, a full queue or a full counter waits, otherwise the operation enters the quarter's queue. -/
def mxOp (i : Instr) (mj : Major) (f : LForm) (s : State) : Res :=
  match s.path? with
  | none => .fault .noThread
  | some (p, s) =>
    if (p.active f.g).isEmpty then .next (p.retire s (codedLen false f) [])
    else
      let t := p.w.ctl
      let (a, b, c) := (p.opA t mj f, p.opB t mj f, p.opC t mj f)
      let (d?, s) := if mxReadsDesc mj a then s.descriptor p.w.id.core p.w.id.pid (descOf f) else (none, s)
      match mxCheck p.w mj f d? a b c with
      | some x => .next (p.raise s x false)
      | none =>
        let core := p.w.id.core
        let q := mxQuarter f
        let ops := (tabGet (s.core core).queues q).getD []
        if decide (16 ≤ ops.length) || p.countFull s then s.hold
        else
          let (par, s) := p.startOp s
          let op : MxOp := { slot := p.w.id.slot, pc := p.pc, i := i, a := BitVec.ofNat 64 a, b := BitVec.ofNat 64 b
                             c := BitVec.ofNat 64 c, desc := d?.getD { id := 0, bits := 0 }, next := 0, held := []
                             joined := false, stop := .none, parity := par }
          let s := s.modCore core fun k => { k with queues := tabSet k.queues q (ops ++ [op]) }
          .next ((p.reload s).retire s (codedLen false f) [])

/-! ### The rows -/

/-- MXZERO. -/
def execMxzero (f : LForm) (s : State) : Res := mxOp (.mxzero f) .mxzero f s

/-- PLANE. -/
def execPlane (f : LForm) (s : State) : Res := mxOp (.plane f) .plane f s

/-- MXMUL. -/
def execMxmul (f : LForm) (s : State) : Res := mxOp (.mxmul f) .mxmul f s

/-- MXSPM. -/
def execMxspm (f : LForm) (s : State) : Res := mxOp (.mxspm f) .mxspm f s

/-- MXEPI. -/
def execMxepi (f : LForm) (s : State) : Res := mxOp (.mxepi f) .mxepi f s

/-- MXSTORE. -/
def execMxstore (f : LForm) (s : State) : Res := mxOp (.mxstore f) .mxstore f s

/-- MXLDACC. -/
def execMxldacc (f : LForm) (s : State) : Res := mxOp (.mxldacc f) .mxldacc f s

/-- MXSCALE.ALPHA. -/
def execMxscaleAlpha (f : LForm) (s : State) : Res := mxOp (.mxscaleAlpha f) .mxscale f s

/-- MXSCALE.FINAL. -/
def execMxscaleFinal (f : LForm) (s : State) : Res := mxOp (.mxscaleFinal f) .mxscale f s

/-- CLMERGE. -/
def execClmerge (f : LForm) (s : State) : Res := mxOp (.clmerge f) .clmerge f s

/-- SLOPE. -/
def execSlope (f : LForm) (s : State) : Res := mxOp (.slope f) .slope f s

end Sys2Proof.Machine
end

