-- ==== Sys2Proof/Machine/MatrixUnit.lean ====
section
/-! DEFINITION. What a quarter does with its queued operations (R365 to R377): MATRIX_OPERATION, one or more units of the
oldest operation, and CLMERGE_MERGE. A unit is a K-block, a chunk of 64, a tile row, an arrival, or the whole of an
operation without memory operands. -/

namespace Sys2Proof.Machine

/-! ### Tiles, panels, row state -/

/-- The index of a tile element in `Core.tiles`. -/
def tileKey (q t r c : Nat) : Nat := ((q * 16 + t) * 64 + r) * 64 + c

def Core.tile (k : Core) (q t r c : Nat) : Nat := (cellGet k.tiles (tileKey q t r c)).toNat

/-- A row of a tile set from column c on. -/
def Core.setRow (k : Core) (q t r c : Nat) : List Nat → Core
  | [] => k
  | x :: xs => { k with tiles := cellSet k.tiles (tileKey q t r c) (BitVec.ofNat 32 x) }.setRow q t r (c + 1) xs

/-- A tile set to +0.0. -/
def Core.zeroTile (k : Core) (q t : Nat) : Core :=
  { k with tiles := cellClear k.tiles (tileKey q t 0 0) (tileKey q t 0 0 + 4096) }

/-- The bytes of row r of a K-block: its header and planes at their offsets from the block (R362). -/
def panelRow (p r : Nat) (b : PlaneBlock) : List (Nat × List Byte) :=
  (4 * r, bytesOf 4 b.header) :: (List.range p).map fun k =>
    (256 + 64 * k + r, [BitVec.ofNat 8 ((List.range 8).map fun i =>
      b2n (bitAt (wrapN 16 (nthD 0 b.ms i)) k) * 2 ^ i).sum])

/-- Row r of K-block j of a panel written at PO. -/
def writePanelRow (c : Cells 8) (po p j r : Nat) (b : PlaneBlock) : Cells 8 :=
  (panelRow p r b).foldl (fun c e => scratchWrite c (po + j * panelSB p + e.1) e.2) c

/-- The eight values of row r, K-block j of a panel (R321, R362). -/
def readPanelRow (c : Cells 8) (po p j r : Nat) : List XVal :=
  let base := po + j * panelSB p
  let hdr := ofBytes ((List.range 4).map fun i => cellGet c (base + 4 * r + i))
  (List.range 8).map fun i =>
    let bits := ((List.range p).map fun k => b2n (bitAt (cellGet c (base + 256 + 64 * k + r)).toNat i) * 2 ^ k).sum
    planeValue p hdr i (sx p bits)

/-- A 32-bit word of a row-state record (Table 13-4). -/
def rowWord (c : Cells 8) (off r k : Nat) : Nat :=
  ofBytes ((List.range 4).map fun i => cellGet c (off + 16 * r + 4 * k + i))

def setRowWord (c : Cells 8) (off r k x : Nat) : Cells 8 := scratchWrite c (off + 16 * r + 4 * k) (bytesOf 4 x)

/-- F32 codes. -/
def cNan : Nat := 0x7FC00000
def cOne : Nat := 0x3F800000
def cNegInf : Nat := 0xFF800000

/-! ### MXZERO, MXLDACC, MXSTORE, PLANE (R365 to R368) -/

/-- MXLDACC of row r; a row at or above NR is +0.0. -/
def loadRow (s : State) (w : WgId) (q : Nat) (f : LForm) (op : MxOp) (r : Nat) : Except Stop Unit × State :=
  let (nr, nc) := (stNR op.a.toNat, stNC op.a.toNat)
  let t := mxTile f
  if nr ≤ r ∨ nc = 0 then
    (.ok (), s.modCore w.core fun k => k.setRow q t r 0 (List.replicate 64 0))
  else
    let cs := (List.range nc).filterMap fun (c : Nat) => op.desc.boxAt (mxC0 op.b.toNat + c) (mxC1 op.b.toNat + r)
    match s.elementVals w op.desc cs with
    | (.error e, s) => (.error e, s)
    | (.ok vs, s) =>
      (.ok (), s.modCore w.core fun k => k.setRow q t r 0 (vs.map enc32 ++ List.replicate (64 - nc) 0))

/-- The codes of a list of values for a descriptor's format, with the scale bytes of its blocks (R327, R329). -/
def encodeRow (d : Desc) (vs : List XVal) : List Nat → List Nat × List (Nat × Nat) × Counts
  | [] =>
    let es := vs.map fun v => encodeEl d.fmt v d.rm d.ftz d.satm
    (es.map (·.1), [], es.foldl (fun a e => a.add e.2) .zero)
  | starts => starts.foldl (fun (a : List Nat × List (Nat × Nat) × Counts) i =>
      let b := encodeBlock d.fmt ((vs.drop i).take 8) d.rm d.ftz d.satm
      (a.1 ++ b.2.1, a.2.1 ++ [(i, b.1)], a.2.2.add b.2.2)) ([], [], .zero)

/-- MXSTORE of row r: elements, scale bytes and counts. Nothing of the row is written when one of its accesses stops (R364). -/
def storeRow (s : State) (w : WgId) (q : Nat) (f : LForm) (op : MxOp) (r : Nat) : Except Stop Unit × State :=
  let nc := stNC op.a.toNat
  let d := op.desc
  let core := s.core w.core
  let vs := (List.range nc).map fun c => dec32 (core.tile q (mxTile f) r c)
  let cs := (List.range nc).filterMap fun (c : Nat) => d.boxAt (mxC0 op.b.toNat + c) (mxC1 op.b.toNat + r)
  let (codes, scales, cnt) := encodeRow d vs (if fmtBlock d.fmt then (List.range (nc / 8)).map (8 * ·) else [])
  let s0 := scales.foldl (fun (a : Except Stop Unit × State) e =>
    match a.1 with
    | .error _ => a
    | .ok _ => a.2.engWrite w d.sp (d.scaleAddr (nthD [] cs e.1)) [BitVec.ofNat 8 e.2]) (.ok (), s)
  match s0 with
  | (.error e, _) => (.error e, s)
  | (.ok _, s1) =>
    match s1.setElements w d (cs.zip codes) with
    | (.error e, _) => (.error e, s)
    | (.ok _, s) => (.ok (), s.countStats w.core w.slot d cnt)

/-- The element bytes MXSTORE counts in BYTES mode (R367). -/
def storeBytes (op : MxOp) : Nat :=
  let (nr, nc) := (stNR op.a.toNat, stNC op.a.toNat)
  if nr = 0 ∨ nc = 0 then 0 else nr * ceilDiv (nc * op.desc.ew) 8

/-- PLANE: K-block j of every row (R368). -/
def planeUnit (s : State) (w : WgId) (f : LForm) (op : MxOp) (j : Nat) : Except Stop Unit × State :=
  let a := op.a.toNat
  let p := mxP f
  let rows := (List.range 64).foldl (fun (acc : Except Stop (List (Nat × PlaneBlock) × Counts) × State) r =>
    match acc with
    | (.error e, s) => (.error e, s)
    | (.ok (l, cnt), s) =>
      if r < mxN a then
        let cs := (List.range 8).filterMap fun (i : Nat) =>
          op.desc.boxAt (mxC0 op.b.toNat + (8 * j + i : Nat)) (mxC1 op.b.toNat + r)
        match s.elementVals w op.desc cs with
        | (.error e, s) => (.error e, s)
        | (.ok vs, s) =>
          let (b, c) := encodePlane p vs
          (.ok (l ++ [(r, b)], cnt.add c), s)
      else (.ok (l ++ [(r, { header := 0x7F, ms := [] })], cnt), s)) (.ok ([], .zero), s)
  match rows with
  | (.error e, s) => (.error e, s)
  | (.ok (l, cnt), s) =>
    let s := s.modWg w.core w.slot fun x =>
      { x with scratch := l.foldl (fun c e => writePanelRow c (mxPO a) p j e.1 e.2) x.scratch }
    (.ok (), s.countStats w.core w.slot op.desc cnt)

/-! ### MXMUL and MXSPM (R369, R370) -/

/-- n bytes at a global address, word by word. -/
def State.engWords (s : State) (w : WgId) (ea : Nat) : Nat → Except Stop (List Byte) × State
  | 0 => (.ok [], s)
  | n + 1 =>
    match s.engRead w false ea 4 with
    | (.error e, s) => (.error e, s)
    | (.ok bs, s) => match s.engWords w (ea + 4) n with
      | (.error e, s) => (.error e, s)
      | (.ok r, s) => (.ok (bs ++ r), s)

/-- The metadata record of column n and chunk g in MXSPM (R370). -/
def metaAddr (f : LForm) (op : MxOp) (n g : Nat) : Nat × Nat :=
  let rb := if mxStored .mxspm f = 32 then 24 else 12
  (op.c.toNat + (n * (mxKL op.a.toNat / 64) + g) * rb, rb)

/-- The 8 weights of column n in K-block j: as stored, or those of the stored elements that the metadata record puts into
the block, a later one over an earlier (R370). -/
def weights (s : State) (w : WgId) (mj : Major) (f : LForm) (op : MxOp) (n j : Nat) : Except Stop (List XVal) × State :=
  let at_ := fun (i : Nat) => op.desc.boxAt (mxC0 op.b.toNat + (i : Nat)) (mxC1 op.b.toNat + n)
  if mj = .mxspm then
    let st := mxStored mj f
    let g := j / 8
    let (ma, rb) := metaAddr f op n g
    match s.engWords w ma (rb / 4) with
    | (.error e, s) => (.error e, s)
    | (.ok bs, s) =>
      let idx := fun (i : Nat) => bitsAt (ofBytes bs) (6 * i + 5) (6 * i)
      let mine := (List.range st).filter fun i => idx i / 8 == j % 8
      match s.elementVals w op.desc (mine.filterMap fun i => at_ (st * g + i)) with
      | (.error e, s) => (.error e, s)
      | (.ok vs, s) =>
        (.ok ((mine.zip vs).foldl (fun ws e => nthSet e.2 ws (idx e.1 % 8)) (List.replicate 8 xzero)), s)
  else s.elementVals w op.desc ((List.range 8).filterMap fun i => at_ (8 * j + i))

/-- The weights of every column in K-block j. -/
def blockWeights (s : State) (w : WgId) (mj : Major) (f : LForm) (op : MxOp) (j : Nat) : Except Stop (List (List XVal)) × State :=
  (List.range (mxN op.a.toNat)).foldl (fun (acc : Except Stop (List (List XVal)) × State) n =>
    match acc with
    | (.error e, s) => (.error e, s)
    | (.ok l, s) =>
      match weights s w mj f op n j with
      | (.error e, s) => (.error e, s)
      | (.ok vs, s) => (.ok (l ++ [blockAlign vs]), s)) (.ok [], s)

/-- Whether K-block j ends a chunk. -/
def endsChunk (j : Nat) : Bool := j % 8 == 7

/-- The weights of a chunk of columns once those of one more K-block are read. -/
def heldWith (op : MxOp) (j : Nat) (bs : List (List XVal)) : List (List XVal) :=
  (List.range bs.length).map fun n => (if j % 8 = 0 then [] else nthD [] op.held n) ++ nthD [] bs n

/-- A quarter's queue. -/
def State.queue (s : State) (core q : Nat) : List MxOp := (tabGet (s.core core).queues q).getD []

def State.setQueue (s : State) (core q : Nat) (ops : List MxOp) : State :=
  s.modCore core fun k => { k with queues := if ops.isEmpty then tabDel k.queues q else tabSet k.queues q ops }

/-- The oldest operation of a quarter holds these weights. -/
def State.holdWeights (s : State) (core q : Nat) (held : List (List XVal)) : State :=
  match s.queue core q with
  | o :: r => s.setQueue core q ({ o with held := held } :: r)
  | [] => s

/-- One K-block of MXMUL or MXSPM: its weights are read, and with the last of a chunk the chunk is added over every row
and column (R369). -/
def mulUnit (s : State) (w : WgId) (q : Nat) (mj : Major) (f : LForm) (op : MxOp) (j : Nat) : Except Stop Unit × State :=
  let a := op.a.toNat
  match blockWeights s w mj f op j with
  | (.error e, s) => (.error e, s)
  | (.ok bs, s) =>
    let held := heldWith op j bs
    if !endsChunk j then (.ok (), s.holdWeights w.core q held)
    else
      let scr := match s.wg? w.core w.slot with | some x => x.scratch | none => []
      let t := mxTile f
      (.ok (), (s.holdWeights w.core q []).modCore w.core fun k =>
        (List.range 64).foldl (fun k r =>
          let av := (List.range 8).flatMap fun i => readPanelRow scr (mxPO a) (mxP f) (8 * (j / 8) + i) r
          let row := (List.range held.length).map fun n => fadd32 (k.tile q t r n) (chunkSum av (nthD [] held n))
          k.setRow q t r 0 row) k)

/-! ### MXEPI (R372, R373) -/

/-- Table 13-5. -/
def epiMasked (f : LForm) (op : MxOp) (r c : Nat) : Bool :=
  let a := op.a.toNat
  let b := op.b.toNat
  let q : Int := ((bitsAt a 31 0 + r : Nat) : Int)
  let k : Int := ((bitsAt b 31 0 + c : Nat) : Int)
  decide (bitsAt a 38 32 ≤ r) || decide (((bitsAt b 63 32 : Nat) : Int) ≤ k)
    || (bitAt (mxHi f) 2 && decide (q < k)) || (bitAt (mxHi f) 3 && decide (((bitsAt op.c.toNat 31 0 : Nat) : Int) ≤ q - k))

/-- The code of z[c] (R373). -/
def epiScore (f : LForm) (op : MxOp) (slope : Nat) (r c score : Nat) : Nat :=
  if epiMasked f op r c then cNegInf
  else
    let dist : Int := ((bitsAt op.a.toNat 31 0 + r : Nat) : Int) - ((bitsAt op.b.toNat 31 0 + c : Nat) : Int)
    enc32 (xadd 0 (xmul (dec32 (bitsAt op.c.toNat 63 32)) (dec32 score)) (xmul (dec32 slope) (xint dist)))

/-- The code of the greatest of F32 codes, the first among equals. -/
def maxCode (m : Nat) (zs : List Nat) : Nat := zs.foldl (fun m z => if xlt (dec32 m) (dec32 z) then z else m) m

/-- exp2 of a difference of codes, rounded to F32 (R373, R375): x finite or −∞ and m finite. -/
def expDiff (x m : Nat) : Nat := if x = cNegInf then 0 else enc32 (exp2Val (xadd 0 (dec32 x) (dec32 m).neg))

/-- exp2 of a difference of codes as the rule numbered n uses it. Of a maximum of +∞ the rule states none: the word is open,
the same for the same two codes (log 20, DESIGN CHOICE). -/
def expOf (n x m : Nat) : Nat :=
  if x = cNegInf then 0 else if m = 0x7F800000 then (Config.openWord n [x, m]).toNat else expDiff x m

/-- One row: M, L, ALPHA and the 64 values P. A NaN that L keeps is written as the canonical one (R315). -/
def epiRow (mo lo : Nat) (zs : List (Bool × Nat)) : Nat × Nat × Nat × List Nat :=
  let codes := zs.map (·.2)
  let badZ := zs.any fun z => !z.1 && ((dec32 z.2).isNan || z.2 == 0x7F800000)
  if (dec32 mo).isNan || badZ then (cNan, cNan, cNan, List.replicate 64 cNan)
  else
    let mn := maxCode mo codes
    if mn = cNegInf then (mn, if (dec32 lo).isNan then cNan else lo, cOne, List.replicate 64 0)
    else
      let al := expOf 373 mo mn
      let ps := codes.map fun z => expOf 373 z mn
      (mn, enc32 (xadd 0 (xmul (dec32 lo) (dec32 al)) (xsum 0 (ps.map dec32))), al, ps)

/-- MXEPI of one row, with its scratchpad output. -/
def epiUnit (s : State) (w : WgId) (q : Nat) (f : LForm) (op : MxOp) (r : Nat) : State :=
  match s.wg? w.core w.slot with
  | none => s
  | some x =>
    let t := mxTile f
    let off := 16 * bitsAt op.a.toNat 63 40
    let slope := (cellGet x.slopes (q * 64 + bitsAt f.w2.toNat 9 4)).toNat
    let core := s.core w.core
    let init := bitAt (mxHi f) 4
    let mo := if init then cNegInf else rowWord x.scratch off r 0
    let lo := if init then 0 else rowWord x.scratch off r 1
    let zs := (List.range 64).map fun c => (epiMasked f op r c, epiScore f op slope r c (core.tile q t r c))
    let (m, l, al, ps) := epiRow mo lo zs
    let out := 64 * bitsAt f.w2.toNat 31 10
    let put := fun (c : Cells 8) =>
      match mxHi f % 4 with
      | 1 => scratchWrite c (out + 128 * r) (ps.flatMap fun p => bytesOf 2 (encodeF fBF16 (dec32 p) 0 false true).1)
      | 2 => (List.range 8).foldl (fun c j =>
          writePanelRow c out (mxP f) j r (encodePlane (mxP f) (((ps.drop (8 * j)).take 8).map dec32)).1) c
      | _ => c
    let s := s.modCore w.core fun k => k.setRow q t r 0 ps
    s.modWg w.core w.slot fun x =>
      { x with scratch := put (setRowWord (setRowWord (setRowWord x.scratch off r 0 m) off r 1 l) off r 2 al) }

/-! ### MXSCALE (R374) -/

/-- The new tile row and LSE. Of a negative L the rule states no LSE: the word is open, the same for the same M and L
(log 20, DESIGN CHOICE). -/
def scaleRow (final : Bool) (m l al : Nat) (os : List Nat) : List Nat × Option Nat :=
  if !final then (os.map fun o => enc32 (xmul (dec32 o) (dec32 al)), none)
  else if (dec32 l).isZero then (os.map fun _ => 0, some cNegInf)
  else if (dec32 l).isNan then (os.map fun _ => cNan, some cNan)
  else
    (os.map fun o => enc32 (xdiv (dec32 o) (dec32 l)), some (match dec32 l with
      | .fin false n d => enc32 (xadd 0 (dec32 m) (log2Val n d))
      | .inf false => enc32 (xadd 0 (dec32 m) (.inf false))
      | _ => (Config.openWord 374 [m, l]).toNat))

/-- MXSCALE of one row. -/
def scaleUnit (s : State) (w : WgId) (q : Nat) (f : LForm) (op : MxOp) (r : Nat) : State :=
  match s.wg? w.core w.slot with
  | none => s
  | some x =>
    let off := bitsAt op.a.toNat 31 0
    let t := mxTile f
    let core := s.core w.core
    let (row, lse) := scaleRow (mxHi f % 4 == 1) (rowWord x.scratch off r 0) (rowWord x.scratch off r 1)
      (rowWord x.scratch off r 2) ((List.range 64).map fun c => core.tile q t r c)
    let s := s.modCore w.core fun k => k.setRow q t r 0 row
    match lse with
    | none => s
    | some v => s.modWg w.core w.slot fun x => { x with scratch := setRowWord x.scratch off r 3 v }

/-! ### One unit of an operation -/

/-- The units an operation has. -/
def mxUnits (mj : Major) (f : LForm) (op : MxOp) : Nat :=
  match mj with
  | .plane | .mxmul | .mxspm => mxKL op.a.toNat / 8
  | .mxldacc | .mxepi | .mxscale => 64
  | .mxstore => (if stNC op.a.toNat = 0 then 0 else stNR op.a.toNat) + (if mxHi f = 1 then 1 else 0)
  | _ => 1

/-- Unit k of an operation. -/
def mxUnit (s : State) (w : WgId) (q : Nat) (mj : Major) (f : LForm) (op : MxOp) (k : Nat) : Except Stop Unit × State :=
  match mj with
  | .mxzero => (.ok (), s.modCore w.core fun c => (List.range 16).foldl (fun c t =>
      if bitAt f.w2.toNat t then c.zeroTile q t else c) c)
  | .plane => planeUnit s w f op k
  | .mxmul | .mxspm => mulUnit s w q mj f op k
  | .mxldacc => loadRow s w q f op k
  | .mxstore =>
    if k < (if stNC op.a.toNat = 0 then 0 else stNR op.a.toNat) then storeRow s w q f op k
    else s.engArrive w op.c.toNat (storeBytes op)
  | .mxepi => (.ok (), epiUnit s w q f op k)
  | .mxscale => (.ok (), scaleUnit s w q f op k)
  | .slope => (.ok (), s.modWg w.core w.slot fun x =>
      { x with slopes := cellSet x.slopes (q * 64 + f.w2.toNat % 64) (BitVec.ofNat 32 op.c.toNat) })
  | _ => (.ok (), s)

/-- At most n more units of the oldest operation; it leaves the queue with its last. -/
def runUnits (core q : Nat) (w : WgId) (mj : Major) (f : LForm) : Nat → MxOp → State → State
  | 0, _, s => s
  | n + 1, op, s =>
    let (r, s') := mxUnit s w q mj f op op.next
    match r with
    | .error e =>
      let (st, s') := s'.engStop w 3 e
      s'.setQueue core q ({ op with stop := st } :: (s'.queue core q).tail)
    | .ok _ =>
      let op := { op with next := op.next + 1, stop := .none
                          held := match s'.queue core q with | o :: _ => o.held | [] => [] }
      if mxUnits mj f op ≤ op.next then (s'.setQueue core q (s'.queue core q).tail).endOp core op.slot op.parity
      else runUnits core q w mj f n op (s'.setQueue core q (op :: (s'.queue core q).tail))

/-! ### CLMERGE (R375, R376) -/

/-- The merge's index in `Cluster.merges`. -/
def mergeKey (pid ctx slot : Nat) : Nat := (pid * 32 + ctx) * 8 + slot

/-- The merge of its slot that a CLMERGE would join: the open one, or one with its own PM. -/
def State.mergeOf (s : State) (w : WgId) (core : Nat) (op : MxOp) : Merge :=
  (tabGet (s.cluster (core / 4)).merges (mergeKey w.pid w.ctx (bitsAt op.a.toNat 38 36))).getD
    { pm := bitsAt op.a.toNat 35 32, arrivals := [] }

/-- Whether a merge has the arrival of a core. -/
def Merge.hasCore (m : Merge) (core : Nat) : Bool := m.arrivals.any fun a => a.1 == core

/-- Whether every core of the merge's PM has arrived. -/
def Merge.complete (m : Merge) (cluster : Nat) : Bool :=
  (List.range 4).all fun c => !bitAt m.pm c || m.hasCore (4 * cluster + c)

/-- A CLMERGE arrives: it joins the open merge of its slot or opens one. A core that has arrived already waits, and so does one that
comes when the merge has every core of its PM: it arrives at the next merge of the slot (R375). -/
def State.joinMerge (s : State) (w : WgId) (core q : Nat) (op : MxOp) : State :=
  let key := mergeKey w.pid w.ctx (bitsAt op.a.toNat 38 36)
  let cl := s.cluster (core / 4)
  let m := s.mergeOf w core op
  if m.hasCore core || (!m.arrivals.isEmpty && m.complete (core / 4)) then s
  else
    let m := { m with arrivals := m.arrivals ++ [(core, q)] }
    (s.setCluster (core / 4) { cl with merges := tabSet cl.merges key m }).setQueue core q
      ({ op with joined := true, stop := .none } :: (s.queue core q).tail)

/-- MATRIX_OPERATION: the oldest operation of a quarter goes on by a number of units, all of them for the choice 0. A
paused one goes on only once what stopped it is resolved (R357, R364). -/
def execMatrixOperation (core quarter : Nat) (s : State) : Res :=
  match s.queue core quarter with
  | [] => .next s
  | op :: _ =>
    match s.wg? core op.slot, coded op.i with
    | some w, some (mj, _, f) =>
      if op.joined then .next s
      else match s.engResume w.id op.stop with
      | none => .next s
      | some s =>
        if mj = .clmerge then .next (s.joinMerge w.id core quarter op)
        else
          let (n, s) := s.choose
          let total := mxUnits mj f op
          if total = 0 then .next ((s.setQueue core quarter (s.queue core quarter).tail).endOp core op.slot op.parity)
          else .next (runUnits core quarter w.id mj f (if n % (total + 1) = 0 then total else n % (total + 1)) op s)
    | _, _ => .next (s.setQueue core quarter (s.queue core quarter).tail)

/-- A participant of a merge: its core, quarter, operation and its tile and record offset. -/
structure Part where
  core : Nat
  q : Nat
  slot : Nat
  tile : Nat
  off : Nat
  parity : Option Nat

/-- Row r of the merge: M, L, ALPHA and the row of O* (R375). -/
def mergeRow (ms : List (Nat × Nat × List Nat)) : Nat × Nat × Nat × List Nat :=
  if ms.any fun e => (dec32 e.1).isNan then (cNan, cNan, cNan, List.replicate 64 cNan)
  else
    let m := maxCode cNegInf (ms.map (·.1))
    if m = cNegInf then (cNegInf, 0, cOne, List.replicate 64 0)
    else
      let bs := ms.map fun e => expOf 375 e.1 m
      let sum := fun (xs : List Nat) => enc32 (xsum 0 ((bs.zip xs).map fun e => xmul (dec32 e.1) (dec32 e.2)))
      (m, sum (ms.map (·.2.1)), cOne, (List.range 64).map fun c => sum (ms.map fun e => nthD 0 e.2.2 c))

/-- Whether an operation is a CLMERGE whose core has arrived at an open merge that lacks other cores (R375, R376). -/
def State.mergeWaits (s : State) (core : Nat) (op : MxOp) : Bool :=
  match s.wg? core op.slot, coded op.i with
  | some w, some (.clmerge, _, _) =>
    let m := s.mergeOf w.id core op
    m.hasCore core && !m.complete (core / 4)
  | _, _ => false

/-- CLMERGE_MERGE: once every core of PM has arrived, the merged triples are written to every participant and their
operations leave their queues. -/
def execClmergeMerge (cluster pid ctx slot : Nat) (s : State) : Res :=
  let cl := s.cluster cluster
  let key := mergeKey pid ctx slot
  match tabGet cl.merges key with
  | none => .next s
  | some m =>
    if !m.complete cluster then .next s
    else
      let cores := (List.range 4).filterMap fun c => m.arrivals.find? fun a => a.1 == 4 * cluster + c
      let ps : List Part := cores.filterMap fun a =>
        match s.queue a.1 a.2 with
        | op :: _ => (coded op.i).map fun e =>
          { core := a.1, q := a.2, slot := op.slot, tile := mxTile e.2.2, off := bitsAt op.a.toNat 31 0, parity := op.parity }
        | [] => none
      let s := (List.range 64).foldl (fun s r =>
        let ms := ps.map fun x =>
          let scr := match s.wg? x.core x.slot with | some w => w.scratch | none => []
          (rowWord scr x.off r 0, rowWord scr x.off r 1, (List.range 64).map fun c => (s.core x.core).tile x.q x.tile r c)
        let (mm, l, al, row) := mergeRow ms
        ps.foldl (fun s x =>
          (s.modCore x.core fun k => k.setRow x.q x.tile r 0 row).modWg x.core x.slot fun w =>
            { w with scratch := setRowWord (setRowWord (setRowWord w.scratch x.off r 0 mm) x.off r 1 l) x.off r 2 al }) s) s
      let s := ps.foldl (fun s x => (s.setQueue x.core x.q (s.queue x.core x.q).tail).endOp x.core x.slot x.parity) s
      .next (s.setCluster cluster { s.cluster cluster with merges := tabDel cl.merges key })

end Sys2Proof.Machine
end

