-- ==== Sys2Proof/Machine/Pool.lean ====
section
/-! DEFINITION. Block pools and sequences (R95 to R110, R425): allocation, reference counts, handles, sequence tables, the
operations of Table 4-4, and the instructions BALLOC, BFREE and SQOP with the engine step that carries them out. -/

namespace Sys2Proof.Machine

/-! ### Status codes (Table 4-2) -/

def psOk : Nat := 0
def psEmpty : Nat := 1
def psBadPool : Nat := 2
def psBadBlock : Nat := 3
def psNotLive : Nat := 4
def psRefLimit : Nat := 5
def psSeqLimit : Nat := 6
def psNoHandle : Nat := 7
def psBadArg : Nat := 8
def psBadTable : Nat := 9

/-! ### Pools (R99 to R101) -/

/-- The record of a pool that exists. -/
def State.poolRec? (s : State) (pid n : Nat) : Option Pool := (s.part? pid).bind fun p => tabGet p.pools n
/-- A pool that an operation can reach: one homed on a lost die cannot be (R18). -/
def State.pool? (s : State) (pid n : Nat) : Option Pool :=
  match s.poolRec? pid n with
  | some x => if x.tier = 0 ∧ bitAt s.dev.lostDies.toNat x.die then none else some x
  | none => none
def State.setPool (s : State) (pid n : Nat) (x : Pool) : State := s.modPart pid fun p => { p with pools := tabSet p.pools n x }
def State.modPool (s : State) (pid n : Nat) (f : Pool → Pool) : State :=
  match s.pool? pid n with | some x => s.setPool pid n (f x) | none => s

/-- Free blocks that no sequence has reserved. -/
def Pool.avail (x : Pool) : Nat := x.free.length - x.resv

def Pool.size (x : Pool) : Nat := 2 ^ x.bshift
/-- The virtual and the physical address of a block. -/
def Pool.va (x : Pool) (b : Nat) : Nat := x.vbase.toNat + b * x.size
def Pool.pa (x : Pool) (b : Nat) : Nat := x.pbase + b * x.size

def Pool.count (x : Pool) (b : Nat) : Nat := (tabGet x.refs b).getD 0
def Pool.setCount (x : Pool) (b n : Nat) : Pool := { x with refs := if n = 0 then tabDel x.refs b else tabSet x.refs b n }

/-- The moves between the engine's cache and the free-list array (R99). -/
def Pool.settle (x : Pool) : Pool :=
  let cached := x.free.length - x.flcnt
  if cached < 64 ∧ 0 < x.flcnt then { x with flcnt := x.flcnt - min 128 x.flcnt }
  else if 224 ≤ cached then { x with flcnt := x.flcnt + 128 }
  else x

/-- The block at an address of the pool, if it is the start of one. -/
def Pool.blockAt (x : Pool) (va : Nat) : Option Nat :=
  if x.vbase.toNat ≤ va ∧ (va - x.vbase.toNat) % x.size = 0 ∧ (va - x.vbase.toNat) / x.size < x.nblk then
    some ((va - x.vbase.toNat) / x.size)
  else none

/-- Takes an entry of the free list, whichever it is (R99): its block has count 1. -/
def State.takeBlock (s : State) (pid n : Nat) : Nat × State :=
  let (c, s) := s.choose
  match s.pool? pid n with
  | none => (0, s)
  | some x =>
    let x := x.settle
    let b := nthD 0 x.free (c % max 1 x.free.length)
    (b, s.setPool pid n (({ x with free := x.free.erase b }.setCount b 1).settle))

/-- k blocks of a pool, `r` of them reserved. -/
def State.takeBlocks (s : State) (pid n r : Nat) : Nat → List Nat × State
  | 0 => ([], s.modPool pid n fun x => { x with resv := x.resv - r })
  | k + 1 =>
    let (b, s) := s.takeBlock pid n
    let (bs, s) := s.takeBlocks pid n r k
    (b :: bs, s)

/-- An allocation answered EMPTY. The counters wrap at 2^32 (log 146, DESIGN CHOICE). -/
def State.countEmpty (s : State) (pid n : Nat) : State := s.modPool pid n fun x => { x with emptyc := (x.emptyc + 1) % 2 ^ 32 }

/-- A bad entry skipped, or a count of 0 found (R100, R425; log 146, DESIGN CHOICE). -/
def State.countBad (s : State) (pid n : Nat) : State := s.modPool pid n fun x => { x with badfree := (x.badfree + 1) % 2 ^ 32 }

/-- R100: a release. It answers whether the count was live. -/
def State.releaseBlock (s : State) (pid n b : Nat) : Bool × State :=
  match s.pool? pid n with
  | none => (false, s)
  | some x =>
    match x.count b with
    | 0 => (false, s.countBad pid n)
    | 1 => (true, s.setPool pid n ({ (x.setCount b 0) with free := b :: x.free }.settle))
    | k + 1 => (true, s.setPool pid n (x.setCount b k))

/-! ### Handles (R103 to R105) -/

/-- A KV handle (R104). -/
def handleOf (pid gen index chk : Nat) : Nat := pid % 16 * 2 ^ 60 + gen % 2 ^ 20 * 2 ^ 40 + index % 2 ^ 24 * 2 ^ 16 + chk % 2 ^ 16

def State.handle? (s : State) (pid i : Nat) : Option Handle := (s.part? pid).bind fun p => tabGet p.handles i
def State.setHandle (s : State) (pid i : Nat) (h : Handle) : State := s.modPart pid fun p => { p with handles := tabSet p.handles i h }

/-- States of an entry (Table 4-3). -/
def hsFree : Nat := 0
def hsLive : Nat := 1
def hsSpilled : Nat := 2
def hsMoving : Nat := 3
def hsDead : Nat := 7

/-- Checks 1 to 4 of R104: the entry a handle names. -/
def State.handleEntry (s : State) (pid h : Nat) : Option (Nat × Handle) :=
  let i := bitsAt h 39 16
  match s.handle? pid i with
  | some e =>
    if bitsAt h 63 60 = pid ∧ i < 262144 ∧ bitsAt h 59 40 = e.gen ∧ bitsAt h 15 0 = e.chk.toNat then some (i, e) else none
  | none => none

/-- A FREE entry, whichever it is (R105). -/
def State.freeHandle (s : State) (pid : Nat) : Option Nat × State :=
  let (c, s) := s.choose
  let ok := fun i => match s.handle? pid i with | some e => e.state == hsFree | none => true
  (if ok (c % 262144) then some (c % 262144) else (List.range 262144).find? ok, s)

/-- A new LIVE entry with a check value from the engine's generator (R105); its generation stays. -/
def State.newHandle (s : State) (pid i : Nat) (e : Handle) : Nat × State :=
  let (c, s) := s.choose
  let gen := match s.handle? pid i with | some x => x.gen | none => 0
  let e := { e with gen := gen, chk := BitVec.ofNat 16 c, state := hsLive }
  (handleOf pid gen i e.chk.toNat, s.setHandle pid i e)

/-! ### Sequence tables (R106, R425) -/

/-- A workgroup identity for records that no workgroup raises: the context alone. -/
def WgId.ofCtx (pid ctx : Nat) : WgId :=
  { pid := pid, ctx := ctx, node := 0, wgi := 0, core := 0, slot := 0, gnum := [], nlane := 0, nreg := 0, scr := 0, wpri := 0
    quartet := false, persist := false, slotv := 0, req := 0, qpos := 0, kvlen := 0, step := 0 }

/-- Token positions per block. -/
def tpbOf (x : Pool) (tshift : Nat) : Nat := 2 ^ (x.bshift - tshift)
/-- need(n) of R107. -/
def needOf (x : Pool) (tshift n : Nat) : Nat := ceilDiv n (tpbOf x tshift)
/-- Leaf tables for a number of data blocks. -/
def leavesOf (nsb : Nat) : Nat := ceilDiv nsb 1024

/-- The block number that stands for none. -/
def noBlock : Nat := 0xFFFFFFFF

/-- Entry i of the table in block b, as a number in memory; one that meets an uncorrectable error reads as bad (R21, log 111,
DESIGN CHOICE). The block is where R100 places it, also in an MPOOL whose BSHIFT is not 12 (log 147, DESIGN CHOICE). -/
def State.tableAt (s : State) (mp : Pool) (b i : Nat) : Nat :=
  if (s.eccSub (mp.pa b + 4 * i) 4 true).isSome then noBlock else s.phys (mp.pa b + 4 * i) 4

/-- Root entry i and leaf entry j of a leaf table. -/
def State.rootEntry (s : State) (mp : Pool) (root i : Nat) : Nat := s.tableAt mp root i
def State.leafEntry (s : State) (mp : Pool) (leaf j : Nat) : Nat := s.tableAt mp leaf j
def State.setEntry (s : State) (mp : Pool) (b i x : Nat) : State := s.setPhys (mp.pa b + 4 * i) 4 x

/-- A table of n entries with nothing in use. -/
def State.blankTable (s : State) (mp : Pool) (b n : Nat) : State :=
  { s with mem := memWrite s.mem (mp.pa b) (List.replicate (4 * n) 0xFF) }

/-- The leaf table that holds data block bi; none if its root entry names none. -/
def State.leafOf (s : State) (mp : Pool) (e : Handle) (bi : Nat) : Option Nat :=
  let l := s.rootEntry mp e.root (bi / 1024)
  if l < mp.nblk then some l else none

/-- Data block bi of a sequence; none for a bad entry. -/
def State.blockOf (s : State) (x mp : Pool) (e : Handle) (bi : Nat) : Option Nat :=
  match s.leafOf mp e bi with
  | none => none
  | some l =>
    let b := s.leafEntry mp l (bi % 1024)
    if b < x.nblk then some b else none

/-- The entries of a sequence's tables that lead to data blocks lo and on, n of them, as table block and index. -/
def State.entriesOf (s : State) (mp : Pool) (e : Handle) (lo n : Nat) : List (Nat × Nat) :=
  (List.range n).flatMap fun i =>
    (e.root, (lo + i) / 1024) :: match s.leafOf mp e (lo + i) with | some l => [(l, (lo + i) % 1024)] | none => []

/-- A record of the first of some entries that meets an uncorrectable error, for the sequence's owner (log 111, DESIGN
CHOICE). -/
def State.recordTables (s : State) (pid : Nat) (mp : Pool) (e : Handle) (xs : List (Nat × Nat)) : State :=
  match xs.findSome? fun x => (s.eccSub (mp.pa x.1 + 4 * x.2) 4 true).map fun sub => (x, sub) with
  | some (x, sub) => s.post (WgId.ofCtx pid e.owner) { code := cEcc, sub := sub, va := mp.va x.1 + 4 * x.2, lvl := 0, acc := 0 } 0
  | none => s

/-- Data blocks lo and on of a list of entries written into the tables whose leaves there are. -/
def State.writeBlocks (s : State) (mp : Pool) (e : Handle) (lo : Nat) : List Nat → State
  | [] => s
  | b :: bs =>
    let l := s.phys (mp.pa e.root + 4 * (lo / 1024)) 4
    (if l < mp.nblk then s.setEntry mp l (lo % 1024) b else s).writeBlocks mp e (lo + 1) bs

/-- New leaf tables entered in the root at the indices given. -/
def State.writeLeaves (s : State) (mp : Pool) (root : Nat) : List (Nat × Nat) → State
  | [] => s
  | x :: xs => ((s.blankTable mp x.2 1024).setEntry mp root x.1 x.2).writeLeaves mp root xs

/-- Bytes copied from one physical range to another, poison with them (R21). -/
def State.copyPhys (s : State) (src dst n : Nat) : State :=
  let cells := s.mem.filter fun (c : Nat × BitVec 8) => decide (src ≤ c.1) && decide (c.1 < src + n)
  let inside := fun (a x : Nat) => decide (a ≤ 32 * x) && decide (32 * x + 32 ≤ a + n)
  { s with
    mem := cells.foldl (fun m c => cellSet (w := 8) m (dst + (c.1 - src)) c.2) (cellClear (w := 8) s.mem dst (dst + n))
    dev := { s.dev with poison := (s.dev.poison.filter fun x => !inside dst x)
      ++ (s.dev.poison.filter fun x => inside src x).map fun x => (32 * x - src + dst) / 32 } }

/-! ### The operations of Table 4-4 -/

/-- Whether two pools can supply unreserved blocks; the pool that cannot, the first of the two where neither can (log 111,
DESIGN CHOICE). -/
def State.lacks (s : State) (pid p n mp m : Nat) : Option Nat :=
  let av := fun k => match s.pool? pid k with | some x => x.avail | none => 0
  if p = mp then (if av p < n + m then some p else none)
  else if av p < n then some p else if av mp < m then some mp else none

/-- CREATE: status and handle. -/
def State.sqCreate (s : State) (pid ctx pool tshift : Nat) : Nat × Nat × State :=
  match s.pool? pid pool with
  | none => (psBadPool, 0, s)
  | some x =>
    match s.pool? pid x.mpool with
    | none => (psBadPool, 0, s)
    | some mp =>
      if tshift < 4 ∨ x.bshift < tshift then (psBadArg, 0, s)
      else match s.freeHandle pid with
        | (none, s) => (psNoHandle, 0, s)
        | (some i, s) =>
          if mp.avail < 1 then (psEmpty, 0, s.countEmpty pid x.mpool)
          else
            let (root, s) := s.takeBlock pid x.mpool
            let s := s.blankTable mp root 256
            let (h, s) := s.newHandle pid i { gen := 0, chk := 0, state := hsLive, pool := pool, tshift := tshift, root := root
                                              nsb := 0, len := 0, rsv := 0, rsvM := 0, owner := ctx }
            (psOk, h, s)

/-- APPEND to entry i. The table entry it reads is that of a leaf it extends (log 22, DEDUCED). -/
def State.sqAppend (s : State) (pid i n : Nat) (e : Handle) : Nat × State :=
  match s.pool? pid e.pool with
  | none => (psBadPool, s)
  | some x =>
    match s.pool? pid x.mpool with
    | none => (psBadPool, s)
    | some mp =>
      let nsb := needOf x e.tshift (e.len + n)
      let data := nsb - e.nsb
      let leaves := leavesOf nsb - leavesOf e.nsb
      if n = 0 ∨ 16384 < n then (psBadArg, s)
      else if data != 0 && e.nsb % 1024 != 0 && (s.leafOf mp e e.nsb).isNone then (psBadTable, s)
      else if decide (262144 < nsb) || decide (2 ^ 32 - 1 < e.len + n) then (psSeqLimit, s)
      else
        let rd := min data (e.rsv - e.rsvM)
        let rl := min leaves e.rsvM
        match s.lacks pid e.pool (data - rd) x.mpool (leaves - rl) with
        | some p => (psEmpty, s.countEmpty pid p)
        | none =>
          let (bs, s) := s.takeBlocks pid e.pool rd data
          let (ls, s) := s.takeBlocks pid x.mpool rl leaves
          let s := s.writeLeaves mp e.root ((List.range' (leavesOf e.nsb) ls.length).zip ls)
          let s := s.writeBlocks mp e e.nsb bs
          (psOk, s.setHandle pid i { e with len := e.len + n, nsb := nsb, rsv := e.rsv - rd - rl, rsvM := e.rsvM - rl })

/-- XLATE of a position below LEN. -/
def State.sqXlate (s : State) (pid pos : Nat) (e : Handle) : Nat × Nat :=
  match s.pool? pid e.pool with
  | none => (psBadPool, 0)
  | some x =>
    match s.pool? pid x.mpool with
    | none => (psBadPool, 0)
    | some mp =>
      match s.blockOf x mp e (pos / tpbOf x e.tshift) with
      | none => (psBadTable, 0)
      | some b => (psOk, x.va b + pos % tpbOf x e.tshift * 2 ^ e.tshift)

/-- The counts of a list of blocks, each one greater; none if one would pass 65,535. -/
def Pool.addRefs (x : Pool) : List Nat → Option Pool
  | [] => some x
  | b :: bs => if 65535 ≤ x.count b then none else (x.setCount b (x.count b + 1)).addRefs bs

/-- FORK: status and the new handle. A bad entry at the block it copies in part is BAD_TABLE as well (log 111, DESIGN
CHOICE). -/
def State.sqFork (s : State) (pid ctx n : Nat) (e : Handle) : Nat × Nat × State :=
  match s.pool? pid e.pool with
  | none => (psBadPool, 0, s)
  | some x =>
    match s.pool? pid x.mpool with
    | none => (psBadPool, 0, s)
    | some mp =>
      let tpb := tpbOf x e.tshift
      let nsb := needOf x e.tshift n
      let shared := n / tpb
      let part := nsb - shared
      let blocks := (List.range nsb).map fun bi => s.blockOf x mp e bi
      let old := blocks.filterMap id
      if e.len < n then (psBadArg, 0, s)
      else if blocks.any (·.isNone) then (psBadTable, 0, s)
      else match s.freeHandle pid with
        | (none, s) => (psNoHandle, 0, s)
        | (some i, s) =>
          match x.addRefs (old.take shared) with
          | none => (psRefLimit, 0, s)
          | some _ =>
            match s.lacks pid e.pool part x.mpool (1 + leavesOf nsb) with
            | some p => (psEmpty, 0, s.countEmpty pid p)
            | none =>
              let s := s.modPool pid e.pool fun y => (y.addRefs (old.take shared)).getD y
              let (root, s) := s.takeBlock pid x.mpool
              let (ls, s) := s.takeBlocks pid x.mpool 0 (leavesOf nsb)
              let (bs, s) := s.takeBlocks pid e.pool 0 part
              let s := (s.blankTable mp root 256).writeLeaves mp root ((List.range ls.length).zip ls)
              let s := match bs, old.drop shared with
                | b :: _, o :: _ => s.copyPhys (x.pa o) (x.pa b) x.size
                | _, _ => s
              let e' : Handle := { e with root := root, nsb := nsb, len := n, rsv := 0, rsvM := 0, owner := ctx }
              let s := s.writeBlocks mp e' 0 (old.take shared ++ bs)
              let (h, s) := s.newHandle pid i e'
              (psOk, h, s)

/-- Data blocks bi, n of them, released and their entries emptied; bad ones are skipped and, with `cnt`, counted in the data
pool (log 47, DEDUCED); a leaf table that cannot be found is counted by its root entry (R425). A used entry of a leaf table becomes
0xFFFF_FFFF (log 158, DESIGN CHOICE). -/
def State.releaseData (s : State) (cnt : Bool) (pid : Nat) (x mp : Pool) (e : Handle) (bi : Nat) : Nat → State
  | 0 => s
  | n + 1 =>
    let s := match s.leafOf mp e bi with
      | none => s
      | some l =>
        let b := s.leafEntry mp l (bi % 1024)
        let s := if b < x.nblk then (s.releaseBlock pid e.pool b).2 else if cnt then s.countBad pid e.pool else s
        s.setEntry mp l (bi % 1024) noBlock
    s.releaseData cnt pid x mp e (bi + 1) n

/-- Leaf tables i and on, n of them, released; bad root entries are skipped and, with `cnt`, counted in MPOOL. A used entry of the
root becomes 0xFFFF_FFFF (log 158, DESIGN CHOICE). -/
def State.releaseLeaves (s : State) (cnt : Bool) (pid : Nat) (x mp : Pool) (e : Handle) (i : Nat) : Nat → State
  | 0 => s
  | n + 1 =>
    let l := s.rootEntry mp e.root i
    let s := if l < mp.nblk then (s.releaseBlock pid x.mpool l).2 else if cnt then s.countBad pid x.mpool else s
    (s.setEntry mp e.root i noBlock).releaseLeaves cnt pid x mp e (i + 1) n

/-- TRIM of entry i to n positions. -/
def State.sqTrim (s : State) (pid i n : Nat) (e : Handle) : Nat × State :=
  match s.pool? pid e.pool with
  | none => (psBadPool, s)
  | some x =>
    match s.pool? pid x.mpool with
    | none => (psBadPool, s)
    | some mp =>
      if e.len < n then (psBadArg, s)
      else
        let nsb := needOf x e.tshift n
        let s := s.releaseData true pid x mp e nsb (e.nsb - nsb)
        let s := if nsb < e.nsb ∧ nsb % 1024 ≠ 0 ∧ s.leafOf mp e nsb = none then s.countBad pid x.mpool else s
        let s := s.releaseLeaves true pid x mp e (leavesOf nsb) (leavesOf e.nsb - leavesOf nsb)
        (psOk, s.setHandle pid i { e with len := n, nsb := nsb })

/-- A sequence's reservation goes back to its pools (R107, R138). -/
def State.returnReservation (s : State) (pid i : Nat) (e : Handle) : State :=
  match s.pool? pid e.pool with
  | none => s
  | some x =>
    let s := s.modPool pid e.pool fun y => { y with resv := y.resv - (e.rsv - e.rsvM) }
    let s := s.modPool pid x.mpool fun y => { y with resv := y.resv - e.rsvM }
    s.setHandle pid i { e with rsv := 0, rsvM := 0 }

/-- The entry after a drop (R105). -/
def Handle.dropped (e : Handle) : Handle :=
  { e with gen := if e.gen = 0xFFFFF then e.gen else e.gen + 1, state := if e.gen = 0xFFFFF then hsDead else hsFree
           nsb := 0, len := 0, rsv := 0, rsvM := 0 }

/-- DROP of entry i: BAD_POOL when one of its pools cannot be reached (R18). -/
def State.sqDrop (s : State) (pid i : Nat) (e : Handle) : Nat × State :=
  match s.pool? pid e.pool with
  | none => (psBadPool, s)
  | some x =>
    match s.pool? pid x.mpool with
    | none => (psBadPool, s)
    | some mp =>
      let s := s.returnReservation pid i e
      let s := s.releaseData true pid x mp e 0 e.nsb
      let s := s.releaseLeaves true pid x mp e 0 (leavesOf e.nsb)
      let s := (s.releaseBlock pid x.mpool e.root).2
      (psOk, s.setHandle pid i e.dropped)

/-- A move of a LIVE or SPILLED sequence to another pool (R110): every block that a good entry names is copied, bad
entries of root and leaves become none (R425), and the blocks it leaves are released (log 23, DEDUCED). A pool that cannot
supply the blocks answers EMPTY: it is named. -/
def State.moveSequence (s : State) (pid i dst state : Nat) (e : Handle) : Except (Option Nat) State :=
  match s.pool? pid e.pool, s.pool? pid dst with
  | some x, some y =>
    match s.pool? pid x.mpool, s.pool? pid y.mpool with
    | some mp, some mq =>
      let old := (List.range e.nsb).map fun bi => s.blockOf x mp e bi
      let good := old.filterMap id
      let leaves := (List.range (leavesOf e.nsb)).filter fun i => (s.leafOf mp e (1024 * i)).isSome
      match s.lacks pid dst good.length y.mpool (1 + leaves.length) with
      | some k => .error (some k)
      | none =>
        let s := s.recordTables pid mp e (s.entriesOf mp e 0 e.nsb)
        let (root, s) := s.takeBlock pid y.mpool
        let (ls, s) := s.takeBlocks pid y.mpool 0 leaves.length
        let (bs, s) := s.takeBlocks pid dst 0 good.length
        let s := (s.blankTable mq root 256).writeLeaves mq root (leaves.zip ls)
        let s := (good.zip bs).foldl (fun s z => s.copyPhys (x.pa z.1) (y.pa z.2) x.size) s
        let nums := (old.foldl (fun (a : List Nat × List Nat) o => match o, a.2 with
          | some _, b :: r => (a.1 ++ [b], r)
          | _, r => (a.1 ++ [noBlock], r)) ([], bs)).1
        let s := s.returnReservation pid i e
        let s := s.releaseData false pid x mp e 0 e.nsb
        let s := s.releaseLeaves false pid x mp e 0 (leavesOf e.nsb)
        let s := (s.releaseBlock pid x.mpool e.root).2
        let e' : Handle := { e with pool := dst, root := root, state := state, rsv := 0, rsvM := 0 }
        .ok ((s.writeBlocks mq e' 0 nums).setHandle pid i e')
    | _, _ => .error none
  | _, _ => .error none

/-! ### Engine requests -/

/-- An instruction whose result an engine of the package writes (R98, R118): it is outstanding until then. -/
def engineIssue (i : Instr) (mj : Major) (f : LForm) (s : State) : Res :=
  match s.path? with
  | none => .fault .noThread
  | some (p, s) =>
    let n := codedLen false f
    if (p.active f.g).isEmpty then .next (p.retire s n [])
    else if p.countFull s then s.hold
    else
      let t := p.w.ctl
      let (par, s) := p.startOp s
      let (tag, s) := s.tag
      let p := p.reload s
      let w := p.pushOut p.w 0 { tag := tag, left := f.la.toNat, ready := false, writes := [],
                                  owes := owesOf mj f, reissue := none }
      let r : EngineReq := { core := w.id.core, slot := w.id.slot, pid := w.id.pid, ctx := w.id.ctx, tag := tag, pc := p.pc, i := i
                             a := BitVec.ofNat 64 (p.opA t mj f), b := BitVec.ofNat 64 (p.opB t mj f)
                             c := BitVec.ofNat 64 (p.opC t mj f), parity := par }
      .next { s.setWg (p.advance w n) with engines := s.engines ++ [r] }

/-- A request is answered: its thread receives the results. -/
def State.answer (s : State) (r : EngineReq) (ws : List RegWrite) : State :=
  let s := { s with engines := s.engines.filter fun x => x.tag != r.tag }
  (s.modWg r.core r.slot fun w => w.receive true 0 0 r.tag ws).endOp r.core r.slot r.parity

/-- A request fails with a cause of its control thread (R104, R389). -/
def State.refuse (s : State) (r : EngineReq) (c : Cause) : State :=
  let s := s.answer r []
  match s.wg? r.core r.slot with
  | none => s
  | some w =>
    let (n, s) := s.deliver w.id c r.pc.toNat 0 0 1 none
    s.setWg { w with ctlSusp := .fault n, ctlReplay := none }

/-- The instance that serves a request (R98); a request that names no pool goes to the one of the partition's home die. -/
def State.instanceOf (s : State) (r : EngineReq) : Nat :=
  let ofPool := fun n => match s.pool? r.pid n with | some x => if x.tier = 0 then x.die else 4 | none => r.pid % 4
  let ofHandle := match s.handleEntry r.pid r.a.toNat with | some e => ofPool e.2.pool | none => r.pid % 4
  match r.i with
  | .balloc f | .bfreeRel f | .bfreeAddref f | .sqopCreate f => ofPool (f.w2.toNat % 64)
  | _ => ofHandle

/-- Whether a request is for a pool engine. -/
def isPoolReq (r : EngineReq) : Bool :=
  match r.i with
  | .balloc _ | .bfreeRel _ | .bfreeAddref _ | .sqopCreate _ | .sqopAppend _ | .sqopXlate _ | .sqopFork _ | .sqopTrim _
  | .sqopDrop _ => true
  | _ => false

/-- The destination register of a request. -/
def reqD (r : EngineReq) : BitVec 6 := match coded r.i with | some (_, _, f) => f.d | none => 0

/-- A status alone, in a register of the control thread. -/
def wrStatus (d : BitVec 6) (st : Nat) : List RegWrite :=
  if d.toNat < 32 then [.k d.toNat (BitVec.ofNat 64 st)] else [.s (d.toNat - 32) (BitVec.ofNat 32 st)]

/-- BALLOC (R388). -/
def State.doBalloc (s : State) (r : EngineReq) (n : Nat) : State :=
  match s.pool? r.pid n with
  | none => s.answer r (wrPair (reqD r) psBadPool 0)
  | some x =>
    if x.avail < 1 then (s.countEmpty r.pid n).answer r (wrPair (reqD r) psEmpty 0)
    else
      let (b, s) := s.takeBlock r.pid n
      s.answer r (wrPair (reqD r) psOk (x.va b))

/-- BFREE (R388). -/
def State.doBfree (s : State) (r : EngineReq) (n : Nat) (add : Bool) : State :=
  let ans := fun (s : State) (st : Nat) => s.answer r (wrStatus (reqD r) st)
  match s.pool? r.pid n with
  | none => ans s psBadPool
  | some x =>
    match x.blockAt r.a.toNat with
    | none => ans s psBadBlock
    | some b =>
      if add then
        (if x.count b = 0 then ans s psNotLive
         else if 65535 ≤ x.count b then ans s psRefLimit
         else ans (s.setPool r.pid n (x.setCount b (x.count b + 1))) psOk)
      else
        let (ok, s) := s.releaseBlock r.pid n b
        ans s (if ok then psOk else psNotLive)

/-- Whether an SQOP reaches the tables of a sequence in pool x. -/
def reachesTables (r : EngineReq) (x : Pool) (e : Handle) : Bool :=
  let n := r.b.toNat
  match r.i with
  | .sqopAppend _ => n != 0 && decide (n ≤ 16384) && decide (e.nsb < needOf x e.tshift (e.len + n))
  | .sqopXlate _ => decide (n < e.len)
  | .sqopFork _ => decide (n ≤ e.len)
  | .sqopTrim _ => decide (n ≤ e.len) && decide (needOf x e.tshift n < e.nsb)
  | _ => true

/-- The table entries that an SQOP reads meet no error, or leave a record; so do tables that lie on a lost die (R18). -/
def State.recordReads (s : State) (r : EngineReq) (e : Handle) : State :=
  match s.pool? r.pid e.pool with
  | none => s
  | some x =>
    match s.pool? r.pid x.mpool with
    | none =>
      match s.poolRec? r.pid x.mpool with
      | some mp => if reachesTables r x e then s.recordTables r.pid mp e [(e.root, 0)] else s
      | none => s
    | some mp =>
      let n := r.b.toNat
      let k := needOf x e.tshift n
      s.recordTables r.pid mp e (match r.i with
        | .sqopAppend _ =>
          if e.nsb % 1024 = 0 ∨ needOf x e.tshift (e.len + n) ≤ e.nsb then [] else [(e.root, e.nsb / 1024)]
        | .sqopXlate _ => if e.len ≤ n then [] else s.entriesOf mp e (n / tpbOf x e.tshift) 1
        | .sqopFork _ => if e.len < n then [] else s.entriesOf mp e 0 k
        | .sqopTrim _ => if e.len < n then [] else s.entriesOf mp e k (e.nsb - k)
        | _ => s.entriesOf mp e 0 e.nsb)

/-- CREATE in a pool whose tables lie on a lost die leaves a record (R18). -/
def State.recordCreate (s : State) (r : EngineReq) (n : Nat) : State :=
  match (s.pool? r.pid n).bind fun x => if (s.pool? r.pid x.mpool).isNone then s.poolRec? r.pid x.mpool else none with
  | some mp => s.post (WgId.ofCtx r.pid r.ctx) { code := cEcc, sub := 3, va := mp.vbase.toNat, lvl := 0, acc := 1 } 0
  | none => s

/-- SQOP on a handle, after the checks of R104; a MOVING entry makes it wait. -/
def State.doSqop (s : State) (r : EngineReq) : State :=
  let h := r.a.toNat
  let n := r.b.toNat
  let d := reqD r
  let bad := s.refuse r { code := cKvHandle, sub := 0, va := h, lvl := 0, acc := 0 }
  match s.handleEntry r.pid h with
  | none => bad
  | some (i, e) =>
    if e.state = hsMoving then s
    else match r.i with
    | .sqopDrop _ =>
      if e.state = hsLive ∨ e.state = hsSpilled then
        let (st, s) := (s.recordReads r e).sqDrop r.pid i e
        s.answer r (wrPair d st 0)
      else bad
    | _ =>
      if e.state ≠ hsLive then bad
      else
        let s := s.recordReads r e
        match r.i with
        | .sqopAppend _ => let (st, s) := s.sqAppend r.pid i n e; s.answer r (wrPair d st 0)
        | .sqopXlate _ =>
          if e.len ≤ n then bad else let (st, x) := s.sqXlate r.pid n e; s.answer r (wrPair d st x)
        | .sqopFork _ => let (st, x, s) := s.sqFork r.pid r.ctx n e; s.answer r (wrPair d st x)
        | _ => let (st, s) := s.sqTrim r.pid i n e; s.answer r (wrPair d st 0)

/-- One operation of a pool engine. -/
def State.doPoolReq (s : State) (r : EngineReq) : State :=
  match r.i with
  | .balloc f => s.doBalloc r (f.w2.toNat % 64)
  | .bfreeRel f => s.doBfree r (f.w2.toNat % 64) false
  | .bfreeAddref f => s.doBfree r (f.w2.toNat % 64) true
  | .sqopCreate f =>
    let (st, h, s) := (s.recordCreate r (f.w2.toNat % 64)).sqCreate r.pid r.ctx (f.w2.toNat % 64) (bitsAt f.w2.toNat 10 6)
    s.answer r (wrPair (reqD r) st h)
  | _ => s.doSqop r

/-- The oldest request of each thread among some. -/
def firstOfEach : List EngineReq → List (Nat × Nat) → List EngineReq
  | [], _ => []
  | r :: rs, seen =>
    if seen.contains (r.core, r.slot) then firstOfEach rs seen else r :: firstOfEach rs ((r.core, r.slot) :: seen)

/-- POOL_ENGINE_OPERATION: an instance carries out one of the requests that can be next: those of one thread arrive in
issue order, those of different threads in any order (R98). -/
def execPoolEngineOperation (inst : Nat) (s : State) : Res :=
  let cands := firstOfEach (s.engines.filter fun r => isPoolReq r && s.instanceOf r == inst) []
  match cands with
  | [] => .next s
  | r :: _ =>
    let (n, s) := s.choose
    .next (s.doPoolReq (nthD r cands (n % cands.length)))

/-! ### The rows -/

/-- BALLOC. -/
def execBalloc (f : LForm) (s : State) : Res := engineIssue (.balloc f) .balloc f s

/-- BFREE.REL. -/
def execBfreeRel (f : LForm) (s : State) : Res := engineIssue (.bfreeRel f) .bfree f s

/-- BFREE.ADDREF. -/
def execBfreeAddref (f : LForm) (s : State) : Res := engineIssue (.bfreeAddref f) .bfree f s

/-- SQOP.CREATE. -/
def execSqopCreate (f : LForm) (s : State) : Res := engineIssue (.sqopCreate f) .sqop f s

/-- SQOP.APPEND. -/
def execSqopAppend (f : LForm) (s : State) : Res := engineIssue (.sqopAppend f) .sqop f s

/-- SQOP.XLATE. -/
def execSqopXlate (f : LForm) (s : State) : Res := engineIssue (.sqopXlate f) .sqop f s

/-- SQOP.FORK. -/
def execSqopFork (f : LForm) (s : State) : Res := engineIssue (.sqopFork f) .sqop f s

/-- SQOP.TRIM. -/
def execSqopTrim (f : LForm) (s : State) : Res := engineIssue (.sqopTrim f) .sqop f s

/-- SQOP.DROP. -/
def execSqopDrop (f : LForm) (s : State) : Res := engineIssue (.sqopDrop f) .sqop f s

end Sys2Proof.Machine
end

