-- ==== Sys2Proof/Machine/Grace.lean ====
section
/-! DEFINITION. Reader sections, epochs and the retire queue (R111 to R123, R390, R392). -/

namespace Sys2Proof.Machine

/-! ### Epoch domains (R111 to R114) -/

/-- The strict partition that holds a cluster, if one does. -/
def State.strictOwner (s : State) (cluster : Nat) : Option Nat :=
  (s.parts.find? fun e => e.2.strict && e.2.clmask.getLsbD cluster).map (·.1)

/-- The domain of a core. -/
def State.domOfCore (s : State) (core : Nat) : Nat :=
  match s.strictOwner (core / 4) with | some n => n + 1 | none => 0

/-- The cores of a domain that can be reached (R18). -/
def State.coresOf (s : State) (dom : Nat) : List Nat :=
  (List.range 288).filter fun c => s.domOfCore c == dom && !(s.cluster (c / 4)).offline

/-- The partitions of a domain. -/
def State.partsOf (s : State) (dom : Nat) : List (Nat × Partition) := s.parts.filter fun e => s.domOf e.1 == dom

/-- R113: every term of a domain's sum of one parity is zero. Hardware readers of R117 never stand between steps. -/
def State.sumZero (s : State) (dom par : Nat) : Bool :=
  ((s.coresOf dom).all fun c => (s.core c).count par == 0)
    && (s.partsOf dom).all fun p => (if par = 0 then p.2.held0 else p.2.held1) == 0

/-- R114. -/
def State.canAdvance (s : State) (dom : Nat) : Bool :=
  let d := s.domain dom
  s.sumZero dom ((d.e.toNat + 1) % 2) && ((s.coresOf dom).all fun c => (s.core c).eSeen == d.e.toNat)
    && ((s.partsOf dom).any fun p => !p.2.rq.isEmpty) && (d.e == 0 || decide (d.lastAdv + 64 ≤ s.cycle))

/-- EPOCH_ADVANCE: E moves on, and each fabric group of the domain's partitions is told (R114, R123). -/
def execEpochAdvance (dom : Nat) (s : State) : Res :=
  if s.canAdvance dom then
    let d := s.domain dom
    let groups := (((s.partsOf dom).filter (·.2.fabric)).map fun e => e.2.fabKey e.1).eraseDups
    .next { s with domains := tabSet s.domains dom { e := d.e + 1, lastAdv := s.cycle }
                   fabric := { s.fabric with epochTx := s.fabric.epochTx ++ groups } }
  else .next s

/-- EPOCH_RECEIVE: a core receives its domain's epoch as one event (R112). -/
def execEpochReceive (core : Nat) (s : State) : Res :=
  .next (s.modCore core fun c => { c with eSeen := (s.domain (s.domOfCore core)).e.toNat })

/-! ### Reader sections (R112, R390) -/

/-- RSENTER and RSLEAVE: the check fails for the whole path; an increment past 4,095 waits. -/
def sectionOp (enter : Bool) (g : Guard) (s : State) : Res :=
  match s.path? with
  | none => .fault .noThread
  | some (p, s) =>
    let act := p.active g
    let put := fun (w : Wg) (l : Nat) (t : Thread) => if p.ctl then { w with ctl := t } else w.setLane p.grp l t
    let core := p.w.id.core
    if act.any fun e => e.2.rdepth == (if enter then 15 else 0) then p.illegalInstr s
    else if enter then
      let par := (s.core core).eSeen % 2
      let n := (act.filter fun e => e.2.rdepth == 0).length
      if n != 0 && decide (4095 < (s.core core).count par + n) then s.hold
      else
        let w := act.foldl (fun w e => put w e.1
          { e.2 with rdepth := e.2.rdepth + 1, rpar := if e.2.rdepth = 0 then par else e.2.rpar }) p.w
        .next ((s.modCore core fun c => c.addCount par (n : Int)).setWg (p.advance w 4))
    else
      let w := act.foldl (fun w e => put w e.1 { e.2 with rdepth := e.2.rdepth - 1 }) p.w
      let s := act.foldl (fun s e => if e.2.rdepth = 1 then s.modCore core fun c => c.addCount e.2.rpar (-1) else s) s
      .next (s.setWg (p.advance w 4))

/-- RSENTER. -/
def execRsenter (f : SForm) (s : State) : Res := sectionOp true f.g s

/-- RSLEAVE. -/
def execRsleave (f : SForm) (s : State) : Res := sectionOp false f.g s

/-! ### RETIRE (R118 to R120, R392) -/

/-- ACT and FAB of a RETIRE. -/
def rtAct (f : LForm) : Nat := f.f.toNat % 4
def rtFab (f : LForm) : Bool := bitAt f.f.toNat 2

/-- R119, and the SIZE rules of R392. -/
def State.retireOk (s : State) (pid : Nat) (f : LForm) (a b c : Nat) : Bool :=
  let okPool := match s.poolRec? pid (c % 64) with
    | none => false
    | some x => c / 64 == 0 && b % x.size == 0 && match x.blockAt a with
        | some k => decide (k + b / x.size ≤ x.nblk)
        | none => false
  let fabOk := match s.part? pid with | some p => p.fabric | none => false
  b / 2 ^ 32 == 0 && b != 0
    && (match rtAct f with
        | 0 => okPool
        | 1 => c % 16 == 0 && decide (c < 2 ^ 57)
        | 2 => c % 8 == 0
        | _ => true)
    && (!rtFab f || fabOk)

/-- RETIRE: BAD_ARG at once, otherwise the entry is on its way to the root. -/
def execRetire (f : LForm) (s : State) : Res :=
  match s.path? with
  | none => .fault .noThread
  | some (p, s') =>
    let t := p.w.ctl
    if (p.active f.g).isEmpty || s'.retireOk p.w.id.pid f (p.opA t .retire f) (p.opB t .retire f) (p.opC t .retire f) then
      engineIssue (.retire f) .retire f s
    else
      let (w, s) := p.results s' (p.advance p.w (codedLen false f)) f.la.toNat [(0, wrStatus f.d psBadArg)] fun _ => none
      .next (s.setWg w)

/-- The RETIRE requests of a partition. -/
def State.retireReqs (s : State) (pid : Nat) : List EngineReq :=
  s.engines.filter fun r => r.pid == pid && match r.i with | .retire _ => true | _ => false

/-- RETIRE_STAMP: a RETIRE reaches the device root and its entry is appended with its stamps; it waits while 1,024 are
unreleased (R118 to R120, R123). -/
def execRetireStamp (pid : Nat) (s : State) : Res :=
  match s.part? pid, firstOfEach (s.retireReqs pid) [] with
  | some p, r0 :: rs =>
    if 1024 ≤ p.rq.length then .next s
    else
      let (n, s) := s.choose
      let r := nthD r0 (r0 :: rs) (n % (rs.length + 1))
      match r.i with
      | .retire f =>
        let e : Retire := { epoch := (s.domain (s.domOf pid)).e, addr := r.a, size := r.b.toNat % 2 ^ 32, arg := r.c
                            ctx := r.ctx, fab := rtFab f, act := rtAct f, gstamp := (s.fabGroup (p.fabKey pid)).g }
        .next ((s.modPart pid fun q => { q with rq := q.rq ++ [e] }).answer r (wrStatus f.d psOk))
      | _ => .next s
  | _, _ => .next s

/-! ### Release (R121, R123) -/

/-- The die from which a partition's own agents reach memory. -/
def homeDie (pid : Nat) : Nat := pid % 4

/-- The one who translates for an agent of a context. -/
def agentOf (pid ctx : Nat) : Who := { pid := pid, ctx := ctx, die := homeDie pid }

/-- An agent's arrival of n bytes in BYTES mode, of 1 in ARR mode (R299). -/
def State.agentArrive (s : State) (who : Who) (ea n : Nat) : Except Cause Unit × State :=
  match s.agentXlate who ea .atomic 5 with
  | (.error c, s) => (.error c, s)
  | (.ok (.pa pa), s) =>
    match s.eccSub pa 16 true with
    | some sub => (.error { code := cEcc, sub := sub, va := ea, lvl := 0, acc := 2 }, s)
    | none =>
      let v := s.phys pa 16
      if lvBad v then (.error (levelBounds ea .atomic), s)
      else (.ok (), s.setPhys pa 16 (lvArrive v (if lvMode v then n else 1)))
  | (.ok _, s) => (.ok (), s)

/-- Blocks k and on of a pool released, n of them. -/
def State.releaseRange (s : State) (pid pool k : Nat) : Nat → State
  | 0 => s
  | n + 1 => (s.releaseBlock pid pool k).2.releaseRange pid pool (k + 1) n

/-- The action of an entry; an unresolved cause abandons it with a record (R121). -/
def State.retireAction (s : State) (pid : Nat) (e : Retire) : State :=
  let who := agentOf pid e.ctx
  let arg := e.arg.toNat
  let fail := fun (s : State) (c : Cause) => s.post (WgId.ofCtx pid e.ctx) { c with va := arg } 0
  match e.act with
  | 0 =>
    match s.pool? pid (arg % 64) with
    | none => match s.poolRec? pid (arg % 64) with
      | some _ => fail s { code := cEcc, sub := 3, va := arg, lvl := 0, acc := 2 }
      | none => s
    | some x => match x.blockAt e.addr.toNat with
      | some k => s.releaseRange pid (arg % 64) k (e.size / x.size)
      | none => s
  | 1 => match s.agentArrive who arg e.size with
    | (.ok _, s) => s
    | (.error c, s) => fail s c
  | 2 => match s.agentWrite who arg (bytesOf 8 e.epoch.toNat) with
    | (.ok _, s) => s.raiseVf pid (2 + e.ctx)
    | (.error c, s) => fail s c
  | _ => s

/-- Whether the oldest entry is eligible. -/
def State.eligible (s : State) (pid : Nat) (p : Partition) (e : Retire) : Bool :=
  decide (e.epoch.toNat + 2 ≤ (s.domain (s.domOf pid)).e.toNat)
    && (!e.fab || decide (e.gstamp + 2 ≤ (s.fabGroup (p.fabKey pid)).g))

/-- RETIRE_RELEASE: the oldest entry, once eligible, performs its action and leaves the queue. -/
def execRetireRelease (pid : Nat) (s : State) : Res :=
  match s.part? pid with
  | none => .next s
  | some p =>
    match p.rq with
    | [] => .next s
    | e :: _ =>
      if s.eligible pid p e then .next ((s.retireAction pid e).modPart pid fun q => { q with rq := q.rq.tail })
      else .next s

/-! ### Fabric epochs (R123) -/

/-- G moves on once every device of the group has reported twice; of a group without devices it never does (log 148, DESIGN CHOICE). -/
def FabGroup.settle (x : FabGroup) : FabGroup :=
  if !x.members.isEmpty && x.members.all fun d => decide (2 ≤ (tabGet x.reports d).getD 0) then
    { x with g := x.g + 1, reports := [] }
  else x

/-- EPOCH_REPORT: a device's report reaches the counter group; one of this device is one it has sent. -/
def execEpochReport (group dev : Nat) (s : State) : Res :=
  let x := s.fabGroup group
  let x' := ({ x with reports := tabSet x.reports dev ((tabGet x.reports dev).getD 0 + 1) } : FabGroup).settle
  if dev = s.fabric.devId then
    if s.fabric.epochTx.contains group then
      .next ({ s with fabric := { s.fabric with epochTx := s.fabric.epochTx.erase group } }.setFabGroup group x')
    else .next s
  else if x.members.contains dev then .next (s.setFabGroup group x')
  else .next s

/-- FABRIC_DEVICE_REMOVE: a device leaves the group, which counts as its reports for the present G. -/
def execFabricDeviceRemove (group dev : Nat) (s : State) : Res :=
  let x := s.fabGroup group
  .next (s.setFabGroup group
    ({ x with members := x.members.filter fun d => d != dev, arrived := x.arrived.filter fun d => d != dev } : FabGroup).settle)

end Sys2Proof.Machine
end

