-- ==== Sys2Proof/Machine/System.lean ====
section
/-! DEFINITION. Publication, routing counters, the control registers and debug commands, waits, and SYS (R187, R188, R391,
R393 to R395, R398, R404, R405). -/

namespace Sys2Proof.Machine

/-- PUBLISH. -/
def execPublish (f : LForm) (s : State) : Res := memOp (.publish f) .publish f s

/-! ### Routing counters (R393, R394) -/

/-- The exact sums of the increments by counter. -/
def routeSums (p : Path) (f : LForm) : Tab Nat :=
  (p.active f.g).foldl (fun t e =>
    let k := p.opA e.2 .route f % 256
    tabSet t k ((tabGet t k).getD 0 + p.opB e.2 .route f % 2 ^ 32)) []

/-- ROUTE: one saturating update of each counter named. -/
def execRoute (f : LForm) (s : State) : Res :=
  match s.path? with
  | none => .fault .noThread
  | some (p, s) =>
    let n := p.w.id.core / 4
    let cl := s.cluster n
    let counters := (routeSums p f).foldl (fun c e =>
      cellSet c e.1 (BitVec.ofNat 32 (min ((cellGet c e.1).toNat + e.2) (2 ^ 32 - 1)))) cl.counters
    .next (p.retire (s.setCluster n { cl with counters := counters }) (codedLen false f) [])

/-- RCSNAP: its checks, the snapshot in scratchpad, the sum in d (R394). -/
def execRcsnap (f : LForm) (s : State) : Res :=
  match s.path? with
  | none => .fault .noThread
  | some (p, s) =>
    let n := codedLen false f
    if (p.active f.g).isEmpty then .next (p.retire s n [])
    else
      let (first, count, keep) := (f.w2.toNat % 256, bitsAt f.w2.toNat 16 8, bitAt f.w2.toNat 17)
      let off := p.opA p.w.ctl .rcsnap f % 2 ^ 32
      if decide (count = 0) || decide (256 < first + count) then p.illegalInstr s
      else if off % 4 != 0 then .next (p.raise s (Cause.mk cMisaligned 0 off 0 1) false)
      else if !p.w.rangeOk off (4 * count) then .next (p.raise s (Cause.mk cPermission 2 off 0 1) false)
      else
        let k := p.w.id.core / 4
        let cl := s.cluster k
        let xs := (List.range count).map fun i => (cellGet cl.counters (first + i)).toNat
        let s := if keep then s else s.setCluster k { cl with counters := cellClear cl.counters first (first + count) }
        let w := { p.w with scratch := scratchWrite p.w.scratch off (xs.flatMap (bytesOf 4)) }
        let (w, s) := p.results s (p.advance w n) f.la.toNat [(0, p.wr64 f.d xs.sum)] fun _ => none
        .next (s.setWg w)

/-! ### Control registers (Tables 6-3, 6-7, 14-6, 14-7) -/

/-- The core cycles a step has counted (R149). -/
def StepRun.cycles (r : StepRun) (now : Nat) : Nat := r.count + match r.since with | some t => now - t | none => 0

/-- The mask of halted groups of a workgroup. -/
def Wg.haltedMask (w : Wg) : Nat := ((List.range w.ngroups).map fun g => b2n (w.group g).halted * 2 ^ g).sum

/-- DBGHALT: HALTED, and ALLSTOP when every existing group is halted. -/
def Wg.dbghalt (w : Wg) : Nat := w.haltedMask + (if w.haltedMask + 1 = 2 ^ w.ngroups then 2 ^ 63 else 0)

/-- FIFOSTAT. -/
def Wg.fifostat (w : Wg) : Nat :=
  w.fifo0.data.length / 16 + w.fifo0.head * 2 ^ 16 + w.fifo1.data.length / 16 * 2 ^ 32 + w.fifo1.head * 2 ^ 48

/-- WATCHCTL as it reads: LOG2SZ above 40 reads as 40. -/
def watchctlRead (x : Nat) : Nat := x % 256 + min (bitsAt x 15 8) 40 * 256

/-- A control register's value. -/
def State.csr (s : State) (w : Wg) (n : Nat) : Nat :=
  let c := w.csrs
  let run := (s.ctx? w.id.pid w.id.ctx).bind (·.run)
  match n with
  | 0x00 => s.asidOf w.id.pid w.id.ctx * 2 ^ 48 + w.id.pid * 2 ^ 44 + w.id.ctx * 2 ^ 39
  | 0x01 => match run with | some r => r.deadline.toNat | none => 2 ^ 64 - 1
  | 0x02 => match run with | some r => r.cycles s.cycle | none => 0
  | 0x03 => c.trapvec.toNat
  | 0x04 => c.trapcause.toNat
  | 0x05 => c.trappc.toNat
  | 0x06 => c.trapinfo.toNat
  | 0x07 => b2n c.kill * 2 + b2n c.hm
  | 0x08 => c.tscr0.toNat
  | 0x09 => c.tscr1.toNat
  | 0x10 => b2n c.stopall * 2 + b2n c.att
  | 0x11 => w.dbghalt
  | 0x13 => c.watcha.toNat
  | 0x14 => watchctlRead c.watchctl.toNat
  | 0x18 => c.fifocfg.toNat
  | 0x19 => w.fifostat
  | 0x20 => c.accmask.toNat
  | _ => 0

/-- CSRR. -/
def execCsrr (f : LForm) (s : State) : Res := compute s f.g 12 fun p _ => p.wr64 f.d (s.csr p.w (csrNumber f))

/-- A plain write of a control register: only its RW fields change; the others keep theirs (R7). -/
def Csrs.write (c : Csrs) (n : Nat) (v : DWord) : Csrs :=
  match n with
  | 0x03 => { c with trapvec := v &&& ~~~3#64 }
  | 0x05 => { c with trappc := v }
  | 0x07 => { c with kill := v.getLsbD 1 }
  | 0x08 => { c with tscr0 := v }
  | 0x09 => { c with tscr1 := v }
  | 0x10 => { c with stopall := v.getLsbD 1, att := v.getLsbD 0 }
  | 0x13 => { c with watcha := v &&& 0x1FF_FFFF_FFFF_FFFF#64 }
  | 0x14 => { c with watchctl := v &&& 0xFF07#64 }
  | _ => c

/-- An instruction of the control thread that changes its workgroup: `g` gives the new one from the operand. -/
def ctlOp (mj : Major) (f : LForm) (g : Wg → DWord → Wg) (s : State) : Res :=
  match s.path? with
  | none => .fault .noThread
  | some (p, s) =>
    let n := codedLen false f
    if (p.active f.g).isEmpty then .next (p.retire s n [])
    else .next (s.setWg (p.advance (g p.w (BitVec.ofNat 64 (p.opA p.w.ctl mj f))) n))

/-- CSRW. -/
def execCsrw (f : LForm) (s : State) : Res :=
  ctlOp .csrw f (fun w v => { w with csrs := w.csrs.write (csrNumber f) v }) s

/-- The segments FIFOCFG enables for FIFO k. -/
def fifoSeg (cfg : DWord) (k : Nat) : Option Nat :=
  if bitAt cfg.toNat (16 * k + 15) then some (bitsAt cfg.toNat (16 * k + 5) (16 * k)) else none

/-- R171: the write is ignored. -/
def fifoCfgBad (w : Wg) (cfg : DWord) : Bool :=
  let out := fun k => match fifoSeg cfg k with | some j => decide (w.id.scr / 16 ≤ j) | none => false
  out 0 || out 1 || ((fifoSeg cfg 0).isSome && fifoSeg cfg 0 == fifoSeg cfg 1)

/-- A segment set to zero. -/
def zeroSeg (c : Cells 8) (j : Option Nat) : Cells 8 :=
  match j with | some j => cellClear c (65536 * j) (65536 * j + 65536) | none => c

/-- FIFO k takes the segment the new FIFOCFG gives it: a change zeroes the segments and empties the FIFO (R170), also
where a segment goes from one FIFO to the other (log 150, DESIGN CHOICE). HEAD is then 0 (log 161, DESIGN CHOICE). -/
def Wg.switchFifo (w : Wg) (cfg : DWord) (k : Nat) : Wg :=
  let (a, b) := (fifoSeg w.csrs.fifocfg k, fifoSeg cfg k)
  if a = b then w
  else ({ w with scratch := zeroSeg (zeroSeg w.scratch a) b } : Wg).setFifo k { head := 0, data := [] }

/-- The segments whose mode a new FIFOCFG changes. -/
def Wg.fifoChanges (w : Wg) (cfg : DWord) : List Nat :=
  [0, 1].flatMap fun k =>
    let (a, b) := (fifoSeg w.csrs.fifocfg k, fifoSeg cfg k)
    if a = b then [] else a.toList ++ b.toList

/-- Whether n bytes of scratchpad reach into one of some segments. -/
def inSegs (segs : List Nat) (off n : Nat) : Bool :=
  n != 0 && segs.any fun k => decide (off < 65536 * (k + 1)) && decide (65536 * k < off + n)

/-- Whether an element of a descriptor, or the scale byte of its block, lies in one of some segments. -/
def Desc.inSegs (d : Desc) (segs : List Nat) (cs : List Nat) : Bool :=
  match d.addrOf d.sp cs with
  | some ea => Machine.inSegs segs ea (max 1 (d.ew / 8)) || (fmtBlock d.fmt && Machine.inSegs segs (d.scaleAddr cs) 1)
  | none => false

/-- Whether a copy has accesses to some segments still to make; rows not yet known may lie anywhere within BASE and LIMIT. -/
def CopyOp.reaches (op : CopyOp) (segs : List Nat) : Bool :=
  let c := op.cmd
  let any := fun (d : Desc) (at_ : Nat → Option (List Nat)) => d.sp && (List.range (cmCount c)).any fun e =>
    decide (op.next ≤ e) && match at_ e with | some cs => d.inSegs segs cs | none => false
  (if indexed c op.gather op.src then op.src.sp && inSegs segs op.src.base (op.src.limit - op.src.base)
   else any op.src fun e => op.src.coords (cmSrc c op.gather e 0))
    || any op.dst (fun e => op.dst.coords (cmDst c e))
    || (op.gather && cmIdxsp c && inSegs segs (cmIdxa c) (4 * cmBox c (cmIdim c)))

/-- Whether a matrix operation has accesses to some segments. -/
def MxOp.reaches (op : MxOp) (segs : List Nat) : Bool :=
  match coded op.i with
  | some (mj, _, f) =>
    let (a, b) := (op.a.toNat, op.b.toNat)
    let (n0, n1) := mxDims mj f a
    ((mxRanges mj f a).any fun r => inSegs segs r.1 r.2.1)
      || (mxReadsDesc mj a && op.desc.sp && (List.range n1).any fun (r : Nat) => (List.range n0).any fun (k : Nat) =>
        match op.desc.boxAt (mxC0 b + k) (mxC1 b + r) with | some cs => op.desc.inSegs segs cs | none => false)
  | none => false

/-- Whether an access to some segments that a workgroup has issued is not yet performed: one of its engine operations'. Every other
access to a scratchpad is performed as it issues. -/
def State.reaches (s : State) (w : Wg) (segs : List Nat) : Bool :=
  let c := s.core w.id.core
  (c.copies.any fun o => o.slot == w.id.slot && o.reaches segs)
    || (c.queues.any fun e => e.2.any fun o => o.slot == w.id.slot && o.reaches segs)
    || match w.mailbox with | some (off, _) => inSegs segs off 32 | none => false

/-- CSRW of FIFOCFG (R170, R171). It waits for the accesses to the segments concerned. -/
def execCsrwFifocfg (f : LForm) (s : State) : Res :=
  match s.path? with
  | none => .fault .noThread
  | some (p, s') =>
    let cfg := BitVec.ofNat 64 (p.opA p.w.ctl .csrw f) &&& 0x803F803F#64
    if !(p.active f.g).isEmpty && !fifoCfgBad p.w cfg && s'.reaches p.w (p.w.fifoChanges cfg) then s'.hold
    else ctlOp .csrw f (fun w _ =>
      if fifoCfgBad w cfg then w
      else
        let w := (w.switchFifo cfg 0).switchFifo cfg 1
        { w with csrs := { w.csrs with fifocfg := cfg } }) s

/-- CSRW of ACCMASK (R174): tiles gained are filled with +0.0, or nothing changes. -/
def execCsrwAccmask (f : LForm) (s : State) : Res :=
  match s.path? with
  | none => .fault .noThread
  | some (p, s) =>
    let n := codedLen false f
    let v := BitVec.ofNat 64 (p.opA p.w.ctl .csrw f)
    let others := s.wgs.any fun e => e.2.id.core == p.w.id.core && e.2.id.slot != p.w.id.slot && (e.2.csrs.accmask &&& v) != 0
    if (p.active f.g).isEmpty || others || decide (16 < popcount 64 v.toNat) then .next (p.retire s n [])
    else
      let gain := v &&& ~~~p.w.csrs.accmask
      let s := s.modCore p.w.id.core fun k =>
        (List.range 64).foldl (fun k i => if gain.getLsbD i
          then { k with tiles := cellClear k.tiles (i * 4096) (i * 4096 + 4096) } else k) k
      .next (s.setWg (p.advance { p.w with csrs := { p.w.csrs with accmask := v } } n))

/-! ### Debug halting (R187, R188) -/

/-- A group halted; a step in it ends. -/
def Group.halt (x : Group) : Group := { x with halted := true, stepping := false }

/-- The lanes stopped at a BKPT go past it: it counts as executed (R186). -/
def Wg.passBreaks (w : Wg) (g : Nat) : Wg :=
  let x := w.group g
  let w := (lanesOf x.brk).foldl (fun w l => w.modLane g l fun t => { t with pc := t.pc + 4 }) w
  w.setGroup g { x with brk := 0 }

/-- DBGCTL written with STOPALL = 1: every group halts (R187). -/
def execDbgStopall (f : LForm) (s : State) : Res :=
  ctlOp .csrw f (fun w v =>
    let w := { w with csrs := w.csrs.write 0x10 v }
    (List.range w.ngroups).foldl (fun w g => w.setGroup g (w.group g).halt) w) s

/-- The group a DBGCMD names, if it exists and is halted. -/
def Wg.haltedGroup (w : Wg) (v : DWord) : Option Nat :=
  let g := v.toNat % 32
  if g < w.ngroups ∧ (w.group g).halted then some g else none

/-- A halted group runs again. -/
def Wg.resumeGroup (w : Wg) (g : Nat) : Wg :=
  let w := w.passBreaks g
  w.setGroup g { w.group g with halted := false, stepping := false }

/-- DBGCMD RESUME. -/
def execDbgcmdResume (f : LForm) (s : State) : Res :=
  ctlOp .csrw f (fun w v => match w.haltedGroup v with | some g => w.resumeGroup g | none => w) s

/-- DBGCMD STEP: one issue, after which the group halts again (see `State.endPair`). While it waits for a ready path the group
counts as halted (log 132, DESIGN CHOICE). -/
def execDbgcmdStep (f : LForm) (s : State) : Res :=
  ctlOp .csrw f (fun w v => match w.haltedGroup v with
    | some g => let w := w.passBreaks g; w.setGroup g { w.group g with stepping := true }
    | none => w) s

/-- DBGCMD RESUMEALL. -/
def execDbgcmdResumeall (f : LForm) (s : State) : Res :=
  ctlOp .csrw f (fun w _ => (List.range w.ngroups).foldl (fun w g =>
    if (w.group g).halted then w.resumeGroup g else w) w) s

/-! ### Waits (R404) -/

/-- WAIT.ENG: it issues once every engine operation of the workgroup has completed, an unanswered FETCHW among them. -/
def execWaitEng (f : LForm) (s : State) : Res :=
  match s.path? with
  | none => .fault .noThread
  | some (p, s) =>
    if !(p.active f.g).isEmpty && p.w.engOps != 0 then s.hold
    else .next (p.retire s (codedLen false f) [])

/-- WAIT.CYC. -/
def execWaitCyc (f : LForm) (s : State) : Res :=
  let now := s.cycle
  ctlOp .wait f (fun w v =>
    if v.toNat % 2 ^ 32 = 0 then w else { w with ctl := { w.ctl with wait := .cyc (now + v.toNat % 2 ^ 32) 0 } }) s

/-- WAIT_CYC_EXPIRY: the count has run out. -/
def execWaitCycExpiry (core slot : Nat) (s : State) : Res :=
  .next (s.modWg core slot fun w => match w.ctl.wait with
    | .cyc due _ => if due ≤ s.cycle then { w with ctl := { w.ctl with wait := .none } } else w
    | _ => w)

/-! ### SYS (R405) -/

/-- SYS.TLBINV over some ASIDs and a range: it waits for the accesses that R73 names. -/
def tlbinv (asids : Path → List Nat) (range : Path → Nat × Nat) (f : LForm) (s : State) : Res :=
  match s.path? with
  | none => .fault .noThread
  | some (p, s) =>
    let n := codedLen false f
    if (p.active f.g).isEmpty then .next (p.retire s n [])
    else
      let pid := p.w.id.pid
      let (va, len) := range p
      if (asids p).any fun x => s.remoteIn pid x va len then s.hold
      else
        let s := (asids p).foldl (fun s x => s.invalidate pid x va len) s
        .next ((p.reload s).retire s n [])

/-- The whole of an address space. -/
def wholeSpace : Nat × Nat := (0, 2 ^ 57)

/-- SYS.TLBINV: b bytes from a, or the whole ASID when b = 0. -/
def execSysTlbinv (f : LForm) (s : State) : Res :=
  tlbinv (fun p => [s.asidOf p.w.id.pid p.w.id.ctx]) (fun p =>
    let b := p.opB p.w.ctl .sys f
    if b = 0 then wholeSpace else (p.opA p.w.ctl .sys f, b)) f s

/-- The ASIDs of a partition's contexts. -/
def State.asids (s : State) (pid : Nat) : List Nat :=
  match s.part? pid with | some q => q.ctxs.map (fun (e : Nat × Context) => e.2.asid) | none => []

/-- SYS.TLBINV.PART: PRIVILEGED outside context 0, whatever the guard (R207); else the whole of every ASID of the partition,
since the form names no range (Table 14-1, R405). -/
def execSysTlbinvPart (f : LForm) (s : State) : Res :=
  match s.path? with
  | none => .fault .noThread
  | some (p, s') =>
    if p.w.id.ctx ≠ 0 then .next (p.raise s' (Cause.plain cPrivileged) false)
    else tlbinv (fun p => s.asids p.w.id.pid) (fun _ => wholeSpace) f s

/-- SYS.TDSET (R381). -/
def execSysTdset (f : LForm) (s : State) : Res := memOp (.sysTdset f) .sys f s

/-- FQTAIL − FQHEAD. -/
def Partition.fqUsed (p : Partition) : Nat := (p.fqtail - p.fqhead).toNat

/-- The records on their way to a partition's fault queue and already decided. -/
def State.recordsDecided (s : State) (pid : Nat) : Nat :=
  (s.frecs.filter fun e => e.2.pid == pid && e.2.outcome.isSome).length

/-- SYS.DBG: a record that suspends nothing; it waits at the instruction while the fault queue has no room (R405). -/
def execSysDbg (f : LForm) (s : State) : Res :=
  match s.path? with
  | none => .fault .noThread
  | some (p, s) =>
    let n := codedLen false f
    if (p.active f.g).isEmpty then .next (p.retire s n [])
    else
      let room := match s.part? p.w.id.pid with
        | some q => decide (q.fqUsed + s.recordsDecided p.w.id.pid < 4096)
        | none => true
      if !room then s.hold
      else
        let c : Cause := { code := cBreakpoint, sub := 0, va := p.opA p.w.ctl .sys f, lvl := 0, acc := 0 }
        let s := (s.deliver p.w.id c p.pc.toNat 0 0 1 (some 0)).2
        .next ((p.reload s).retire s n [])

end Sys2Proof.Machine
end

