-- ==== Sys2Proof/Machine/Image.lean ====
section
/-! DEFINITION. Workgroup images (R146, Tables 5-9 and 5-10), and what of a workgroup stands outside its record: its tiles, its
operations in flight, its windows and its reader counts. -/

namespace Sys2Proof.Machine

/-! ### A workgroup with its tiles and operations -/

/-- The cells of the accumulator tiles a mask names. -/
def tilesOf (c : Cells 32) (mask : DWord) : Cells 32 := c.filter fun e => mask.getLsbD (e.1 / 4096)

/-- The matrix operations of a workgroup slot, with their quarters. -/
def Core.opsOf (c : Core) (slot : Nat) : List (Nat × MxOp) :=
  c.queues.flatMap fun e => (e.2.filter fun o => o.slot == slot).map fun o => (e.1, o)

/-- A resident workgroup as its save would take it. -/
def State.savedOf (s : State) (w : Wg) : Saved :=
  let c := s.core w.id.core
  { wg := w, tiles := tilesOf c.tiles w.csrs.accmask, ops := c.opsOf w.id.slot
    copies := c.copies.filter fun o => o.slot == w.id.slot, remotes := s.fabric.out.filter fun r => r.awaited w }

/-- The tiles and operations of a workgroup leave its core; a CLMERGE of it that has arrived has not, any more. -/
def State.clearCore (s : State) (w : Wg) : State :=
  let slot := w.id.slot
  let n := w.id.core / 4
  let qs := ((s.core w.id.core).opsOf slot).filterMap fun e => if e.2.joined then some e.1 else none
  let cl := s.cluster n
  let merges := (cl.merges.map fun e =>
      (e.1, { e.2 with arrivals := e.2.arrivals.filter fun a => !(a.1 == w.id.core && qs.contains a.2) })).filter
    fun e => !e.2.arrivals.isEmpty
  let s := if qs.isEmpty then s else s.setCluster n { cl with merges := merges }
  s.modCore w.id.core fun c => { c with
    tiles := c.tiles.filter fun e => !w.csrs.accmask.getLsbD (e.1 / 4096)
    queues := c.queues.map fun e => (e.1, e.2.filter fun o => o.slot != slot)
    copies := c.copies.filter fun o => o.slot != slot }

/-- The windows a workgroup has opened are closed (R173). -/
def State.closeWindows (s : State) (w : Wg) : State :=
  s.modCore w.id.core fun c => { c with windows := c.windows.filter fun e =>
    !(e.2.pid == w.id.pid && e.2.ctx == w.id.ctx && e.2.wgs == w.id.slot) }

/-- Every thread of a workgroup. -/
def Wg.threads (w : Wg) : List Thread := w.ctl :: w.lanes.map (·.2)

/-- The number of reader counts of a parity that the threads hold (R112). -/
def Wg.readers (w : Wg) (par : Nat) : Nat :=
  (w.threads.filter fun t => t.rdepth != 0 && t.rpar == par).length

/-- The reader counts of a workgroup's threads, added to its core's counters or taken from them. -/
def State.addReaders (s : State) (w : Wg) (sign : Int) : State :=
  s.modCore w.id.core fun c => (c.addCount 0 (sign * w.readers 0)).addCount 1 (sign * w.readers 1)

/-- The same for the partition's HELD counts (Table 4-5). -/
def State.addHeld (s : State) (w : Wg) (sign : Int) : State :=
  s.modPart w.id.pid fun p =>
    { p with held0 := (p.held0 + sign * w.readers 0).toNat, held1 := (p.held1 + sign * w.readers 1).toNat }

/-- The reader counts of the operations in flight of a workgroup go (R116). -/
def State.dropOps (s : State) (w : Wg) : State :=
  let x := s.savedOf w
  let ps := x.ops.filterMap (·.2.parity) ++ x.copies.filterMap (·.parity)
    ++ (s.engines.filter fun r => r.core == w.id.core && r.slot == w.id.slot && r.pid == w.id.pid && r.ctx == w.id.ctx).filterMap
      (·.parity) ++ (w.mailbox.bind (·.2)).toList
  s.modCore w.id.core fun c => ps.foldl (fun c q => c.addCount q (-1)) c

/-! ### The image -/

/-- The header (Table 5-9). -/
def imageHeader (w : Wg) (ntile len : Nat) : List Byte :=
  bytesOf 64 (w.id.node % 4096 * 2 ^ 500 + w.id.wgi % 65536 * 2 ^ 484 + w.id.core % 512 * 2 ^ 475 + w.id.slot % 8 * 2 ^ 472
    + w.id.nlane % 2048 * 2 ^ 461 + w.id.nreg % 128 * 2 ^ 454 + w.id.scr % 1024 * 2 ^ 444 + ntile % 32 * 2 ^ 439
    + b2n w.faulter * 2 ^ 438 + len % 2 ^ 32 * 2 ^ 406)

/-- RDEPTH and RPAR in a byte. -/
def readerByte (t : Thread) : Byte := BitVec.ofNat 8 (t.rdepth % 16 + t.rpar % 2 * 16)

/-- The predicates with p0 or q0 as it reads. -/
def predBits (t : Thread) : Nat := t.p.toNat / 2 * 2 + 1

/-- The control-thread section. -/
def State.ctlSection (s : State) (w : Wg) : List Byte :=
  let k := (List.range 32).flatMap fun i => bytesOf 8 (cellGet w.ctl.k i).toNat
  let u := (List.range 32).flatMap fun i => bytesOf 4 (cellGet w.s i).toNat
  let q := (w.dq.take 16).map fun e => e.value
  bytesOf 8 w.ctl.pc.toNat ++ k ++ u
    ++ [BitVec.ofNat 8 (predBits w.ctl), readerByte w.ctl, BitVec.ofNat 8 q.length] ++ List.replicate 5 0
    ++ (List.range 16).flatMap (fun i => bytesOf 8 (nthD 0 q i).toNat)
    ++ (List.range 62).flatMap fun n => bytesOf 8 (s.csr w n)

/-- A group's part of the issue-group section. -/
def Wg.groupSection (w : Wg) (g : Nat) : List Byte :=
  let x := w.group g
  bytesOf 4 (w.living g).toNat ++ bytesOf 4 x.pend.toNat ++ bytesOf 2 x.den ++ [BitVec.ofNat 8 (x.dqPos - w.dqBase), 0]
    ++ bytesOf 4 x.waitGrp.toNat ++ bytesOf 4 x.waitAll.toNat ++ List.replicate 44 0

/-- A lane thread's part. -/
def laneSection (nreg : Nat) (t : Thread) : List Byte :=
  bytesOf 8 t.pc.toNat ++ bytesOf 2 (predBits t) ++ [readerByte t] ++ List.replicate 5 0
    ++ (List.range nreg).flatMap fun i => bytesOf 4 (cellGet t.v i).toNat

/-- A FIFO's bytes as they stand in its segment (R170). -/
def fifoBytes (c : Cells 8) (seg : Option Nat) (x : Fifo) : Cells 8 :=
  match seg with
  | none => c
  | some j => ((List.range x.data.length).zip x.data).foldl
      (fun c e => cellSet c (65536 * j + (16 * x.head + e.1) % 65536) e.2) c

/-- The scratchpad with the FIFOs in it. -/
def Wg.padBytes (w : Wg) : List Byte :=
  let c := fifoBytes (fifoBytes w.scratch (fifoSeg w.csrs.fifocfg 0) w.fifo0) (fifoSeg w.csrs.fifocfg 1) w.fifo1
  (List.range (4096 * w.id.scr)).map fun i => cellGet c i

/-- The tiles a mask names, in increasing order. -/
def heldTiles (mask : DWord) : List Nat := (List.range 64).filter fun i => mask.getLsbD i

/-- Bytes of an image. -/
def Wg.imageLen (w : Wg) : Nat :=
  64 + 1024 + 64 * w.ngroups + (16 + 4 * w.id.nreg) * w.id.nlane + 4096 * w.id.scr
    + 16384 * (heldTiles w.csrs.accmask).length

/-- The image of a workgroup (R146). -/
def State.image (s : State) (x : Saved) : List Byte :=
  let w := x.wg
  imageHeader w (heldTiles w.csrs.accmask).length w.imageLen ++ s.ctlSection w
    ++ (List.range w.ngroups).flatMap (fun g => w.groupSection g)
    ++ (List.range w.id.nlane).flatMap (fun i => laneSection w.id.nreg ((tabGet w.lanes i).getD (Thread.start 0)))
    ++ w.padBytes
    ++ (heldTiles w.csrs.accmask).flatMap fun t => (List.range 4096).flatMap fun i =>
      bytesOf 4 (cellGet x.tiles (t * 4096 + i)).toNat

end Sys2Proof.Machine
end

