-- ==== Sys2Proof/Machine/Request.lean ====
section
/-! DEFINITION. Requests (R129 to R132), output rings and coalescing (R44 to R47, R139), inherited items (R124), and REQOP
(R397). -/

namespace Sys2Proof.Machine

/-! ### Inherited items (Table 5-1) -/

def State.tokbudOf (s : State) (pid : Nat) (c : Context) : Nat :=
  if c.tokbud = 0 then (match s.part? pid with | some p => p.tokbud | none => 0) else c.tokbud
def State.prioOf (s : State) (pid : Nat) (c : Context) : Nat :=
  if c.prio = 0xFF then (match s.part? pid with | some p => p.prio | none => 0) else c.prio
def State.fdomOf (s : State) (pid : Nat) (c : Context) : Nat :=
  if c.fdom = 0xFFFF then (match s.part? pid with | some p => p.fdom | none => 0) else c.fdom
/-- The resolved class of a request. -/
def Context.classOf (c : Context) (r : Request) : Nat := if r.pclass = 7 then c.defcl else r.pclass

/-- Whether one key is lower than another (R130). -/
def Context.keyLt (c : Context) (a b : Request) : Bool :=
  decide (c.classOf a < c.classOf b)
    || (c.classOf a == c.classOf b && decide (2 ^ 31 ≤ (a.admseq + 2 ^ 32 - b.admseq) % 2 ^ 32))

/-- Requests in increasing key. -/
def Context.byKey {α : Type} (c : Context) (f : α → Request) : List α → List α
  | [] => []
  | x :: xs =>
    let ys := c.byKey f xs
    ys.takeWhile (fun y => c.keyLt (f y) (f x)) ++ x :: ys.dropWhile (fun y => c.keyLt (f y) (f x))

/-! ### Request states (Table 5-5) -/

def rqQueued : Nat := 1
def rqRunning : Nat := 2
def rqFinishing : Nat := 3
def rqFaulted : Nat := 4
def rqCancelling : Nat := 5
def rqEvicted : Nat := 6

/-- The kinds of ring entries (Table 2-7). -/
def rkToken : Nat := 0
def rkStop : Nat := 1
def rkLength : Nat := 2
def rkFaulted : Nat := 3
def rkCancelled : Nat := 4
def rkRejected : Nat := 5

/-- A request record as the port accepts it, its RO fields set by the device: QUEUED, or still a cancel record
(Table 5-4, Table 5-5, R130). -/
def Request.ofRecord (x admseq : Nat) : Request :=
  { kv := (List.range 8).map fun i => BitVec.ofNat 64 (x / 2 ^ (64 * i + 512))
    stop := (List.range 4).map fun i => BitVec.ofNat 32 (x / 2 ^ (32 * i + 384))
    tokb := bitsAt x 383 329, ring := bitsAt x 328 278, samp := bitsAt x 277 227, reqid := BitVec.ofNat 32 (x / 2 ^ 195)
    lasttok := 0, admseq := admseq, pos := bitsAt x 130 107, prem := bitsAt x 106 83, maxlen := bitsAt x 82 59
    fcause := 0, fsub := 0, slot := 0, state := if bitsAt x 32 29 = 15 then 15 else rqQueued, asked := bitsAt x 32 29, pclass := bitsAt x 28 26, nstop := bitsAt x 25 23
    owait := false, evcnt := 0, crm := 0, cons := 2 ^ 32, q := 0, pos0 := 0, prem0 := 0, emitted := none, held := none
    finalWritten := false }

/-! ### Slots -/

def Context.slot? (c : Context) (n : Nat) : Option Request := tabGet c.adm.slots n

def State.setSlot (s : State) (pid ctx n : Nat) (r : Request) : State :=
  s.modCtx pid ctx fun c => { c with adm := { c.adm with slots := tabSet c.adm.slots n r } }

/-- Changes the request of a slot, if there is one. -/
def State.modSlot (s : State) (pid ctx n : Nat) (f : Request → Request) : State :=
  s.modCtx pid ctx fun c => match c.slot? n with
    | some r => { c with adm := { c.adm with slots := tabSet c.adm.slots n (f r) } }
    | none => c

def State.freeSlot (s : State) (pid ctx n : Nat) : State :=
  s.modCtx pid ctx fun c => { c with adm := { c.adm with slots := tabDel c.adm.slots n } }

/-- An entry that is not written counts in REJLOST. -/
def State.countLost (s : State) (pid ctx : Nat) : State :=
  s.modCtx pid ctx fun c => { c with rejlost := c.rejlost + 1 }

/-- The sequences of CRM are dropped (R132). -/
def State.dropCrm (s : State) (pid : Nat) (r : Request) : State :=
  (List.range 8).foldl (fun s i =>
    if bitAt r.crm i then
      match s.handleEntry pid (nthD 0 r.kv i).toNat with
      | some (k, e) => if e.state = hsLive ∨ e.state = hsSpilled then (s.sqDrop pid k e).2 else s
      | none => s
    else s) s

/-- A request in a slot leaves the device (R132). -/
def State.retireSlot (s : State) (pid ctx n : Nat) : State :=
  match (s.ctx? pid ctx).bind fun c => c.slot? n with
  | some r => (s.dropCrm pid r).freeSlot pid ctx n
  | none => s

/-! ### Coalescing (R47) -/

/-- The context's vector is raised and its pending count cleared. -/
def State.raiseCtx (s : State) (pid ctx : Nat) : State :=
  (s.raiseVf pid (2 + ctx)).modCtx pid ctx fun c => { c with adm := { c.adm with pending := 0 } }

/-- Whether the pending entries call for the vector: the count, or the time in microseconds. -/
def Admission.due (a : Admission) (ns : Nat) : Bool :=
  a.pending != 0 && (decide (max 1 a.cnt ≤ a.pending) || decide (a.oldest + 1000 * a.time ≤ ns))

/-- An entry has been written: the vector follows at once when it is due, or the entry final and FINAL set. -/
def State.countEntry (s : State) (pid ctx kind : Nat) : State :=
  let s := s.modCtx pid ctx fun c => { c with adm := { c.adm with
    pending := c.adm.pending + 1, oldest := if c.adm.pending = 0 then s.ns else c.adm.oldest } }
  match s.ctx? pid ctx with
  | some c => if c.adm.due s.ns || (c.adm.final && kind != rkToken) then s.raiseCtx pid ctx else s
  | none => s

/-! ### Output rings (R45, R46, R139) -/

/-- A ring descriptor as the device reads it. -/
structure Ring where
  base : Nat
  log2n : Nat
  prod : Nat
  cons : Nat

/-- Reads a ring descriptor. None when a read meets an unresolved fault, or LOG2N or BASE is out of its limits. -/
def State.readRing (s : State) (who : Who) (va : Nat) : Option Ring × State :=
  match s.agentReadMany who va 8 8 with
  | (.error _, s) => (none, s)
  | (.ok bs, s) =>
    let x := ofBytes bs
    let r : Ring := { base := bitsAt x 63 0, log2n := bitsAt x 71 64, prod := bitsAt x 159 128, cons := bitsAt x 287 256 }
    (if 4 ≤ r.log2n ∧ r.log2n ≤ 16 ∧ r.base % 16 = 0 ∧ r.base + 16 * 2 ^ r.log2n ≤ 2 ^ 44 then some r else none, s)

/-- R46. -/
def ringFull (log2n prod cons : Nat) : Bool := decide (2 ^ log2n ≤ (prod + 2 ^ 32 - cons % 2 ^ 32) % 2 ^ 32)

/-- Whether a request's ring is full, by the device's copy of CONS, which is read again when it shows the ring full. A
descriptor that cannot be read shows no full ring. -/
def State.ringIsFull (s : State) (who : Who) (r : Request) : Bool × Request × State :=
  match s.readRing who (64 * r.ring) with
  | (none, s) => (false, r, s)
  | (some g, s) =>
    if decide (2 ^ 32 ≤ r.cons) || ringFull g.log2n g.prod r.cons then (ringFull g.log2n g.prod g.cons, { r with cons := g.cons }, s)
    else (false, r, s)

/-- What came of an entry. -/
inductive Put where
  | written
  | full
  | lost
  deriving DecidableEq, Repr

/-- The 16 bytes of an entry (Table 2-7). -/
def entryBits (r : Request) (e : RingEntry) : Nat :=
  r.reqid.toNat * 2 ^ 96 + e.detail % 256 * 2 ^ 88 + e.kind % 256 * 2 ^ 80 + e.step % 2 ^ 16 * 2 ^ 64 + e.pos % 2 ^ 32 * 2 ^ 32
    + e.token.toNat

/-- A ring write discarded with the host link lost: the context counts it and writes the count into the last 8 bytes of its
dump area (R29; the place and the form of the record: log 50, DESIGN CHOICE). -/
def State.ringLoss (s : State) (pid ctx : Nat) : State :=
  let s := s.modCtx pid ctx fun c => { c with ringLost := c.ringLost + 1 }
  match s.ctx? pid ctx with
  | some c => (s.agentWrite (agentOf pid ctx) (c.dumpb.toNat + c.dumpsz - 8) (bytesOf 8 c.ringLost)).2
  | none => s

/-- The entry, then PROD, then any interrupt (R45). With the host link lost the write is discarded and its loss recorded
(R29). -/
def State.putEntry (s : State) (pid ctx : Nat) (r : Request) (e : RingEntry) : Put × Request × State :=
  if s.dev.linkLost then (.written, r, s.ringLoss pid ctx)
  else
    let who := agentOf pid ctx
    let (full, r, s) := s.ringIsFull who r
    if full then (.full, r, s)
    else match s.readRing who (64 * r.ring) with
    | (none, s) => (.lost, r, s)
    | (some g, s) =>
      let s := s.setPhys (hostBase + g.base + 16 * (g.prod % 2 ^ g.log2n)) 16 (entryBits r e)
      match s.agentWrite who (64 * r.ring + 16) (bytesOf 4 ((g.prod + 1) % 2 ^ 32)) with
      | (.error _, s) => (.lost, r, s)
      | (.ok _, s) => (.written, r, s.countEntry pid ctx e.kind)

/-- An entry of a kind as it is decided now (R45). -/
def Context.entryNow (c : Context) (r : Request) (kind detail : Nat) : RingEntry :=
  { kind := kind, detail := detail, step := c.stepn.toNat % 65536, pos := r.pos, token := 0 }

/-- The final entry of a request that is not in a slot: it waits for nothing (R131). -/
def State.finalOutside (s : State) (pid ctx : Nat) (r : Request) (kind : Nat) : State :=
  match s.ctx? pid ctx with
  | none => s
  | some c =>
    match s.putEntry pid ctx r (c.entryNow r kind 0) with
    | (.written, _, s) => s
    | (_, _, s) => s.countLost pid ctx

/-- The entry of a request in a slot: written, held while the ring is full, or lost, with which the request is retired (R139,
log 57, DEDUCED). -/
def State.putSlot (s : State) (pid ctx n : Nat) (r : Request) (e : RingEntry) : State :=
  match s.putEntry pid ctx r e with
  | (.full, r, s) => s.setSlot pid ctx n { r with owait := true, held := some e }
  | (.lost, r, s) => ((s.setSlot pid ctx n { r with owait := false, held := none }).retireSlot pid ctx n).countLost pid ctx
  | (.written, r, s) =>
    s.setSlot pid ctx n { r with owait := false, held := none, finalWritten := r.finalWritten || e.kind != rkToken }

/-- The final entry that a request in a slot has coming (Table 5-5): STOP or LENGTH is held from its step's close. -/
def Context.finalEntry (c : Context) (r : Request) : Option RingEntry :=
  match r.held with
  | some e => if e.kind = rkToken ∧ (r.state = rqFaulted ∨ r.state = rqCancelling) then some (made r) else some e
  | none =>
    if r.finalWritten then none
    else if r.state = rqFaulted ∨ r.state = rqCancelling then some (made r) else none
where
  made (r : Request) : RingEntry :=
    c.entryNow r (if r.state = rqFaulted then rkFaulted else rkCancelled) (if r.state = rqFaulted then r.fcause else 0)

/-- A request in a slot retired by a halt: RUNNING writes a FAULTED entry with the halt's DETAIL, the others what they
have coming; nothing waits (R150). -/
def State.retireHalted (s : State) (pid ctx n detail : Nat) : State :=
  match (s.ctx? pid ctx).bind fun c => (c.slot? n).map fun r => (c, r) with
  | none => s
  | some (c, r) =>
    let e? := if r.state = rqRunning then some (c.entryNow r rkFaulted detail) else c.finalEntry r
    let s := match e? with
      | none => s
      | some e => match s.putEntry pid ctx r e with
        | (.written, _, s) => s
        | (_, _, s) => s.countLost pid ctx
    s.retireSlot pid ctx n

/-- The unused reservations of a request's sequences go back (R101, R138). -/
def State.returnSlot (s : State) (pid : Nat) (r : Request) : State :=
  r.kv.foldl (fun s (h : DWord) => if h = 0 then s else match s.handleEntry pid h.toNat with
    | some (i, e) => if e.state = hsLive then s.returnReservation pid i e else s
    | none => s) s

/-! ### Faults bound to a slot (R140) -/

/-- A fatal fault bound to a slot. -/
def State.faultSlot (s : State) (pid ctx n cause sub : Nat) : State :=
  s.modSlot pid ctx n fun r => if r.state = rqRunning then { r with state := rqFaulted, fcause := cause, fsub := sub } else r

/-! ### REQOP (R397) -/

/-- The request that a value of the %slot form names, if the slot is bound. -/
def State.boundSlot (s : State) (w : WgId) (a : Nat) : Option (Context × Nat × Request) :=
  match s.ctx? w.pid w.ctx with
  | none => none
  | some c =>
    let n := a % 1024
    match c.slot? n with
    | some r => if bitAt a 31 ∧ n < c.nslot ∧ c.run.isSome ∧ r.q ≠ 0 then some (c, n, r) else none
    | none => none

/-- A field of Table 14-9. -/
def Context.reqField (c : Context) (r : Request) (k : Nat) : Nat :=
  if k < 8 then (nthD 0 r.kv k).toNat
  else match k with
  | 8 => r.reqid.toNat
  | 9 => r.pos0
  | 10 => r.prem0
  | 11 => r.maxlen
  | 12 => r.samp * 64
  | 13 => r.tokb * 4
  | 14 => r.nstop
  | 15 => (nthD 0 r.stop 0).toNat
  | 16 => (nthD 0 r.stop 1).toNat
  | 17 => (nthD 0 r.stop 2).toNat
  | 18 => (nthD 0 r.stop 3).toNat
  | 19 => c.classOf r
  | _ => r.evcnt

/-- REQOP: status and value from `g` for a bound slot, which may change its request. -/
def reqOp (f : LForm) (g : Context → Request → Nat → Nat × Nat × Request) (s : State) : Res :=
  match s.path? with
  | none => .fault .noThread
  | some (p, s) =>
    let n := codedLen false f
    if (p.active f.g).isEmpty then .next (p.retire s n [])
    else
      match s.boundSlot p.w.id (p.opA p.w.ctl .reqop f) with
      | none => .next (p.retire s n [(0, wrPair f.d 1 0)])
      | some (c, k, r) =>
        let (st, x, r) := g c r (p.opB p.w.ctl .reqop f)
        .next (p.retire (s.setSlot p.w.id.pid p.w.id.ctx k r) n [(0, wrPair f.d st x)])

/-- REQOP.EMIT: the first counts, unless the prefill goes on after the step. -/
def execReqopEmit (f : LForm) (s : State) : Res :=
  reqOp f (fun _ r t =>
    if r.emitted.isSome ∨ r.q < r.prem0 then (2, 0, r) else (0, 0, { r with emitted := some (BitVec.ofNat 32 t) })) s

/-- REQOP.CANCEL. -/
def execReqopCancel (f : LForm) (s : State) : Res :=
  reqOp f (fun _ r _ => if r.state = rqRunning then (0, 0, { r with state := rqCancelling }) else (3, 0, r)) s

/-- REQOP.GET. -/
def execReqopGet (f : LForm) (s : State) : Res :=
  reqOp f (fun c r _ => (0, c.reqField r (f.w2.toNat % 256), r)) s

end Sys2Proof.Machine
end

