-- ==== Sys2Proof/Machine/Residency.lean ====
section
/-! DEFINITION. What a core can hold: SRAM banks (R165 to R169), residency (R175, Table 6-5), and the end of a workgroup's
residence. -/

namespace Sys2Proof.Machine

/-! ### Banks -/

/-- A bank of a core; every bank is CACHE after reset (R165). -/
def Core.bank (c : Core) (b : Nat) : Bank := (tabGet c.banks b).getD .cache
def Core.setBank (c : Core) (b : Nat) (x : Bank) : Core :=
  { c with banks := match x with | .cache => tabDel c.banks b | _ => tabSet c.banks b x }

/-- What is held of a bank. -/
def Bank.held : Bank → List (Nat × Nat × Nat)
  | .cache => []
  | .scratch h _ => h

/-- Units held of a bank. -/
def Bank.units (b : Bank) : Nat := (b.held.map (·.2.2)).sum

/-- The bank with a part added: it is SCRATCH from then on (R168). -/
def Bank.add (b : Bank) (slot seg n : Nat) : Bank := .scratch (b.held ++ [(slot, seg, n)]) 0

/-- The mode of a bank: 0 CACHE, 1 SCRATCH, 2 FIFO (R165). -/
def State.bankMode (s : State) (core b : Nat) : Nat :=
  match (s.core core).bank b with
  | .cache => 0
  | .scratch h _ =>
    if h.any fun e => e.2.1 != 0 && match s.wg? core e.1 with
      | some w => (w.fifoAt (65536 * (e.2.1 - 1))).isSome
      | none => false
    then 2 else 1

/-- Banks with nothing held. -/
def Core.emptyBanks (c : Core) : List Nat := (List.range 48).filter fun b => (c.bank b).held.isEmpty

/-- A whole bank for each segment from j on: SCRATCH ones first, since they need no switch. -/
def Core.takeSegments (c : Core) (slot j : Nat) : Nat → Core
  | 0 => c
  | n + 1 =>
    let free := c.emptyBanks
    let scratch := free.filter fun b => c.bank b != .cache
    match scratch ++ free with
    | [] => c
    | b :: _ => (c.setBank b ((c.bank b).add slot (j + 1) 16)).takeSegments slot (j + 1) n

/-- n single units, in partly held banks first. -/
def Core.takeUnits (c : Core) (slot : Nat) : Nat → Nat → Core
  | 0, _ => c
  | _, 0 => c
  | fuel + 1, n =>
    let part := (List.range 48).filter fun b => decide (0 < (c.bank b).units) && decide ((c.bank b).units < 16)
    let free := c.emptyBanks
    match part ++ (free.filter fun b => c.bank b != .cache) ++ free with
    | [] => c
    | b :: _ =>
      let k := min n (16 - (c.bank b).units)
      (c.setBank b ((c.bank b).add slot 0 k)).takeUnits slot fuel (n - k)

/-- The units of a workgroup: its segments' banks, then the rest (R167). -/
def Core.takeScratch (c : Core) (slot scr : Nat) : Core := (c.takeSegments slot 0 (scr / 16)).takeUnits slot 48 (scr % 16)

/-- The units of a slot go back. On a core without a workgroup every bank is CACHE (R165). -/
def Core.freeScratch (c : Core) (slot now : Nat) (last : Bool) : Core :=
  if last then { c with banks := [] }
  else { c with banks := c.banks.map fun e => match e.2 with
    | .cache => e
    | .scratch h t =>
      let h' := h.filter fun x => x.1 != slot
      (e.1, .scratch h' (if h'.isEmpty ∧ !h.isEmpty then now else t)) }

/-- BANK_RETURN_TO_CACHE (R168). -/
def execBankReturnToCache (core bank : Nat) (s : State) : Res :=
  match (s.core core).bank bank with
  | .scratch [] t => .next (if t + 4096 ≤ s.cycle then s.modCore core fun c => c.setBank bank .cache else s)
  | _ => .next s

/-! ### Residency (Table 6-5) -/

/-- What a workgroup of a node needs. -/
structure Need where
  nlane : Nat
  nreg : Nat
  scr : Nat

/-- Issue groups of n lanes in quarter q (R175). -/
def groupsIn (nlane q : Nat) : Nat := (ceilDiv nlane 32 + 3 - q) / 4

/-- The workgroups on a core. -/
def State.onCore (s : State) (core : Nat) : List Wg := (s.wgs.filter fun e => e.2.id.core == core).map (·.2)

/-- The free slots of a core. -/
def State.freeSlots (s : State) (core : Nat) : List Nat := (List.range 8).filter fun k => (s.wg? core k).isNone

/-- Lane threads that a core can still take. -/
def State.freeLanes (s : State) (core : Nat) : Nat := 2048 - ((s.onCore core).map (·.id.nlane)).sum

/-- Whether a core can take a workgroup, counting those resident. -/
def State.fits (s : State) (core : Nat) (x : Need) : Bool :=
  let ws := s.onCore core
  let tot := fun (f : Wg → Nat) => (ws.map f).sum
  let c := s.core core
  decide (ws.length < 8)
    && decide (tot (·.id.nlane) + x.nlane ≤ 2048)
    && decide (tot (·.ngroups) + ceilDiv x.nlane 32 ≤ 64)
    && (List.range 4).all (fun q =>
      decide (tot (fun w => groupsIn w.id.nlane q) + groupsIn x.nlane q ≤ 16)
        && decide (tot (fun w => groupsIn w.id.nlane q * (w.id.nreg / 8)) + groupsIn x.nlane q * (x.nreg / 8) ≤ 128))
    && decide (tot (·.id.scr) + x.scr ≤ 768) && decide (x.scr / 16 ≤ c.emptyBanks.length)

/-- Group numbers within the core for a new workgroup: the lowest free ones of each group's quarter (log 16, DEDUCED). -/
def State.groupNumbers (s : State) (core nlane : Nat) : List Nat :=
  let used := (s.onCore core).flatMap (·.id.gnum)
  (List.range (ceilDiv nlane 32)).foldl (fun (a : List Nat) g =>
    let free := (List.range 16).filter fun k => !(used ++ a).contains (4 * k + g % 4)
    a ++ [4 * nthD 0 free 0 + g % 4]) []

/-! ### The end of a workgroup's residence -/

/-- The collapses that threads or operations of a workgroup wait for. -/
def State.collapsesOf (s : State) (w : Wg) : List Collapse :=
  let x := s.savedOf w
  let susps := w.ctlSusp :: (w.groups.map (·.2.susp)) ++ (x.ops.map (·.2.stop)) ++ x.copies.map (·.stop)
  susps.filterMap fun st => match st with
    | .collapse va => s.collapseOf w.id.pid w.id.ctx va
    | _ => none

/-- They are carried out (R75), nothing of the context being under way any more. -/
def State.settleCollapses (s : State) (w : Wg) : State := (s.collapsesOf w).foldl State.finishCollapse s

/-- They go on without the workgroup, which ends: their engines still wait for every access through the page (R73, R75). -/
def State.orphanCollapses (s : State) (w : Wg) : State :=
  let mine := s.collapsesOf w
  { s with collapses := s.collapses.map fun c => if mine.contains c then { c with orphan := true } else c }

/-- A workgroup leaves its core: its banks' units, tiles, operations, requests and its slot are free. -/
def State.leaveCore (s : State) (w : Wg) : State :=
  let s := s.clearCore w
  let last := (s.onCore w.id.core).length ≤ 1
  let s := s.modCore w.id.core fun c => c.freeScratch w.id.slot s.cycle last
  s.delWg w.id.core w.id.slot

/-- A workgroup is gone, whatever it had in flight (R115, R116). -/
def State.discardWg (s : State) (w : Wg) : State :=
  let s := s.settleCollapses w
  let s := (s.dropOps w).addReaders w (-1)
  let mine := fun (core slot : Nat) => core == w.id.core && slot == w.id.slot
  let s := { s with
    engines := s.engines.filter fun r => !mine r.core r.slot
    fabric := { s.fabric with out := s.fabric.out.filter fun r => !mine r.core r.slot } }
  ((s.closeWindows w).leaveCore w).serveSlots

end Sys2Proof.Machine
end

