-- ==== Sys2Proof/Machine/Nodes.lean ====
section
/-! DEFINITION. Step graphs: nodes, grids and bindings (R153 to R155), and dependences (R156). -/

namespace Sys2Proof.Machine

/-! ### Nodes (Table 5-12) -/

def ndCentry (n : BitVec 1024) : Nat := bitsAt n.toNat 1023 960
def ndLentry (n : BitVec 1024) : Nat := bitsAt n.toNat 959 896
def ndArgs (n : BitVec 1024) : Nat := bitsAt n.toNat 895 832
def ndCmap (n : BitVec 1024) : Nat := bitsAt n.toNat 831 768
def ndDep (n : BitVec 1024) (j : Nat) : Nat := bitsAt n.toNat (64 * j + 575) (64 * j + 512)
def ndGx (n : BitVec 1024) : Nat := bitsAt n.toNat 511 488
def ndTile (n : BitVec 1024) : Nat := bitsAt n.toNat 487 473
def ndGmode (n : BitVec 1024) : Nat := bitsAt n.toNat 472 470
def ndClpl (n : BitVec 1024) : Bool := bitAt n.toNat 469
def ndPersist (n : BitVec 1024) : Bool := bitAt n.toNat 468
def ndNlane (n : BitVec 1024) : Nat := bitsAt n.toNat 467 457
def ndNreg (n : BitVec 1024) : Nat := bitsAt n.toNat 456 450
def ndScr (n : BitVec 1024) : Nat := bitsAt n.toNat 449 440
def ndWpri (n : BitVec 1024) : Nat := bitsAt n.toNat 439 438

/-- Dependence entries (Table 5-13). -/
def dpPred (d : Nat) : Nat := bitsAt d 63 52
def dpKind (d : Nat) : Nat := bitsAt d 51 50
def dpNum (d : Nat) : Nat := bitsAt d 49 34
def dpDen (d : Nat) : Nat := bitsAt d 33 18

def ndNeed (n : BitVec 1024) : Need := { nlane := ndNlane n, nreg := ndNreg n, scr := ndScr n }

/-- Whether a workgroup fits an empty core (Table 6-5). -/
def Need.fitsEmpty (x : Need) : Bool :=
  (List.range 4).all (fun q => decide (groupsIn x.nlane q ≤ 16) && decide (groupsIn x.nlane q * (x.nreg / 8) ≤ 128))
    && decide (x.nlane ≤ 2048) && decide (x.scr ≤ 768)

/-- The limits of R154 for node i. -/
def nodeOk (i : Nat) (n : BitVec 1024) : Bool :=
  decide (1 ≤ ndGx n) && decide (ndGx n ≤ 65536) && decide (1 ≤ ndTile n) && decide (ndTile n ≤ 16384)
    && decide (ndGmode n ≤ 3) && decide (1 ≤ ndNlane n) && decide (ndNlane n ≤ 1024) && decide (8 ≤ ndNreg n)
    && decide (ndNreg n ≤ 64) && ndNreg n % 8 == 0 && decide (ndScr n ≤ 768) && ndCentry n % 4 == 0 && ndLentry n % 4 == 0
    && ndCmap n % 64 == 0
    && (List.range 4).all (fun j =>
      let d := ndDep n j
      dpKind d == 0 || (decide (dpPred d < i) && (dpKind d != 2 || (dpNum d != 0 && dpDen d != 0))))
    && (ndNeed n).fitsEmpty

/-! ### Grids and bindings (R155) -/

/-- Units of a node over the active entries. -/
def gridUnits (n : BitVec 1024) (es : List Ragged) (ntok : Nat) : Nat :=
  ndGx n * match ndGmode n with
    | 0 => 1
    | 1 => es.length
    | 2 => (es.map fun e => ceilDiv e.q (ndTile n)).sum
    | _ => ceilDiv ntok (ndTile n)

def gridOf (n : BitVec 1024) (es : List Ragged) (ntok : Nat) : Nat := (if ndClpl n then 4 else 1) * gridUnits n es ntok

/-- The entry and first row of tile k among the tiles of the entries in turn. -/
def tileAt (tile : Nat) : List Ragged → Nat → Option (Ragged × Nat)
  | [], _ => none
  | e :: es, k => if k < ceilDiv e.q tile then some (e, k * tile) else tileAt tile es (k - ceilDiv e.q tile)

/-- The binding of workgroup w: its entry and first row. -/
def bindingOf (n : BitVec 1024) (es : List Ragged) (w : Nat) : Option (Ragged × Nat) :=
  let u := if ndClpl n then w / 4 else w
  match ndGmode n with
  | 1 => (es.drop (u / ndGx n)).head?.map fun e => (e, 0)
  | 2 => tileAt (ndTile n) es (u / ndGx n)
  | _ => none

/-- Whether the workgroups of a node are bound. -/
def ndBound (n : BitVec 1024) : Bool := ndGmode n == 1 || ndGmode n == 2

def StepRun.node? (r : StepRun) (i : Nat) : Option NodeRun := (r.nodes.drop i).head?

/-! ### Dependences (R156) -/

/-- Whether the predecessors that a dependence names have completed. The range of MAP is cut to 0 to Gp − 1; one
that begins beyond names none (log 159, DEDUCED). -/
def StepRun.depDone (r : StepRun) (n : BitVec 1024) (w d : Nat) : Bool :=
  if dpKind d = 0 then true
  else match r.node? (dpPred d) with
  | none => true
  | some p =>
    let all := decide (p.done.length = p.grid)
    match dpKind d with
    | 1 => all
    | 2 =>
      let lo := w * dpNum d / dpDen d
      let hi := min (ceilDiv ((w + 1) * dpNum d) (dpDen d)) p.grid
      (List.range (hi - lo)).all fun k => p.done.contains (lo + k)
    | _ =>
      if ndBound n && ndBound p.record then
        match bindingOf n r.entries w with
        | some (e, _) => (List.range p.grid).all fun k =>
            (match bindingOf p.record r.entries k with | some (x, _) => x.slot != e.slot | none => true) || p.done.contains k
        | none => true
      else all

/-- Whether workgroup w of node i is ready. -/
def StepRun.ready (r : StepRun) (i w : Nat) : Bool :=
  match r.node? i with
  | none => false
  | some n => decide (w < n.grid) && (List.range 4).all fun j => r.depDone n.record w (ndDep n.record j)

/-- The workgroups of a node that are ready and neither placed nor fetched. -/
def StepRun.waiting (r : StepRun) (i : Nat) : List Nat :=
  match r.node? i with
  | none => []
  | some n => (List.range n.grid).filter fun w => !n.taken.contains w && r.ready i w

def StepRun.modNode (r : StepRun) (i : Nat) (f : NodeRun → NodeRun) : StepRun :=
  { r with nodes := r.nodes.take i ++ ((r.nodes.drop i).take 1).map f ++ r.nodes.drop (i + 1) }

def State.modRun (s : State) (pid ctx : Nat) (f : StepRun → StepRun) : State :=
  s.modCtx pid ctx fun c => { c with run := c.run.map f }

/-- Whether an unanswered FETCHW can be answered now: the workgroup's other engine operations have completed, and a unit
can complete, is ready, or none remains (R161). -/
def State.mailReady (s : State) (w : Wg) : Bool :=
  w.mailbox.isSome && decide (w.engOps ≤ 1) && (w.unit.isSome ||
    match ((s.ctx? w.id.pid w.id.ctx).bind (·.run)).bind fun r => (r.node? w.id.node).map fun n => (r, n) with
    | some (r, n) => !(r.waiting w.id.node).isEmpty || decide (n.grid ≤ n.taken.length)
    | none => false)

end Sys2Proof.Machine
end

