-- ==== Sys2Proof/Machine/Preempt.lean ====
section
/-! DEFINITION. Halting, saving, restoring and dumping contexts (R142 to R152), deadlines, and partition states (R423). -/

namespace Sys2Proof.Machine

/-! ### Partition states (R423) -/

/-- The state that the partition's contexts give it. -/
def State.settlePart (s : State) (pid : Nat) : State :=
  s.modPart pid fun p =>
    if p.state = 1 ∨ p.state = 2 ∨ p.state = 3 then
      { p with state := if p.ctxs.isEmpty then 1 else if p.ctxs.any fun e => e.2.cstate != 4 then 2 else 3 }
    else p

/-! ### Operations in flight (R145) -/

/-- The resident workgroups of a context, by core and slot. -/
def State.ctxWgs (s : State) (pid ctx : Nat) : List Wg :=
  (s.wgs.filter fun e => e.2.id.pid == pid && e.2.id.ctx == ctx).map (·.2)

/-- Whether something waits for its fault record. -/
def Susp.onRecord : Susp → Bool
  | .fault _ => true
  | _ => false

/-- Whether a quarter's matrix operations can go no further now: its oldest waits for a record or for other cores. -/
def State.queueStuck (s : State) (core q : Nat) : Bool :=
  match s.queue core q with
  | [] => true
  | o :: _ => s.mergeWaits core o || o.stop.onRecord

/-- Whether a copy can go no further now: it waits for a record, or for room in a FIFO. -/
def State.copyStuck (s : State) (w : Wg) (op : CopyOp) : Bool :=
  op.stop.onRecord ||
    (op.stop == .none && decide (op.next < cmCount op.cmd) && !s.copyAsks op &&
      match s.copyUnit w.id op with
      | (.error .wait, _) => true
      | _ => false)

/-- Whether what a workgroup has in flight has completed, but for operations that only a halted thread or a record
could let go on, and for messages that a remote-slot wait has still to send. With `kill` a RETIRE may also wait for room in its queue. -/
def State.quietWg (s : State) (kill : Bool) (w : Wg) : Bool :=
  let x := s.savedOf w
  (x.ops.all fun e => s.queueStuck w.id.core e.1) && (x.copies.all fun o => s.copyStuck w o) && !s.mailReady w
    && !(s.fabric.out.any fun r => r.core == w.id.core && r.slot == w.id.slot && !r.awaited w)
    && !(s.engines.any fun r => r.core == w.id.core && r.slot == w.id.slot &&
        !(kill && (match r.i with | .retire _ => true | _ => false)
          && (match s.part? w.id.pid with | some p => decide (1024 ≤ p.rq.length) | none => true)))

/-- Whether every workgroup of a step has completed. -/
def StepRun.over (r : StepRun) : Bool := r.nodes.all fun n => decide (n.done.length = n.grid)

/-- Whether a context may be halted now: its operations are settled, and no step close is due (R142, R144). -/
def State.quiet (s : State) (kill : Bool) (pid ctx : Nat) : Bool :=
  (s.ctxWgs pid ctx).all (s.quietWg kill) &&
    match (s.ctx? pid ctx).bind (·.run) with
    | some r => !r.over
    | none => true

/-! ### Save (R144 to R147) -/

/-- A thread as it is saved: an open region returns to its ALB (Table 5-8), a wait keeps its rest, the results that have
returned are written, and loads not yet returned are abandoned. -/
def Wg.saveThread (w : Wg) (now : Nat) (ctl : Bool) (g l : Nat) (t : Thread) : Wg :=
  let drops := fun (o : Out) => o.reissue.isSome
  let t' := { t with
    last := none, region := none
    pc := match t.region with | some r => r.alb | none => t.pc
    wait := match t.wait with | .cyc due _ => .cyc due (due - now) | x => x
    outs := (t.outs.filter fun o => drops o || !o.ready).map fun o =>
      if drops o then { o with ready := false, writes := [], owes := .all } else o }
  let w := if ctl then { w with ctl := t' } else w.setLane g l t'
  (t.outs.filter fun o => o.ready && !drops o).foldl (fun w o => w.writes ctl g l o.writes) w

/-- The loads of some threads that have been abandoned, by tag in the order of their issue. -/
def lostLoads (ts : List Thread) : List Nat :=
  ((ts.foldl (fun (m : Tab Unit) t => t.outs.foldl (fun m o =>
    if !o.ready && o.reissue.isSome then tabSet m o.tag () else m) m) []).map (·.1))

/-- A group as it is saved (R146). No path of it counts as issued, lost or yielded after the restore, and it last issued at cycle 0 (log
160, DESIGN CHOICE). -/
def Group.save (x : Group) : Group :=
  { x with lpc := 0, issued := 0, lost := 0, yielded := 0, lastIssue := 0, readySince := none, fused := none
           susp := match x.susp with | .collapse va => .busy va | y => y }

/-- The lanes of a group that are there. -/
def Wg.groupLanes (w : Wg) (g : Nat) : List (Nat × Thread) :=
  (List.range 32).filterMap fun l => (w.lane? g l).map fun t => (l, t)

/-- A workgroup's threads as they are saved. -/
def Wg.saveThreads (w : Wg) (now : Nat) : Wg :=
  let w := (List.range w.ngroups).foldl (fun w g =>
    let ls := w.groupLanes g
    let w := ls.foldl (fun w e => w.saveThread now false g e.1 e.2) w
    w.setGroup g (w.group g).save) w
  let w := w.saveThread now true 0 0 w.ctl
  let held := w.ctlHeld.map fun (x : DWord × Wait) => (x.1, match x.2 with | .cyc due _ => Wait.cyc due (due - now) | y => y)
  { w with sLog := [], ctlHeld := held, ctlSusp := match w.ctlSusp with | .collapse va => .busy va | y => y }

/-- Saves a resident workgroup: its statistics are flushed, its reader counts move to HELD, and it leaves its core with the messages
that its remote-slot waits have still to send. -/
def State.saveWg (s : State) (w : Wg) : Saved × State :=
  let s := (s.flushStats w.id.core w.id.slot).settleCollapses w
  let w := ({ w with stats := [] } : Wg).saveThreads s.cycle
  let x := s.savedOf w
  let s := { s with fabric := { s.fabric with out := s.fabric.out.filter fun r => !r.awaited w } }
  let x := { x with
    ops := x.ops.map fun e => (e.1, { e.2 with joined := false, stop := match e.2.stop with | .collapse va => .busy va | y => y })
    copies := x.copies.map fun o => { o with stop := match o.stop with | .collapse va => .busy va | y => y } }
  (x, ((s.addHeld w 1).addReaders w (-1)).leaveCore w)

/-- Bytes of shadow storage on each die (R20). -/
def shadowSize : Nat := 1280 * 2 ^ 20

/-- Bytes that images of workgroups take on a die, each on that of its core. -/
def imagesOn (die : Nat) (ws : List Wg) : Nat := ((ws.filter fun w => dieOf w.id.core == die).map (·.imageLen)).sum

/-- Bytes of a die's shadow storage that images take which have not been moved to far memory (R147). -/
def State.shadowUsed (s : State) (die : Nat) : Nat :=
  (s.parts.map fun p => (p.2.ctxs.map fun c => if c.2.swapped then 0 else imagesOn die (c.2.saved.map (·.wg))).sum).sum

/-- Whether shadow storage has room for the images of a context's resident workgroups. -/
def State.shadowFits (s : State) (pid ctx : Nat) : Bool :=
  (List.range 4).all fun d =>
    let mine := imagesOn d (s.ctxWgs pid ctx)
    mine == 0 || decide (s.shadowUsed d + mine ≤ shadowSize)

/-- Whether shadow storage is full: a context's images would not fit (log 138, DESIGN CHOICE). -/
def State.shadowFull (s : State) : Bool := s.parts.any fun p => p.2.ctxs.any fun c => !s.shadowFits p.1 c.1

/-- Saves a context: its count stops, and its workgroups go to shadow storage. -/
def State.saveContext (s : State) (pid ctx : Nat) : State :=
  let (xs, s) := (s.ctxWgs pid ctx).foldl (fun (a : List Saved × State) w =>
    let (x, s) := a.2.saveWg w
    (a.1 ++ [x], s)) ([], s)
  s.modCtx pid ctx fun c => { c with
    saved := c.saved ++ xs, savedAt := if xs.isEmpty then c.savedAt else s.cycle, swapped := c.swapped && xs.isEmpty
    run := c.run.map fun r => { r with count := r.cycles s.cycle, since := none } }

/-- CONTEXT_SAVE: a context pre-empted by priority, once its operations are settled and its images have room. -/
def execContextSave (pid ctx : Nat) (s : State) : Res :=
  match s.ctx? pid ctx with
  | some c => .next (if c.cstate = 3 ∧ !(s.ctxWgs pid ctx).isEmpty ∧ s.quiet false pid ctx ∧ s.shadowFits pid ctx then
      s.saveContext pid ctx else s)
  | none => .next s

/-- CONTEXT_SWAP: when shadow storage is full, the images of the context saved longest ago among those still in it go to far
memory. -/
def execContextSwap (pid ctx : Nat) (s : State) : Res :=
  match s.ctx? pid ctx with
  | none => .next s
  | some c =>
    let older := s.parts.any fun p => p.2.ctxs.any fun e =>
      !e.2.saved.isEmpty && !e.2.swapped && decide (e.2.savedAt < c.savedAt)
    .next (if s.shadowFull ∧ !c.saved.isEmpty ∧ !c.swapped ∧ !older then s.modCtx pid ctx fun c => { c with swapped := true } else s)

/-! ### Restore (R148) -/

/-- Whether a saved workgroup's slot, and room for it, are free. -/
def State.slotReady (s : State) (x : Saved) : Bool :=
  let w := x.wg
  (s.wg? w.id.core w.id.slot).isNone && s.fits w.id.core { nlane := w.id.nlane, nreg := w.id.nreg, scr := w.id.scr }
    && !((s.onCore w.id.core).any fun o => (o.csrs.accmask &&& w.csrs.accmask) != 0)

/-- Whether a PREEMPTED context's turn has come (R143). -/
def State.turnCome (s : State) (pid : Nat) (c : Context) : Bool :=
  match s.part? pid with
  | none => false
  | some p =>
    !(p.ctxs.any fun e => e.2.cstate == 2 && decide (s.prioOf pid e.2 < s.prioOf pid c) && (e.2.clmask &&& c.clmask) != 0)

/-- What group g, or the control thread, is suspended on, set aside with the watch, which saw the load at its issue. -/
def Wg.setAside (w : Wg) (ctl : Bool) (g : Nat) : Wg :=
  let w := { w with csrs := { w.csrs with watchctl := 0 } }
  if ctl then { w with ctlSusp := .none, ctlReplay := none }
  else w.setGroup g { w.group g with susp := .none, replay := none, pend := 0 }

/-- A thread that has made an abandoned load again has it where it was among what it has outstanding, under the tag of its issue,
or no more if its results are written (R253). -/
def Thread.reseat (t old : Thread) (tag : Nat) : Thread :=
  { t with outs := old.outs.filterMap fun o =>
      if o.tag == tag then
        (t.outs.find? fun n => !(old.outs.any fun m => m.tag == n.tag)).map fun n => { n with tag := tag, left := o.left }
      else t.outs.find? fun n => n.tag == o.tag }

/-- The workgroup once a load of lanes `ls` has been made again: what was set aside of `old` is put back, and lanes that could
not perform keep the load abandoned, until its record is resolved if there is one. -/
def Wg.putBack (w old : Wg) (ctl : Bool) (g tag : Nat) (ls : List Nat) : Wg :=
  let gi := if ctl then none else some g
  let st := w.suspOn gi
  let stay := if st = .none then [] else match lanesOf (w.group g).pend with | [] => ls | xs => xs
  let w := { w with csrs := { w.csrs with watchctl := old.csrs.watchctl } }
  let w := if ctl then
      { w with ctlSusp := old.ctlSusp, ctlReplay := old.ctlReplay
               ctl := if st = .none then w.ctl.reseat old.ctl tag else { w.ctl with outs := old.ctl.outs } }
    else
      (ls.foldl (fun w l => match old.lane? g l with
        | some t => w.modLane g l fun x => if stay.contains l then { x with outs := t.outs } else x.reseat t tag
        | none => w) w).setGroup g (old.group g)
  match st with
  | .fault n => { w with fails := w.fails ++ [(n, gi)] }
  | _ => w

/-- Reissues an abandoned load for the lanes that had not its data (Table 5-8), unless an earlier one waits for its record.
What is left of its window stays open, and what the thread is suspended on waits until its loads are made again (R253). -/
def State.reissue (s : State) (core slot : Nat) (ctl : Bool) (g tag : Nat) : State :=
  match s.wg? core slot with
  | none => s
  | some w =>
    let ts : List (Nat × Thread) := if ctl then [(0, w.ctl)] else w.groupLanes g
    let hit := ts.filterMap fun e => (e.2.outs.find? fun o => o.tag == tag && !o.ready && o.reissue.isSome).map fun o => (e.1, o)
    match hit with
    | [] => s
    | (_, o) :: _ =>
      match o.reissue with
      | none => s
      | some q =>
        if w.fails.any fun e => e.2 == if ctl then none else some g then s
        else
          let ls := hit.map (·.1)
          let drop := fun (t : Thread) => { t with outs := t.outs.filter fun o => o.tag != tag }
          let w' := (if ctl then { w with ctl := drop w.ctl } else ls.foldl (fun w l => w.modLane g l drop) w).setAside ctl g
          let p : Path := { w := w', ctl := ctl, grp := g, mask := maskOfLanes ls, uni := w'.s }
          (p.replay (s.setWg w') { q with
            len := 0, la := hit.foldl (fun m e => min m e.2.left) o.left
            lanes := q.lanes.filter fun x => ls.contains x.lane }).modWg core slot fun x => x.putBack w ctl g tag ls

/-- Every abandoned load of a group, or of the control thread, in the order of issue. -/
def State.reissueLoads (s : State) (core slot : Nat) (g : Option Nat) : State :=
  match s.wg? core slot with
  | none => s
  | some w =>
    let ts := match g with | some g => (w.groupLanes g).map (·.2) | none => [w.ctl]
    (lostLoads ts).foldl (fun s t => s.reissue core slot g.isNone (g.getD 0) t) s

/-- A saved workgroup takes its core, slot, tiles, as they were and nothing else in them, operations and messages again; its counts
return. Its groups keep their numbers within the core unless another workgroup has one of them by now (log 16, DEDUCED). -/
def State.restoreWg (s : State) (x : Saved) : State :=
  let taken := (s.onCore x.wg.id.core).flatMap (·.id.gnum)
  let w := if x.wg.id.gnum.any taken.contains then
      { x.wg with id := { x.wg.id with gnum := s.groupNumbers x.wg.id.core x.wg.id.nlane } }
    else x.wg
  let again := fun (y : Wait) => match y with | .cyc _ left => Wait.cyc (s.cycle + left) 0 | z => z
  let w := { w with ctl := { w.ctl with wait := again w.ctl.wait }, ctlHeld := w.ctlHeld.map fun e => (e.1, again e.2) }
  let s := (s.setWg w).addReaders w 1 |>.addHeld w (-1)
  let s := { s with fabric := { s.fabric with out := s.fabric.out ++ x.remotes } }
  s.modCore w.id.core fun c => { c.takeScratch w.id.slot w.id.scr with
    tiles := x.tiles.foldl (fun t e => cellSet t e.1 e.2) (c.tiles.filter fun e => !w.csrs.accmask.getLsbD (e.1 / 4096))
    queues := x.ops.foldl (fun qs e => tabSet qs e.1 ((tabGet qs e.1).getD [] ++ [e.2])) c.queues
    copies := c.copies ++ x.copies }

/-- Saved workgroups take their places one after the other; none if one finds its slot taken or no room beside those on its core,
the ones just restored among them. -/
def State.restoreWgs (s : State) : List Saved → Option State
  | [] => some s
  | x :: xs => if s.slotReady x then (s.restoreWg x).restoreWgs xs else none

/-- Restores a context whose slots are all free; none if one is not. Loads are reissued once every workgroup is back, since
some read another's window (R173); then remote-slot waits go on. -/
def State.restoreContext (s : State) (pid ctx : Nat) (c : Context) : Option State :=
  if s.turnCome pid c then
    let s := s.modCtx pid ctx fun c => { c with
      cstate := 2, haltrsn := 0, saved := [], swapped := false
      run := c.run.map fun r => { r with since := some s.cycle } }
    (s.restoreWgs c.saved).map fun s =>
      let s := c.saved.foldl (fun s x =>
        let (core, slot) := (x.wg.id.core, x.wg.id.slot)
        ((List.range x.wg.ngroups).foldl (fun s g => s.reissueLoads core slot (some g)) s).reissueLoads core slot none) s
      s.serveSlots.settlePart pid
  else none

/-- CONTEXT_RESTORE: a PREEMPTED context, the one of least PRIO first (R143). -/
def execContextRestore (pid ctx : Nat) (s : State) : Res :=
  match s.ctx? pid ctx with
  | none => .next s
  | some c =>
    let before := match s.part? pid with
      | some p => p.ctxs.any fun e => e.2.cstate == 3 && decide (s.prioOf pid e.2 < s.prioOf pid c)
          && s.turnCome pid e.2
      | none => false
    if c.cstate = 3 ∧ (s.ctxWgs pid ctx).isEmpty ∧ !before then .next ((s.restoreContext pid ctx c).getD s) else .next s

/-! ### Dumps (R152) -/

/-- What a halt's dump says of its cause. -/
structure HaltWhy where
  reason : Nat
  cause : Nat
  sub : Nat
  fpc : Nat
  fva : Nat
  detail : Nat

/-- The images that fit, in order (R152). -/
def fitImages (room : Nat) : List (List Byte) → List (List Byte)
  | [] => []
  | b :: bs => if b.length ≤ room then b :: fitImages (room - b.length) bs else fitImages room bs

/-- The dump header (Table 5-11). -/
def dumpHeader (c : Context) (y : HaltWhy) (nwg nwgt cyc : Nat) : List Byte :=
  bytesOf 64 (c.stepn.toNat * 2 ^ 448 + nwg % 2 ^ 32 * 2 ^ 416 + nwgt % 2 ^ 32 * 2 ^ 384 + cyc % 2 ^ 64 * 2 ^ 320
    + y.fpc % 2 ^ 64 * 2 ^ 256 + y.fva % 2 ^ 64 * 2 ^ 192 + y.reason % 256 * 2 ^ 184 + y.cause % 256 * 2 ^ 176
    + y.sub % 256 * 2 ^ 168)

/-- The dump of a context's halted workgroups; an unresolved fault ends it with a record. -/
def State.dump (s : State) (pid ctx : Nat) (c : Context) (y : HaltWhy) (xs : List Saved) : State :=
  let imgs := fitImages (c.dumpsz - 64) (xs.map s.image)
  let cyc := match c.run with | some r => r.cycles s.cycle | none => 0
  match s.agentWriteMany (agentOf pid ctx) c.dumpb.toNat (dumpHeader c y imgs.length xs.length cyc ++ imgs.flatten) with
  | (.ok _, s) => s
  | (.error e, s) => s.post (WgId.ofCtx pid ctx) e 0

/-! ### Halts that retire (R150) -/

/-- The counts a saved workgroup holds, its threads' and its operations' (R115, R116), go. -/
def State.dropSaved (s : State) (x : Saved) : State :=
  (s.addHeld x.wg (-1)).modCore x.wg.id.core fun c =>
    (x.ops.filterMap (·.2.parity) ++ x.copies.filterMap (·.parity) ++ (x.wg.mailbox.bind (·.2)).toList).foldl (fun c q => c.addCount q (-1)) c

/-- Every workgroup of a context is gone, resident or saved, with its reader counts (Table 4-5). -/
def State.discardAll (s : State) (pid ctx : Nat) : State :=
  let saved := match s.ctx? pid ctx with | some c => c.saved | none => []
  let s := (s.ctxWgs pid ctx).foldl State.discardWg s
  let s := saved.foldl (fun s x => ((s.dropSaved x).closeWindows x.wg)) s
  s.modCtx pid ctx fun c => { c with saved := [], swapped := false }

/-- A context is halted and dumped, and every request in a slot is retired (R150 to R152). -/
def State.haltContext (s : State) (pid ctx : Nat) (y : HaltWhy) : State :=
  let s := (s.ctxWgs pid ctx).foldl (fun s w => s.flushStats w.id.core w.id.slot) s
  match s.ctx? pid ctx with
  | none => s
  | some c =>
    let s := s.dump pid ctx c y ((s.ctxWgs pid ctx).map (fun w => s.savedOf (w.saveThreads s.cycle)) ++ c.saved)
    let s := s.discardAll pid ctx
    let s := c.adm.slots.foldl (fun s e => (s.returnSlot pid e.2).retireHalted pid ctx e.1 y.detail) s
    let s := s.modCtx pid ctx fun c => { c with
      stepn := c.stepn + 1, overrun := if y.reason = 3 then c.overrun + 1 else c.overrun, haltrsn := y.reason, cstate := 4
      run := none, wasIdle := false, haltAtClose := false, formNext := false }
    (s.settlePart pid).raiseVf pid 1

/-- DEADLINE: the count has passed it before the step ends. -/
def execDeadline (pid ctx : Nat) (s : State) : Res :=
  match s.ctx? pid ctx with
  | none => .next s
  | some c =>
    match c.run with
    | none => .next s
    | some r =>
      if c.cstate = 2 ∧ c.margin ≠ 0xFFFFFFFF ∧ r.deadline.toNat < r.cycles s.cycle ∧ s.quiet true pid ctx then
        .next (s.haltContext pid ctx { reason := 3, cause := cDeadline, sub := 0, fpc := 0, fva := 0, detail := cDeadline })
      else .next s

/-- Whether a context is of the fault domain of another and is halted with it (R151). -/
def State.inDomain (s : State) (pid ctx : Nat) (e : Nat × Context) : Bool :=
  match s.ctx? pid ctx with
  | some c => s.fdomOf pid e.2 == s.fdomOf pid c && (e.2.cstate != 4 || e.2.haltrsn == 1)
  | none => false

/-- The contexts that a fatal fault halts. -/
def State.domainOf (s : State) (pid ctx : Nat) : List Nat :=
  match s.part? pid with
  | some p => (p.ctxs.filter fun e => s.inDomain pid ctx e).map (·.1)
  | none => []

end Sys2Proof.Machine
end

