-- ==== Sys2Proof/Machine/Faults.lean ====
section
/-! DEFINITION. Fault records to their end (R70, R79 to R85, R140, R151), replays, collapses that threads wait for (R75, R76),
entry to the trap handler and return from it (R400 to R402), SYS.HALT, and the completions that threads wait for
(R201, R225, R300 to R302). -/

namespace Sys2Proof.Machine

/-! ### Records -/

def FaultRec.va (r : FaultRec) : Nat := bitsAt r.bits.toNat 255 192
def FaultRec.pc (r : FaultRec) : Nat := bitsAt r.bits.toNat 191 128
def FaultRec.cause (r : FaultRec) : Nat := bitsAt r.bits.toNat 79 72
def FaultRec.sub (r : FaultRec) : Nat := bitsAt r.bits.toNat 71 64
def FaultRec.ctx (r : FaultRec) : Nat := bitsAt r.bits.toNat 45 41
def FaultRec.acc (r : FaultRec) : Nat := bitsAt r.bits.toNat 29 28
def FaultRec.sv (r : FaultRec) : Bool := bitAt r.bits.toNat 40
def FaultRec.bslot (r : FaultRec) : Nat := bitsAt r.bits.toNat 39 30

/-- The record with its OUTCOME decided, and its SUB replaced. -/
def FaultRec.decide (r : FaultRec) (oc sub : Nat) : FaultRec :=
  { r with outcome := some oc
           bits := r.bits &&& ~~~(BitVec.ofNat 256 (3 * 2 ^ 23 + 0xFF * 2 ^ 64))
             ||| BitVec.ofNat 256 (oc % 4 * 2 ^ 23 + sub % 256 * 2 ^ 64) }

/-- R207 step 1 with R70: every page that the instruction at a PC occupies is mapped, if it can be. -/
def State.resolveFetch (s : State) (pid ctx core pc : Nat) : Nat → Resolved
  | 0 => .fatal
  | n + 1 =>
    let who : Who := { pid := pid, ctx := ctx, die := dieOf core }
    let page := fun (s : State) (va : Nat) (k : State → Resolved) =>
      match s.xlate who va .fetch false with
      | (.cause code sub _, _, s) =>
        (match s.resolve pid ctx va code sub with
         | .installed s => k s
         | x => x)
      | (_, _, s) => k s
    page s pc fun s =>
      match s.fetchWord who 0 pc with
      | (.ok w0, s) => page s (pc + 4 * wordsOfLen (nthD 0 w0 0) - 1) .installed
      | (.error _, s) => s.resolveFetch pid ctx core pc n

/-- Whether the threads that raised a record have nothing else outstanding, apart from loads that a save abandoned, and from all
loads when the cause is fatal (Tables 5-8 and 14-10): the record is delivered only then. -/
def State.recordDue (s : State) (r : FaultRec) : Bool :=
  let mayReplay := r.cause == cTranslation || r.cause == cDiscarded || r.cause == cCollapseWait
  let clear := fun (t : Thread) => t.outs.all fun o => o.reissue.isSome && (!mayReplay || !o.ready)
  match s.wg? r.core r.slot with
  | none => true
  | some w =>
    if r.pid != w.id.pid || r.ctx != w.id.ctx then true
    else if r.source = 0 then
      (List.range 32).all fun l => !bitAt r.bits.toNat (96 + l) || (w.lane? r.group l).all clear
    else r.source != 1 || clear w.ctl

/-- FAULT_RESOLUTION: the system controller resolves the record or declares it fatal (R70, R77, R81, R83). -/
def execFaultResolution (n : Nat) (s : State) : Res :=
  match tabGet s.frecs n with
  | none => .next s
  | some r =>
    if r.outcome.isSome || !s.recordDue r then .next s
    else
      let put := fun (s : State) (oc sub : Nat) => ({ s with frecs := tabSet s.frecs n (r.decide oc sub) } : State)
      if r.cause = cCollapseWait then
        let who : Who := { pid := r.pid, ctx := r.ctx, die := dieOf r.core }
        match (s.ctx? r.pid r.ctx).map fun c => s.walk r.va c.l4base 4 with
        | some (.ok l) =>
          let c : Collapse := { die := who.die, pid := r.pid, asid := s.asidOf r.pid r.ctx, va := BitVec.ofNat 64 r.va, pte := l.pte }
          .next (if s.collapseDue c then put ((s.startCollapse who r.va l.pte).finishCollapse c) 2 r.sub else s)
        | _ => .next (put s 2 r.sub)
      else if r.cause = cTranslation ∨ r.cause = cDiscarded then
        let x := if r.acc = 3 ∧ r.cause = cTranslation ∧ r.sub = 1 then s.resolveFetch r.pid r.ctx r.core r.pc 2
          else s.resolve r.pid r.ctx r.va r.cause r.sub
        match x with
        | .installed s => .next (put s 0 r.sub)
        | .noMemory => .next (put s 1 5)
        | .fatal => .next (put s 1 r.sub)
      else .next (put s 1 r.sub)

/-! ### Who waits for a record -/

/-- Whether a workgroup has a group or its control thread waiting for a record. -/
def Wg.waitsOn (w : Wg) (n : Nat) : Bool :=
  w.ctlSusp == .fault n || w.groups.any (fun e => e.2.susp == .fault n) || w.fails.any fun e => e.1 == n

/-- What waited for the record waits for its replay. -/
def Wg.toReplay (w : Wg) (n : Nat) : Wg :=
  { w with ctlSusp := if w.ctlSusp = .fault n then .replay else w.ctlSusp
           fails := w.fails.filter fun e => e.1 != n
           groups := w.groups.map fun e => if e.2.susp = .fault n then (e.1, { e.2 with susp := .replay }) else e }

/-- Engine operations that waited for the record go on. -/
def MxOp.toReplay (o : MxOp) (n : Nat) : MxOp := if o.stop = .fault n then { o with stop := .none } else o
def CopyOp.toReplay (o : CopyOp) (n : Nat) : CopyOp := if o.stop = .fault n then { o with stop := .none } else o

def Saved.waitsOn (x : Saved) (n : Nat) : Bool :=
  x.wg.waitsOn n || x.ops.any (fun e => e.2.stop == .fault n) || x.copies.any fun o => o.stop == .fault n

def Core.toReplay (c : Core) (n : Nat) : Core :=
  { c with queues := c.queues.map fun (q : Nat × List MxOp) => (q.1, q.2.map fun (o : MxOp) => o.toReplay n)
           copies := c.copies.map fun (o : CopyOp) => o.toReplay n }
def Saved.toReplay (x : Saved) (n : Nat) : Saved :=
  { x with wg := x.wg.toReplay n, ops := x.ops.map fun (e : Nat × MxOp) => (e.1, e.2.toReplay n)
           copies := x.copies.map fun (o : CopyOp) => o.toReplay n }

/-- A replay takes effect on what is resident and on what is saved. -/
def State.replayAll (s : State) (pid ctx n : Nat) : State :=
  let s := { s with
    wgs := s.wgs.map fun (e : Nat × Wg) => (e.1, e.2.toReplay n)
    cores := s.cores.map fun (e : Nat × Core) => (e.1, e.2.toReplay n) }
  s.modCtx pid ctx fun c => { c with saved := c.saved.map fun (x : Saved) => x.toReplay n }

/-! ### The end of a workgroup by a fault (R85, R140) -/

/-- Every thread has ended; nothing of the workgroup issues or waits any more. -/
def Wg.kill (w : Wg) : Wg :=
  { w with
    lanes := w.lanes.map fun e => (e.1, e.2.finish), ctl := w.ctl.finish, ended := true, ctlSusp := .none, ctlReplay := none
    ctlTrap := none, ctlHeld := none, fails := [], mailbox := none
    groups := w.groups.map fun e => (e.1, { e.2 with
      pend := 0, replay := none, susp := .none, traps := [], waitAll := 0, waitGrp := 0 }) }

/-- A resident workgroup ended by a fault: its reader counts go, and so do its operations that wait for a record; the others
complete, its messages among them (Table 14-10), and so do the collapses it waited for (R75). -/
def State.killWg (s : State) (w : Wg) : State :=
  let s := (s.orphanCollapses w).addReaders w (-1)
  let (core, slot) := (w.id.core, w.id.slot)
  let x := s.savedOf w
  let deadOps := x.ops.filter fun e => e.2.stop.onRecord
  let deadCopies := x.copies.filter fun o => o.stop.onRecord
  let s := s.modCore core fun c => { c with
    queues := c.queues.map fun q => (q.1, q.2.filter fun o => !(o.slot == slot && o.stop.onRecord))
    copies := c.copies.filter fun o => !(o.slot == slot && o.stop.onRecord) }
  let s := deadOps.foldl (fun s e => s.endOp core slot e.2.parity) s
  let s := deadCopies.foldl (fun s o => s.endOp core slot o.parity) s
  let s := match w.mailbox with | some (_, par) => s.endOp core slot par | none => s
  s.modWg core slot Wg.kill

/-- A saved workgroup that waits for a record, ended by it. -/
def Saved.kill (x : Saved) (n : Nat) : Saved :=
  if x.waitsOn n then
    { x with wg := { x.wg.kill with engOps := x.wg.engOps - x.ops.length - x.copies.length }, ops := [], copies := [] }
  else x

/-- A saved workgroup ended by a fault. -/
def State.killSaved (s : State) (pid ctx n : Nat) : State :=
  match s.ctx? pid ctx with
  | none => s
  | some c =>
    let s := c.saved.foldl (fun s x => if x.waitsOn n then s.dropSaved x else s) s
    s.modCtx pid ctx fun c => { c with saved := c.saved.map fun (x : Saved) => x.kill n }

/-- The resident workgroup that waits for a record, itself or by an operation. -/
def State.waiter? (s : State) (n : Nat) : Option Wg :=
  (s.wgs.find? fun e => (s.savedOf e.2).waitsOn n).map (·.2)

/-- Whether anything waits for a record. -/
def State.awaited (s : State) (pid ctx n : Nat) : Bool :=
  (s.waiter? n).isSome || match s.ctx? pid ctx with
    | some c => c.saved.any fun x => x.waitsOn n
    | none => false

/-- The context's fault domain halts (R151). -/
def State.haltDomain (s : State) (pid ctx : Nat) (y : HaltWhy) : State :=
  (s.domainOf pid ctx).foldl (fun s k => s.haltContext pid k y) s

/-- A fatal record takes effect (R85). -/
def State.fatalRecord (s : State) (r : FaultRec) (n : Nat) : State :=
  if !s.awaited r.pid r.ctx n then s
  else if r.sv then
    let s := s.faultSlot r.pid r.ctx r.bslot r.cause r.sub
    match s.waiter? n with
    | some w => s.killWg w
    | none => s.killSaved r.pid r.ctx n
  else
    let mark := fun (x : Saved) => if x.waitsOn n then { x with wg := { x.wg with faulter := true } } else x
    let s := match s.waiter? n with
      | some w => s.setWg { w with faulter := true }
      | none => s.modCtx r.pid r.ctx fun c => { c with saved := c.saved.map mark }
    s.haltDomain r.pid r.ctx { reason := 4, cause := r.cause, sub := r.sub, fpc := r.pc, fva := r.va, detail := r.cause }

/-- The 32 bytes are written at FQTAIL mod 4,096, FQTAIL increments, and vector 1 is raised (R81). -/
def State.writeRecord (s : State) (r : FaultRec) (n : Nat) : State :=
  let s := s.modPart r.pid fun p => { p with fq := tabSet p.fq (p.fqtail.toNat % 4096) r.bits, fqtail := p.fqtail + 1 }
  ({ s with frecs := tabDel s.frecs n }).raiseVf r.pid 1

/-- FAULT_QUEUE_WRITE: the decided record is written once there is room, and takes effect (R81). -/
def execFaultQueueWrite (n : Nat) (s : State) : Res :=
  match tabGet s.frecs n with
  | none => .next s
  | some r =>
    match r.outcome, s.part? r.pid with
    | some oc, some p =>
      let halts := oc == 1 && !r.sv && s.awaited r.pid r.ctx n
      if 4096 ≤ p.fqUsed then .next s
      else if halts && !((s.domainOf r.pid r.ctx).all fun k => s.quiet true r.pid k) then .next s
      else
        let s := s.writeRecord r n
        .next (if oc = 1 then s.fatalRecord r n else s.replayAll r.pid r.ctx n)
    | _, none => .next { s with frecs := tabDel s.frecs n }
    | none, _ => .next s

/-! ### Replays (R75, R76, R84) -/

/-- The suspended access or instruction of a group or control thread, made again. -/
def State.replayThread (s : State) (w : Wg) (ctl : Bool) (g : Nat) : State :=
  if ctl then
    match w.ctlReplay with
    | none => s.setWg { w with ctlSusp := .none }
    | some q =>
      let w := { w with ctlSusp := .none, ctlReplay := none }
      let p : Path := { w := w, ctl := true, grp := 0, mask := 1, uni := w.s }
      p.replay (s.setWg w) q
  else
    let x := w.group g
    match x.replay with
    | none => s.setWg (w.setGroup g { x with susp := .none, pend := 0 })
    | some q =>
      let w := w.setGroup g { x with susp := .replay }
      let p : Path := { w := w, ctl := false, grp := g, mask := x.pend, uni := w.s }
      p.replay (s.setWg w) q

/-- The workgroup of a thread reference, whether it is the control thread, and the group. -/
def State.threadWg (s : State) (t : ThreadRef) : Option (Wg × Bool × Nat) :=
  match t with
  | .lanes core slot g _ => (s.wg? core slot).map fun w => (w, false, g)
  | .ctrl core slot => (s.wg? core slot).map fun w => (w, true, 0)

/-- Whether a group or the control thread has loads that a save abandoned and that are not yet made again. -/
def Wg.mustReload (w : Wg) (ctl : Bool) (g : Nat) : Bool :=
  !(lostLoads (if ctl then [w.ctl] else (w.groupLanes g).map (·.2))).isEmpty

/-- What a group or the control thread is suspended on. -/
def Wg.suspOf (w : Wg) (ctl : Bool) (g : Nat) : Susp := if ctl then w.ctlSusp else (w.group g).susp

/-- FAULT_REPLAY. -/
def execFaultReplay (t : ThreadRef) (s : State) : Res :=
  match s.threadWg t with
  | some (w, ctl, g) => .next (if w.suspOf ctl g = .replay ∧ !w.mustReload ctl g then s.replayThread w ctl g else s)
  | none => .next s

/-- The collapses whose workgroups have ended are carried out, those that need wait for no access any more. -/
def State.finishOrphans (s : State) : State :=
  (s.collapses.filter fun c => c.orphan && s.collapseDue c).foldl State.finishCollapse s

/-- COLLAPSE: the collapse that a thread waits for is carried out, once every access through the page has performed (R73), or
the BUSY bit it met is clear, and its access is made again, after the loads before it that a save abandoned (R253). The engines
carry out what ended workgroups have left them at the same turn (log 137, DESIGN CHOICE). -/
def execCollapse (t : ThreadRef) (s : State) : Res :=
  let s := s.finishOrphans
  match s.threadWg t with
  | none => .next s
  | some (w, ctl, g) =>
    let again := fun (s : State) => match s.wg? w.id.core w.id.slot with
      | some w => s.replayThread w ctl g
      | none => s
    if w.mustReload ctl g then .next s
    else match w.suspOf ctl g with
    | .collapse va =>
      (match s.collapseOf w.id.pid w.id.ctx va with
       | some c => .next (if s.collapseDue c then again (s.finishCollapse c) else s)
       | none => .next (again s))
    | .busy va => .next (if s.pageBusy w.id.pid w.id.ctx va.toNat then s else again s)
    | _ => .next s

/-! ### The trap handler (R401, R402) -/

/-- The group whose handler cause is taken next: the lowest. -/
def Wg.trapGroup (w : Wg) : Option (Nat × TrapReq) :=
  ((List.range w.ngroups).filterMap fun g => (w.group g).traps.head?.map fun r => (g, r)).head?

/-- A handler cause is taken: the handler is entered, or with TRAPVEC = 0 or no control thread the fatal treatment applies
(R400, R401). -/
def State.takeTrap (s : State) (w : Wg) (r : TrapReq) (lane : Bool) (g : Nat) : State :=
  if w.csrs.trapvec = 0 ∨ w.ctl.ended then
    s.fatalHandler (if lane then w.setGroup g { w.group g with traps := (w.group g).traps.tail } else w) r lane g
  else s.setWg (w.enterHandler r lane g)

/-- TRAP_ENTRY: with HM = 0 and nothing of the control thread outstanding, its own cause or that of the lowest waiting
group is taken, once the trapped lanes have nothing outstanding either (Table 14-10). -/
def execTrapEntry (core slot : Nat) (s : State) : Res :=
  match s.wg? core slot with
  | none => .next s
  | some w =>
    if w.ended || w.csrs.hm || !w.ctl.outs.isEmpty || w.ctlSusp != .none then .next s
    else match w.ctlTrap with
    | some r => .next (s.takeTrap { w with ctlTrap := none } r false 0)
    | none =>
      match w.trapGroup with
      | none => .next s
      | some (g, r) =>
        if (lanesOf r.mask).all fun l => (w.lane? g l).all fun t => t.outs.isEmpty then .next (s.takeTrap w r true g) else .next s

/-- The end of a workgroup by ERET with KILL = 1 (R85, R402). A dump's FPC is TRAPPC (log 56, DEDUCED), and its FVA is 0 (log 129,
DESIGN CHOICE). -/
def State.killByHandler (s : State) (w : Wg) : State :=
  let cause := bitsAt w.csrs.trapcause.toNat 7 0
  let sub := bitsAt w.csrs.trapcause.toNat 15 8
  let w := { w with csrs := { w.csrs with hm := false, kill := false } }
  if bitAt w.id.slotv.toNat 31 then
    ((s.setWg w).faultSlot w.id.pid w.id.ctx (w.id.slotv.toNat % 1024) cause sub).killWg w
  else
    (s.setWg { w with faulter := true }).haltDomain w.id.pid w.id.ctx
      { reason := 4, cause := cause, sub := sub, fpc := w.csrs.trappc.toNat, fva := 0, detail := cause }

/-- ERET. -/
def execEret (f : SForm) (s : State) : Res :=
  match s.path? with
  | none => .fault .noThread
  | some (p, s) =>
    if (p.active f.g).isEmpty then .next (p.retire s 4 [])
    else if !p.w.csrs.hm then p.illegalInstr s
    else if !p.w.csrs.kill then .next (s.setWg p.w.leaveHandler)
    else if !bitAt p.w.id.slotv.toNat 31 && !((s.domainOf p.w.id.pid p.w.id.ctx).all fun k => s.quiet true p.w.id.pid k) then
      s.hold
    else .next (s.killByHandler p.w)

/-! ### Halt by CTX_HALT or SYS.HALT (R127) -/

/-- A context that is not HALTED is halted with HOST: a RUNNING one is saved. -/
def State.hostHalt (s : State) (pid ctx : Nat) (c : Context) : State :=
  let s := if c.cstate = 1 then s else s.saveContext pid ctx
  (s.modCtx pid ctx fun x => { x with cstate := 4, haltrsn := 1, wasIdle := c.cstate == 1 }).settlePart pid

/-- SYS.HALT (R405): it waits until what the context has in flight is settled and its images have room (R147). -/
def execSysHalt (f : LForm) (s : State) : Res :=
  match s.path? with
  | none => .fault .noThread
  | some (p, s) =>
    let (pid, ctx, n) := (p.w.id.pid, p.w.id.ctx, codedLen false f)
    if (p.active f.g).isEmpty then .next (p.retire s n [])
    else if !(s.quiet false pid ctx && s.shadowFits pid ctx) then s.hold
    else
      let s := p.retire s n []
      match s.ctx? pid ctx with
      | some c => .next ((s.hostHalt pid ctx c).raiseVf pid 1)
      | none => .next s

/-! ### Completions -/

/-- What a lane or the control thread takes of an outstanding instruction's results: all of them for the choice 0, or one
register, the others later (R203). Either way the loads before it may no longer be abandoned (R253). -/
def Wg.takeResults (w : Wg) (ctl : Bool) (g l tag n : Nat) : Wg :=
  match (if ctl then some w.ctl else w.lane? g l).bind fun t => t.outs.find? fun o => o.tag == tag && o.ready with
  | none => w
  | some o =>
    match (if n % (o.writes.length + 1) = 0 then none else o.writes.drop (n % (o.writes.length + 1) - 1)) with
    | some (x :: _) =>
      if o.writes.length = 1 then w.complete ctl g l tag o.writes
      else
        let part := fun (t : Thread) => { t.bindBefore tag with outs := (t.bindBefore tag).outs.map fun y =>
          if y.tag == tag then { y with writes := y.writes.erase x, reissue := none } else y }
        (if ctl then { w with ctl := part w.ctl } else w.modLane g l part).writes ctl g l [x]
    | _ => w.complete ctl g l tag o.writes

/-- Whether a thread has results of an outstanding instruction for more than one register. -/
def Thread.parts (t : Thread) (tag : Nat) : Bool := t.outs.any fun o => o.tag == tag && o.ready && decide (1 < o.writes.length)

/-- LONG_LATENCY_COMPLETE: the results of an outstanding instruction are written to the lanes named (R201), those of more
registers than one together or one by one (R203); a load that a pre-emption abandoned, and that a fault has kept from being
made again, is made now. -/
def execLongLatencyComplete (t : ThreadRef) (tag : Nat) (s : State) : Res :=
  match t with
  | .ctrl core slot =>
    let (n, s) := if (s.wg? core slot).any fun w => w.ctl.parts tag then s.choose else (0, s)
    .next ((s.modWg core slot fun w => w.takeResults true 0 0 tag n).reissueLoads core slot none)
  | .lanes core slot g m =>
    let (n, s) := if (s.wg? core slot).any fun w => (lanesOf m).any fun l => (w.lane? g l).any fun t => t.parts tag
      then s.choose else (0, s)
    .next ((s.modWg core slot fun w => (lanesOf m).foldl (fun w l => w.takeResults false g l tag n) w).reissueLoads core slot (some g))

/-- The lanes of a group that wait at a barrier go on, and the group reads what the control thread has written to s-registers: with .GRP
this group alone (log 163, DESIGN CHOICE). -/
def Wg.release (w : Wg) (g : Nat) (grpOnly : Bool) : Wg :=
  let x := w.group g
  let m := if grpOnly then x.waitGrp else x.waitAll
  let w := (lanesOf m).foldl (fun w l => w.modLane g l fun t => match t.wait with
    | .barrier n => { t with wait := .none, pc := t.pc + BitVec.ofNat 64 n }
    | _ => t) w
  w.setGroup g { (if grpOnly then { x with waitGrp := 0 } else { x with waitAll := 0 }) with sFloor := w.sSeq }

/-- SYNCG_COMPLETE: the arrivals are all the lanes that have not exited (R225). -/
def execSyncgComplete (core slot : Nat) (group : Option Nat) (s : State) : Res :=
  .next (s.modWg core slot fun w =>
    match group with
    | some g =>
      let x := w.group g
      if x.waitGrp != 0 && x.waitGrp == w.living g then (w.release g true).trimQueue else w
    | none =>
      let gs := List.range w.ngroups
      if gs.any (fun g => (w.group g).waitAll != 0) && gs.all fun g => (w.group g).waitAll == w.living g then
        (gs.foldl (fun w g => w.release g false) w).trimQueue
      else w)

/-- PHC of the level object at an address, if it can be read. -/
def State.phcAt (s : State) (w : WgId) (ea : DWord) : Option Nat × State :=
  match s.engRead w false ea.toNat 16 with
  | (.ok bs, s) => (some (lvPhc (ofBytes bs)), s)
  | (.error _, s) => (none, s)

/-- Whether a lane's wait on a level object is over; a wait whose object can no longer be read is made again. TARGET is not looked at any
more (log 165, DESIGN CHOICE). -/
def State.levelOver (s : State) (w : WgId) (ea : DWord) (phc : Word) : Option Bool × State :=
  match s.phcAt w ea with
  | (none, s) => (none, s)
  | (some x, s) => (some (x != phc.toNat), s)

/-- Lanes of one LVWAIT, each with its object and value. -/
def Wg.waitersOf (w : Wg) (g : Nat) (mask : LaneMask) : List (Nat × DWord × Word × LaneMask × LaneMask × Nat) :=
  (lanesOf mask).filterMap fun l => match (w.lane? g l).map (fun (t : Thread) => t.wait) with
    | some (Wait.level ea phc m path n) => some (l, ea, phc, m, path, n)
    | _ => none

/-- The path's wait is over: its lanes pass n bytes on, or stay at the LVWAIT to make it again. -/
def Wg.endWaits (w : Wg) (g : Nat) (path : LaneMask) (n : Nat) : Wg :=
  (lanesOf path).foldl (fun w l => w.modLane g l fun t => { t with wait := .none, pc := t.pc + BitVec.ofNat 64 n }) w

/-- A lane path's LVWAIT, held until every object of its lanes has moved on (R300), and then watched (R399). -/
def State.endLevelWait (s : State) (w : Wg) (g : Nat) (mask : LaneMask) : State :=
  match w.waitersOf g mask with
  | [] => s
  | (l0, ea0, ph0, m, path, n) :: rest =>
    let all := (l0, ea0, ph0, m, path, n) :: rest
    if maskOfLanes (all.map (·.1)) != m then s
    else
      let (os, s) := all.foldl (fun (a : List (Option Bool) × State) e =>
        let (o, s) := a.2.levelOver w.id e.2.1 e.2.2.1
        (a.1 ++ [o], s)) ([], s)
      if os.any (·.isNone) then s.setWg (w.endWaits g m 0)
      else if os.all (· == some true) then
        let pc := match w.lane? g l0 with | some t => t.pc | none => 0
        let s := s.setWg (w.endWaits g path n)
        match all.find? fun e => w.watches .read e.2.1.toNat 16 with
        | some e =>
          let p : Path := { w := w, ctl := false, grp := g, mask := m, uni := w.s }
          p.raiseWatch s pc .read e.2.1.toNat m
        | none => s
      else s

/-- A control thread's LVWAIT or SSTEP (R300, R301). -/
def State.endCtlWait (s : State) (w : Wg) : State :=
  let go := fun (s : State) (ea : DWord) (phc : Word) (n : Nat) (acc : Acc) =>
    let pass := fun (s : State) (n : Nat) =>
      s.setWg { w with ctl := { w.ctl with wait := .none, pc := w.ctl.pc + BitVec.ofNat 64 n } }
    match s.levelOver w.id ea phc with
    | (none, s) => s.setWg { w with ctl := { w.ctl with wait := .none } }
    | (some false, s) => s
    | (some true, s) =>
      if w.watches acc ea.toNat 16 then
        let p : Path := { w := w, ctl := true, grp := 0, mask := 1, uni := w.s }
        p.raiseWatch (pass s n) w.ctl.pc acc ea.toNat 1
      else pass s n
  match w.ctl.wait with
  | .level ea phc _ _ n => go s ea phc n .read
  | .sstep ea phc => go s ea phc 12 .atomic
  | _ => s

/-- LVWAIT_COMPLETE. -/
def execLvwaitComplete (t : ThreadRef) (s : State) : Res :=
  match t with
  | .ctrl core slot => .next (match s.wg? core slot with | some w => s.endCtlWait w | none => s)
  | .lanes core slot g m => .next (match s.wg? core slot with
      | some w =>
        let mask := match (w.waitersOf g m).head? with | some e => e.2.2.2.1 | none => 0
        s.endLevelWait w g mask
      | none => s)

end Sys2Proof.Machine
end

