-- ==== Sys2Proof/Machine/Dispatcher.lean ====
section
/-! DEFINITION. The dispatcher: placement (R158 to R160), the start of workgroups (R176), completion (R157), and persistent
kernels (R161, R396). -/

namespace Sys2Proof.Machine

/-! ### Placement (R158 to R160) -/

/-- Clusters of a mask. -/
def clustersOf (m : Nat) : List Nat := (List.range 72).filter fun i => bitAt m i

/-- The placement-table pointer that one decision reads, `now` being what the cell holds. The read is ordered after no PUBLISH of
the running step (R418), so it may see the cell as it was before a write of the step, but not older than the decision before saw it
(R256), nor than the epoch, whose sections hold what the pointer leads to (R117, R122; log 139, DEDUCED). -/
def State.readCell (s : State) (who : Who) (va now : Nat) : Nat × State :=
  match (s.ctx? who.pid who.ctx).bind (·.run) with
  | none => (now, s)
  | some r =>
    let e := (s.domain (s.domOf who.pid)).e
    let old := (r.past.take (r.past.length - r.cellSeen)).takeWhile fun x => x.e == e
    let (n, s) := if old.isEmpty then (0, s) else s.choose
    let age := n % (old.length + 1)
    let cell := match age with
      | k + 1 => ((old[k]?).bind fun x => s.pastView x va).elim now fun v => ofBytes (memRead v.1 v.2 8)
      | 0 => now
    (cell, s.modCtx who.pid who.ctx fun c => { c with run := some { r with cellSeen := r.past.length - age } })

/-- The clusters a placement table allows workgroup w of node i, by the entry's fields; none when the table says
nothing that counts or an access of it meets an unresolved fault (R159). A pointer cell that holds 0 names no table (log 131,
DEDUCED). -/
def State.tableMask (s : State) (who : Who) (placep i w : Nat) : Option Nat × State :=
  if placep = 0 then (none, s)
  else match s.agentRead who placep 8 with
  | (.error _, s) => (none, s)
  | (.ok now, s) =>
    let (tab, s) := s.readCell who placep now
    if tab = 0 then (none, s)
    else match s.agentRead who tab 4 with
    | (.error _, s) => (none, s)
    | (.ok nent, s) =>
      if nent ≤ i then (none, s)
      else match s.agentReadMany who (tab + 64 + 32 * i) 4 8 with
      | (.error _, s) => (none, s)
      | (.ok bs, s) =>
        let e := ofBytes bs
        let (nkey, kdiv, ktab) := (bitsAt e 183 176, bitsAt e 175 160, bitsAt e 159 96)
        if kdiv = 0 then (none, s)
        else if nkey = 0 then (some (bitsAt e 255 184), s)
        else match s.agentReadMany who (ktab + 16 * (w / kdiv % nkey)) 2 8 with
        | (.error _, s) => (none, s)
        | (.ok bs, s) => (some (ofBytes bs % 2 ^ 72), s)

/-- The allowed clusters. -/
def State.allowed (s : State) (pid ctx : Nat) (c : Context) (i w : Nat) : List Nat × State :=
  let own := c.clmask.toNat
  let (m?, s) := s.tableMask (agentOf pid ctx) c.placep.toNat i w
  let m := match m? with | some m => Nat.land m own | none => own
  let live := fun m => (clustersOf m).filter fun k => !(s.cluster k).offline
  (live (if m = 0 then own else m), s)

/-- The element with the greatest value, the first on a tie. -/
def bestBy (f : Nat → Nat) : List Nat → Option Nat
  | [] => none
  | x :: xs => match bestBy f xs with
    | some y => if f x < f y then some y else some x
    | none => some x

/-- The core (core 0 of the cluster for a quartet) that takes workgroup w of node i now, if one does. The key of a quartet is that of
its first workgroup (log 149, DESIGN CHOICE). -/
def State.placeFor (s : State) (pid ctx : Nat) (c : Context) (n : BitVec 1024) (i w : Nat) : Option Nat × State :=
  let (cls, s) := s.allowed pid ctx c i w
  let free := fun k => ((List.range 4).map fun j => s.freeLanes (4 * k + j)).sum
  let need := ndNeed n
  if ndClpl n then
    let ok := cls.filter fun k => (List.range 4).all fun j => s.fits (4 * k + j) need
    (if w % 4 = 0 then (bestBy free ok).map (4 * ·) else none, s)
  else match bestBy free cls with
  | none => (none, s)
  | some k => (bestBy s.freeLanes (((List.range 4).map (4 * k + ·)).filter fun j => s.fits j need), s)

/-- The first of some workgroups that can be placed, with its node and core. -/
def State.firstOf (s : State) (pid ctx : Nat) (c : Context) (n : BitVec 1024) (i : Nat) :
    List Nat → Option (Nat × Nat × Nat) × State
  | [] => (none, s)
  | w :: ws =>
    match s.placeFor pid ctx c n i w with
    | (some k, s) => (some (i, w, k), s)
    | (none, s) => s.firstOf pid ctx c n i ws

/-- The workgroup that the dispatcher places next for a context: in increasing node index, then w (R158). -/
def State.nextPlaced (s : State) (pid ctx : Nat) (c : Context) : Option (Nat × Nat × Nat) × State :=
  match c.run with
  | none => (none, s)
  | some r =>
    if c.cstate ≠ 2 then (none, s)
    else (List.range r.nodes.length).foldl (fun (a : Option (Nat × Nat × Nat) × State) i =>
      match a with
      | (some x, s) => (some x, s)
      | (none, s) => match r.node? i with
        | some n =>
          let ws := r.waiting i
          s.firstOf pid ctx c n.record i (if ndClpl n.record then
            ws.filter fun w => w % 4 == 0 && [1, 2, 3].all (fun j => ws.contains (w + j)) else ws)
        | none => (none, s)) (none, s)

/-- Whether a step launched earlier, of a context of equal PRIO, has a workgroup for the same core (R143). -/
def State.outranked (s : State) (pid : Nat) (c : Context) (core : Nat) : Bool :=
  match s.part? pid, c.run with
  | some p, some r => p.ctxs.any fun e =>
      s.prioOf pid e.2 == s.prioOf pid c
        && (match e.2.run with | some x => decide (x.launch < r.launch) | none => false)
        && (match (s.nextPlaced pid e.1 e.2).1 with | some (_, _, k) => k == core | none => false)
  | _, _ => false

/-! ### The start of a workgroup (R176) -/

/-- The cells of 32 words in memory order. -/
def argCells (x : Nat) : Cells 32 :=
  (List.range 32).foldl (fun c i => cellSet c i (BitVec.ofNat 32 (x / 2 ^ (32 * i)))) []

/-- A workgroup starts in a slot; an ARGS block that cannot be read ends it before any thread issues. -/
def State.startWg (s : State) (pid ctx : Nat) (c : Context) (r : StepRun) (n : BitVec 1024) (i w core slot : Nat) : State :=
  let b := bindingOf n r.entries w
  let id : WgId := {
    pid := pid, ctx := ctx, node := i, wgi := w, core := core, slot := slot, gnum := s.groupNumbers core (ndNlane n)
    nlane := ndNlane n, nreg := ndNreg n, scr := ndScr n, wpri := ndWpri n, quartet := ndClpl n, persist := ndPersist n
    slotv := match b with | some (e, _) => BitVec.ofNat 32 (2 ^ 31 + e.slot) | none => 0
    req := match b with | some (e, _) => e.reqid | none => 0
    qpos := match b with | some (e, r0) => BitVec.ofNat 32 (e.qpos + r0) | none => 0
    kvlen := match b with | some (e, _) => BitVec.ofNat 32 e.kvlen | none => 0
    step := c.stepn }
  let s := s.modCore core fun k => k.takeScratch slot (ndScr n)
  let s := s.modRun pid ctx fun r => r.modNode i fun x => { x with taken := x.taken ++ [w] }
  let go := fun (s : State) (args : Nat) =>
    s.setWg (Wg.start id (BitVec.ofNat 64 (ndCentry n)) (BitVec.ofNat 64 (ndLentry n)) (argCells args))
  if ndArgs n = 0 then go s 0
  else match s.agentReadMany (agentOf pid ctx) (ndArgs n) 16 8 with
  | (.ok bs, s) => go s (ofBytes bs)
  | (.error e, s) =>
    let s := go s 0
    let (k, s) := s.deliver id { e with acc := 0 } (ndCentry n) 0 0 1 (some 1)
    s.modWg core slot fun x => { x with
      ctlSusp := .fault k, groups := x.groups.map fun g => (g.1, { g.2 with susp := .fault k }) }

/-- WORKGROUP_START: the dispatcher places the workgroup that is next, on the core that is its own, in a free slot; a
quartet starts on the four cores of its cluster together (R160), its other three each in the lowest free slot (log 130, DESIGN
CHOICE). -/
def execWorkgroupStart (pid ctx node wg core slot : Nat) (s : State) : Res :=
  match s.ctx? pid ctx with
  | none => .next s
  | some c =>
    let (x, s') := s.nextPlaced pid ctx c
    match x, c.run, c.run.bind fun r => r.node? node with
    | some (i, w, k), some r, some n =>
      if i = node ∧ w = wg ∧ k = core ∧ slot < 8 ∧ (s'.wg? core slot).isNone ∧ !s.outranked pid c core then
        let s := s'.startWg pid ctx c r n.record i w core slot
        if ndClpl n.record then
          .next ([1, 2, 3].foldl (fun s j =>
            s.startWg pid ctx c r n.record i (w + j) (core + j) (nthD 0 (s.freeSlots (core + j)) 0)) s)
        else .next s
      else .next s
    | _, _, _ => .next s

/-! ### Completion (R157) -/

/-- A unit of a node has completed: its bit is set, and the dispatcher knows it. -/
def State.completeUnit (s : State) (w : Wg) (u : Nat) : State :=
  let node := ((s.ctx? w.id.pid w.id.ctx).bind (·.run)).bind fun r => r.node? w.id.node
  let s := match node with
    | none => s
    | some n =>
      match s.agentUpdate (agentOf w.id.pid w.id.ctx) (ndCmap n.record + u / 8) 1 fun o => Nat.lor o (2 ^ (u % 8)) with
      | (.ok _, s) => s
      | (.error c, s) => s.post w.id c 0
  s.modRun w.id.pid w.id.ctx fun r => r.modNode w.id.node fun x => { x with done := x.done ++ [u] }

/-! ### FETCHW (R161, R396) -/

/-- Byte 28 of a mailbox is written last. -/
def mailWrite (c : Cells 8) (off : Nat) (head : List Byte) (flag : Nat) : Cells 8 :=
  scratchWrite (scratchWrite c off head) (off + 28) [BitVec.ofNat 8 flag]

/-- A FETCHW is answered: the mailbox is written, and the operation ends (R116). -/
def State.answerMail (s : State) (core slot : Nat) (par : Option Nat) (f : Wg → Wg) : State :=
  (s.modWg core slot fun x => { f x with mailbox := none }).endOp core slot par

/-- An unanswered FETCHW goes on once the workgroup's other engine operations have completed: the statistics are flushed and
its current unit completes (R157, R334), and the mailbox receives the lowest ready unit, or 2 when none remains, or waits. -/
def State.serveMailbox (s : State) (core slot : Nat) : State :=
  match s.wg? core slot with
  | none => s
  | some w =>
    match w.mailbox with
    | none => s
    | some (off, par) =>
      if 1 < w.engOps then s
      else
        let s := match w.unit with | some u => (s.flushStats core slot).completeUnit w u | none => s
        let s := s.modWg core slot fun x => { x with unit := none }
        match (s.ctx? w.id.pid w.id.ctx).bind (·.run) with
        | none => s
        | some r =>
          match r.waiting w.id.node, r.node? w.id.node with
          | u :: _, some n =>
            let head := match bindingOf n.record r.entries u with
              | some (e, r0) => [u, 2 ^ 31 + e.slot, e.reqid.toNat, e.qpos + r0, e.kvlen]
              | none => [u, 0, 0, 0, 0]
            (s.answerMail core slot par fun x => { x with
              unit := some u, scratch := mailWrite x.scratch off (head.flatMap (bytesOf 4)) 1 }).modRun w.id.pid w.id.ctx fun r => r.modNode w.id.node fun x => { x with taken := x.taken ++ [u] }
          | [], some n =>
            if n.grid ≤ n.taken.length then
              s.answerMail core slot par fun x => { x with drained := true, scratch := mailWrite x.scratch off [] 2 }
            else s
          | _, none => s

/-- FETCHW. -/
def execFetchw (f : LForm) (s : State) : Res :=
  match s.path? with
  | none => .fault .noThread
  | some (p, s) =>
    let n := codedLen false f
    let off := p.opA p.w.ctl .fetchw f % 2 ^ 32
    if (p.active f.g).isEmpty then .next (p.retire s n [])
    else if !p.w.id.persist then p.illegalInstr s
    else if off % 32 != 0 then .next (p.raise s (Cause.mk cMisaligned 0 off 0 1) false)
    else if !p.w.rangeOk off 32 then .next (p.raise s (Cause.mk cPermission 2 off 0 1) false)
    else if p.w.mailbox.isSome || p.countFull s then s.hold
    else if p.w.drained then
      let w := p.advance p.w n
      .next (s.setWg { w with scratch := mailWrite w.scratch off [] 2 })
    else
      let (par, s) := p.startOp s
      let p := p.reload s
      .next ((s.setWg { p.advance p.w n with mailbox := some (off, par) }).serveMailbox p.w.id.core p.w.id.slot)

/-- WORKGROUP_COMPLETE: an unanswered FETCHW goes on; a workgroup whose threads have ended and whose engine operations
have completed flushes its statistics, completes its unit, closes its windows and leaves its core. -/
def execWorkgroupComplete (core slot : Nat) (s : State) : Res :=
  match s.wg? core slot with
  | none => .next s
  | some w =>
    if w.mailbox.isSome then .next (s.serveMailbox core slot)
    else if w.ctl.ended ∧ (w.lanes.all fun e => e.2.ended) ∧ w.engOps = 0 then
      let s := s.flushStats core slot
      let s := match w.unit with | some u => s.completeUnit w u | none => s
      .next ((s.closeWindows w).leaveCore w)
    else .next s

end Sys2Proof.Machine
end

