-- ==== Sys2Proof/Machine/Former.lean ====
section
/-! DEFINITION. The batch former: formations (R133 to R137), the ragged descriptor (R141), launch (R143, R149, R154, R155,
R422) and step close (R138). -/

namespace Sys2Proof.Machine

def State.ctxD (s : State) (pid ctx : Nat) : Context := (s.ctx? pid ctx).getD Context.blank

/-! ### Cancel records and held entries -/

/-- A request of the queue or the evicted list leaves with an entry (R131). -/
def State.dropWaiting (s : State) (pid ctx : Nat) (r : Request) (kind : Nat) : State :=
  let s := s.modCtx pid ctx fun c => { c with adm := { c.adm with
    queue := c.adm.queue.filter fun x => x.admseq != r.admseq
    evicted := c.adm.evicted.filter fun x => x.admseq != r.admseq } }
  (s.dropCrm pid r).finalOutside pid ctx r kind

/-- The request a cancel record names: the one of lowest key with its REQID; the slot, when it is in one. -/
def Context.named (c : Context) (reqid : Word) : Option (Option Nat × Request) :=
  let all : List (Option Nat × Request) := ((c.adm.queue.filter fun r => r.state != 15) ++ c.adm.evicted).map (fun r => (none, r))
    ++ c.adm.slots.map fun e => (some e.1, e.2)
  (c.byKey (·.2) (all.filter fun e => e.2.reqid == reqid)).head?

/-- One cancel record is applied (R130, R132). -/
def State.applyCancel (s : State) (pid ctx : Nat) (r : Request) : State :=
  match (s.ctxD pid ctx).named r.reqid with
  | none => s
  | some (none, x) => s.dropWaiting pid ctx x rkCancelled
  | some (some n, _) => s.modSlot pid ctx n fun x => if x.state = rqRunning then { x with state := rqCancelling } else x

/-- Every cancel record in queue order; they leave the queue. -/
def State.applyCancels (s : State) (pid ctx : Nat) : State :=
  let cs := (s.ctxD pid ctx).adm.queue.filter fun r => r.state == 15
  let s := s.modCtx pid ctx fun c => { c with adm := { c.adm with queue := c.adm.queue.filter fun r => r.state != 15 } }
  cs.foldl (fun s r => s.applyCancel pid ctx r) s

/-- The bound slots, in increasing number. -/
def Context.bound (c : Context) : List Nat := c.adm.slots.map (·.1)

/-- The held entry of a slot, tried again. -/
def State.writeHeld (s : State) (pid ctx n : Nat) : State :=
  match (s.ctxD pid ctx).slot? n with
  | some r => match r.held with
    | some e => s.putSlot pid ctx n r e
    | none => s
  | none => s

/-- Phases 1 and 2 for a slot: what is finished is retired, what is decided is written and retired. -/
def State.retirePhase (s : State) (pid ctx n : Nat) : State :=
  let c := s.ctxD pid ctx
  match c.slot? n with
  | none => s
  | some r =>
    if r.state = rqFinishing then (if r.owait then s else s.retireSlot pid ctx n)
    else if r.state = rqFaulted ∨ r.state = rqCancelling then
      if r.owait then s
      else
        let s := if r.finalWritten then s else match c.finalEntry r with
          | some e => s.putSlot pid ctx n r e
          | none => s
        match (s.ctxD pid ctx).slot? n with
        | some r => if r.owait then s else s.retireSlot pid ctx n
        | none => s
    else s

/-! ### Reservations (R135) -/

/-- A sequence's demand for q more positions: its entry, data blocks and leaf blocks. -/
def State.demand (s : State) (pid q : Nat) (h : DWord) : Option (Nat × Handle × Nat × Nat) :=
  (s.handleEntry pid h.toNat).bind fun x =>
    let e := x.2
    (s.pool? pid e.pool).map fun p =>
      let n := needOf p e.tshift (e.len + q) - needOf p e.tshift e.len
      (x.1, e, n, leavesOf (needOf p e.tshift (e.len + q)) - leavesOf (needOf p e.tshift e.len))

/-- The demands of a request's sequences. -/
def State.demands (s : State) (pid nseq : Nat) (r : Request) (q : Nat) : List (Nat × Handle × Nat × Nat) :=
  (r.kv.take nseq).filterMap fun h => if h = 0 then none else s.demand pid q h

/-- The sum asked of each pool. -/
def State.asks (s : State) (pid : Nat) (ds : List (Nat × Handle × Nat × Nat)) : Tab Nat :=
  ds.foldl (fun t d =>
    let t := tabSet t d.2.1.pool ((tabGet t d.2.1.pool).getD 0 + d.2.2.1)
    match s.pool? pid d.2.1.pool with
    | some p => tabSet t p.mpool ((tabGet t p.mpool).getD 0 + d.2.2.2)
    | none => t) []

/-- Reserve: every pool grants its sum, or nothing is reserved. A sequence that two slots of the step name holds the
reservations of both (R131). -/
def State.reserve (s : State) (pid : Nat) (ds : List (Nat × Handle × Nat × Nat)) : Option State :=
  let asks := s.asks pid ds
  if asks.all fun e => match s.pool? pid e.1 with | some p => decide (e.2 ≤ p.avail) | none => e.2 == 0 then
    let s := asks.foldl (fun s e => s.modPool pid e.1 fun p => { p with resv := p.resv + e.2 }) s
    some (ds.foldl (fun s d => match s.handle? pid d.1 with
      | some e => s.setHandle pid d.1 { e with rsv := e.rsv + d.2.2.1 + d.2.2.2, rsvM := e.rsvM + d.2.2.2 }
      | none => s) s)
  else none

/-! ### Eviction (R136) -/

/-- Every sequence of a request moves to a pool with a state, or a pool that answered EMPTY is named. -/
def State.moveAll (s : State) (pid dst state : Nat) : List DWord → Except (Option Nat) State
  | [] => .ok s
  | h :: hs =>
    if h = 0 then s.moveAll pid dst state hs
    else match s.handleEntry pid h.toNat with
    | some (i, e) => if e.state = hsLive then match s.moveSequence pid i dst state e with
                       | .ok s => s.moveAll pid dst state hs
                       | .error k => .error k
                     else s.moveAll pid dst state hs
    | none => s.moveAll pid dst state hs

/-- Eviction by recompute: the sequences are dropped or trimmed, and every token is to be processed again. -/
def State.recompute (s : State) (pid : Nat) (r : Request) : Request × State :=
  let (r, s) := (List.range 8).foldl (fun (a : Request × State) i =>
    let (r, s) := a
    let h := nthD 0 r.kv i
    if h = 0 then (r, s)
    else if bitAt r.crm i then
      ({ r with kv := r.kv.take i ++ [0] ++ r.kv.drop (i + 1), crm := r.crm - 2 ^ i },
        match s.handleEntry pid h.toNat with
        | some (k, e) => if e.state = hsLive ∨ e.state = hsSpilled then (s.sqDrop pid k e).2 else s
        | none => s)
    else
      (r, match s.handleEntry pid h.toNat with
        | some (k, e) => if e.state = hsLive then (s.sqTrim pid k 0 e).2 else s
        | none => s)) (r, s)
  ({ r with prem := r.pos + r.prem, pos := 0 }, s)

/-- EMPTY answered to the former counts in its pool (R101); nothing else of what it tried stands. -/
def State.undone (s : State) (pid : Nat) (pool : Option Nat) : State :=
  match pool with | some k => s.countEmpty pid k | none => s

/-- Evict: the request of a slot goes to the evicted list. -/
def State.evict (s : State) (pid ctx n : Nat) : State :=
  let c := s.ctxD pid ctx
  match c.slot? n with
  | none => s
  | some r =>
    let spilled := if c.evmode = 0 then s.moveAll pid c.spool hsSpilled (r.kv.take c.nseq) else .error none
    let (r, s) := match spilled with
      | .ok s => (r, s)
      | .error k => (s.undone pid k).recompute pid r
    let r := { r with state := rqEvicted, evcnt := min (r.evcnt + 1) 255, q := 0 }
    (s.freeSlot pid ctx n).modCtx pid ctx fun c => { c with adm := { c.adm with evicted := c.adm.evicted ++ [r] } }

/-! ### Phase 3 -/

/-- The slots that can run: RUNNING, no held entry, a ring that is not full; in increasing key. -/
def State.runnable (s : State) (pid ctx : Nat) : List Nat × State :=
  let (ns, s) := (s.ctxD pid ctx).bound.foldl (fun (a : List Nat × State) n =>
    match (a.2.ctxD pid ctx).slot? n with
    | none => a
    | some r =>
      if r.state = rqRunning ∧ !r.owait then
        let (full, r, s) := a.2.ringIsFull (agentOf pid ctx) r
        (if full then a.1 else a.1 ++ [n], s.setSlot pid ctx n r)
      else a) ([], s)
  let c := s.ctxD pid ctx
  ((c.byKey (·.2) (ns.filterMap fun n => (c.slot? n).map fun r => (n, r))).map (·.1), s)

/-- The tokens of each runnable slot within a budget: first those that decode, then the prefills. -/
def shareTokens (chunk : Nat) (rs : List (Nat × Nat)) (b : Nat) : Tab Nat × Nat :=
  let (t, b) := rs.foldl (fun (a : Tab Nat × Nat) e => if e.2 = 1 then (tabSet a.1 e.1 1, a.2 - 1) else a) ([], b)
  rs.foldl (fun (a : Tab Nat × Nat) e =>
    if 1 < e.2 then (tabSet a.1 e.1 (min (min e.2 chunk) a.2), a.2 - min (min e.2 chunk) a.2) else a) (t, b)

/-- Reserve for the runnable slots, evicting from the greatest key down. It answers the tokens, the budget left and
the requests evicted. -/
def State.reserveRun (s : State) (pid ctx : Nat) : Nat → List Nat → Tab Nat → Nat → List Nat → Tab Nat × Nat × List Nat × State
  | 0, _, _, b, ev => ([], b, ev, s)
  | fuel + 1, run, q, b, ev =>
    let c := s.ctxD pid ctx
    let ds := run.flatMap fun n => match c.slot? n with
      | some r => let k := (tabGet q n).getD 0; if k = 0 then [] else s.demands pid c.nseq r k
      | none => []
    match s.reserve pid ds with
    | some s => (q, b, ev, s)
    | none =>
      match run.reverse with
      | v :: _ :: _ =>
        let seq := match c.slot? v with | some r => [r.admseq] | none => []
        (s.evict pid ctx v).reserveRun pid ctx fuel run.dropLast (tabDel q v) (b + (tabGet q v).getD 0) (ev ++ seq)
      | _ => ([], b, ev, s.modCtx pid ctx fun c => { c with starve := c.starve + 1 })

/-! ### Admission (R131, R137) -/

/-- Sequence template i (Table 5-2): pool and TSHIFT. -/
def Context.template (c : Context) (i : Nat) : Nat × Nat :=
  (bitsAt c.seqtpl.toNat (11 * i + 10) (11 * i + 5), bitsAt c.seqtpl.toNat (11 * i + 4) (11 * i))

/-- R131, for a record of the queue or a request of the evicted list, whose sequences may be SPILLED. -/
def State.admissible (s : State) (pid : Nat) (c : Context) (r : Request) : Bool :=
  let hs := r.kv.filter fun h => h != 0
  ((r.state == rqQueued && r.asked == 0) || r.state == rqEvicted) && decide (r.nstop ≤ 4) && r.prem != 0 && decide (r.pos + r.prem < r.maxlen)
    && (List.range 8).all (fun i =>
      let h := nthD 0 r.kv i
      if c.nseq ≤ i then h == 0
      else if h = 0 then r.pos == 0
      else match s.handleEntry pid h.toNat with
      | none => false
      | some (_, e) =>
        (e.state == hsLive && e.pool == (c.template i).1 || r.state == rqEvicted && e.state == hsSpilled) && e.tshift == (c.template i).2
          && e.len == r.pos)
    && hs.eraseDups.length == hs.length

/-- The sequences a request needs: created, or restored to the template's pool. At the first refusal the pool that answered EMPTY,
if one did. -/
def State.prepareSeqs (s : State) (pid ctx : Nat) (c : Context) (r : Request) : Nat → Except (Option Nat) (Request × State)
  | 0 => .ok (r, s)
  | k + 1 =>
    match s.prepareSeqs pid ctx c r k with
    | .error e => .error e
    | .ok (r, s) =>
      let h := nthD 0 r.kv k
      if h = 0 then
        let (st, h, s) := s.sqCreate pid ctx (c.template k).1 (c.template k).2
        if st = psOk then
          .ok ({ r with kv := r.kv.take k ++ [BitVec.ofNat 64 h] ++ r.kv.drop (k + 1), crm := Nat.lor r.crm (2 ^ k) }, s)
        else .error (if st = psEmpty then (s.pool? pid (c.template k).1).map (·.mpool) else none)
      else match s.handleEntry pid h.toNat with
      | some (i, e) =>
        if e.state = hsSpilled then
          match s.moveSequence pid i (c.template k).1 hsLive e with
          | .ok s => .ok (r, s)
          | .error k => .error k
        else .ok (r, s)
      | none => .ok (r, s)

/-- Whether a sequence with q more positions stays inside SEQ_LIMIT. -/
def State.seqRoom (s : State) (pid q : Nat) (e : Handle) : Bool :=
  match s.pool? pid e.pool with
  | some p => decide (e.len + q < 2 ^ 32) && decide (needOf p e.tshift (e.len + q) ≤ 262144)
  | none => true

/-- Prepare: everything, or nothing. -/
def State.prepare (s : State) (pid ctx : Nat) (c : Context) (r : Request) (q : Nat) : Except (Option Nat) (Request × State) :=
  match s.prepareSeqs pid ctx c r c.nseq with
  | .error e => .error e
  | .ok (r, s) =>
    let ds := s.demands pid c.nseq r q
    match (if ds.all fun d => s.seqRoom pid q d.2.1 then s.reserve pid ds else none) with
    | some s => .ok (r, s)
    | none => .error none

/-- Phase 4 over the waiting requests in key order, `b` tokens left; the tokens of the slots bound are added. -/
def State.admitAll (s : State) (pid ctx : Nat) : List Request → Tab Nat → Nat → Tab Nat × State
  | [], q, _ => (q, s)
  | w :: ws, q, b =>
    let c := s.ctxD pid ctx
    if !s.admissible pid c w then (s.dropWaiting pid ctx w rkRejected).admitAll pid ctx ws q b
    else if w.state = rqQueued ∧ c.nslot ≤ c.adm.slots.length + c.adm.evicted.length then s.admitAll pid ctx ws q b
    else match (List.range c.nslot).find? fun n => (c.slot? n).isNone with
    | none => (q, s)
    | some n =>
      if b = 0 then (q, s)
      else
        let k := min (min w.prem c.chunk) b
        match s.prepare pid ctx c w k with
        | .error e => (q, s.undone pid e)
        | .ok (r, s) =>
          let s := s.modCtx pid ctx fun c => { c with adm := { c.adm with
            queue := c.adm.queue.filter fun x => x.admseq != w.admseq
            evicted := c.adm.evicted.filter fun x => x.admseq != w.admseq } }
          (s.setSlot pid ctx n { r with state := rqRunning, slot := n }).admitAll pid ctx ws (tabSet q n k) (b - k)

/-! ### The ragged descriptor (R141) -/

/-- The active entries, rows packed in slot order from `row` on. -/
def raggedOf : List (Nat × Request) → Nat → List Ragged
  | [], _ => []
  | (n, r) :: rs, row =>
    if r.q = 0 then raggedOf rs row
    else { slot := n, reqid := r.reqid, qpos := r.pos, kvlen := r.pos + r.q, q := r.q, row0 := row }
      :: raggedOf rs (row + r.q)

/-- An entry of a bound slot (Table 5-7). -/
def raggedBits (c : Context) (n : Nat) (r : Request) (row0 : Nat) : Nat :=
  r.reqid.toNat * 2 ^ 96 + r.pos % 2 ^ 24 * 2 ^ 72 + (r.pos + r.q) % 2 ^ 24 * 2 ^ 48 + r.q % 2 ^ 16 * 2 ^ 32
    + row0 % 2 ^ 16 * 2 ^ 16 + b2n (r.q != 0) * 2 ^ 15 + b2n (r.q != 0 && r.q == r.prem) * 2 ^ 14
    + c.classOf r % 8 * 2 ^ 11 + n % 1024

/-- The bytes of the buffer at RDBASE. -/
def raggedBytes (c : Context) (es : List Ragged) : List Byte :=
  let ntok := (es.map (·.q)).sum
  let row := fun n => match es.find? fun e => e.slot == n with | some e => e.row0 | none => 0
  let bits := fun n => match c.slot? n with
    | some r => raggedBits c n r (row n)
    | none => n % 1024
  bytesOf 64 (c.stepn.toNat + ntok % 2 ^ 32 * 2 ^ 64 + es.length % 2 ^ 11 * 2 ^ 96 + c.nslot % 2 ^ 11 * 2 ^ 128)
    ++ (List.range c.nslot).flatMap (fun n => bytesOf 16 (bits n))
    ++ es.flatMap fun e => bytesOf 16 (bits e.slot)

/-! ### Launch (R133, R149, R154, R155, R422) -/

/-- The graph the former copies: header fields and node records. -/
structure Graph where
  nodes : List (BitVec 1024)
  nnode : Nat
  ebase : Nat
  etok : Nat

/-- Node records from an address, n of them. -/
def State.readNodes (s : State) (who : Who) (va : Nat) : Nat → Except Cause (List (BitVec 1024)) × State
  | 0 => (.ok [], s)
  | n + 1 =>
    match s.agentReadMany who va 16 8 with
    | (.error c, s) => (.error c, s)
    | (.ok bs, s) =>
      match s.readNodes who (va + 128) n with
      | (.error c, s) => (.error c, s)
      | (.ok r, s) => (.ok (BitVec.ofNat 1024 (ofBytes bs) :: r), s)

/-- The graph pointer, the header and the nodes. A header out of its limits has no nodes read. -/
def State.readGraph (s : State) (who : Who) (graphp : Nat) : Except Cause Graph × State :=
  match s.agentRead who graphp 8 with
  | (.error c, s) => (.error c, s)
  | (.ok g, s) =>
    match s.agentReadMany who g 8 8 with
    | (.error c, s) => (.error c, s)
    | (.ok bs, s) =>
      let h := ofBytes bs
      let n := bitsAt h 12 0
      match s.readNodes who (g + 64) (if n ≤ 4096 then n else 0) with
      | (.error c, s) => (.error c, s)
      | (.ok ns, s) => (.ok { nodes := ns, nnode := n, ebase := bitsAt h 63 32, etok := bitsAt h 79 64 }, s)

/-- R154: the graph and the grids are within their limits. -/
def Graph.ok (g : Graph) (es : List Ragged) (ntok : Nat) : Bool :=
  decide (1 ≤ g.nnode) && decide (g.nnode ≤ 4096)
    && ((List.range g.nodes.length).zip g.nodes).all fun e => nodeOk e.1 e.2 && decide (gridOf e.2 es ntok ≤ 65536)

/-- Completion maps zeroed (R157). -/
def State.zeroMaps (s : State) (who : Who) : List NodeRun → Except Cause Unit × State
  | [] => (.ok (), s)
  | n :: ns =>
    match s.agentWriteMany who (ndCmap n.record) (List.replicate (ceilDiv n.grid 8) 0) with
    | (.error c, s) => (.error c, s)
    | (.ok _, s) => s.zeroMaps who ns

/-- R143: contexts of lower priority that hold workgroups on the clusters of a launching one are pre-empted. -/
def State.preemptFor (s : State) (pid ctx : Nat) : State :=
  match s.part? pid, s.ctx? pid ctx with
  | some p, some c =>
    let holds := fun (k : Nat) => (s.ctxWgs pid k).any fun w => c.clmask.getLsbD (w.id.core / 4)
    let low := (p.ctxs.filter fun e => e.1 != ctx && e.2.cstate == 2 && decide (s.prioOf pid c < s.prioOf pid e.2) && holds e.1).map
      (·.1)
    low.foldl (fun s k => s.modCtx pid k fun x => { x with
      cstate := 3, run := x.run.map fun r => { r with count := r.cycles s.cycle, since := none } }) s
  | _, _ => s

/-- A halt at formation (R154, R422). -/
def State.formHalt (s : State) (pid ctx reason detail : Nat) (c : Cause) : State :=
  s.haltContext pid ctx { reason := reason, cause := c.code, sub := c.sub, fpc := 0, fva := c.va, detail := detail }

/-- Phases 5 and 6, with the graph that was read as the formation began. Without an active slot nothing is launched (log 60,
DEDUCED). -/
def State.launch (s : State) (pid ctx : Nat) (graph : Except Cause Graph) : State :=
  let c := s.ctxD pid ctx
  let who := agentOf pid ctx
  let es := raggedOf c.adm.slots 0
  let ntok := (es.map (·.q)).sum
  match graph with
  | .error e => s.formHalt pid ctx 5 0 e
  | .ok g =>
    match s.agentWriteMany who c.rdbase.toNat (raggedBytes c es) with
    | (.error e, s) => s.formHalt pid ctx 4 e.code e
    | (.ok _, s) =>
      if !g.ok es ntok then s.formHalt pid ctx 5 0 (Cause.plain 0)
      else if es.isEmpty then
        s.modCtx pid ctx fun c =>
          if c.adm.slots.isEmpty ∧ c.adm.queue.isEmpty ∧ c.adm.evicted.isEmpty then { c with cstate := 1 }
          else { c with retryAt := s.ns + 10000 }
      else
        let nodes := g.nodes.map fun n => ({ record := n, grid := gridOf n es ntok, taken := [], done := [] } : NodeRun)
        match s.zeroMaps who nodes with
        | (.error e, s) => s.formHalt pid ctx 4 e.code e
        | (.ok _, s) =>
          let dl := if c.margin = 0xFFFFFFFF then ~~~0#64 else BitVec.ofNat 64 (g.ebase + g.etok * ntok + c.margin)
          (s.modCtx pid ctx fun c => { c with
            run := some { nodes := nodes, entries := es, ntok := ntok, count := 0, since := some s.cycle, deadline := dl
                          launch := s.cycle, past := [], cellSeen := 0 } }).preemptFor pid ctx

/-! ### Formations -/

/-- The former reads the graph pointer, the graph and the placement-table pointer as a formation begins (R133). What it finds at the
last counts for nothing: the dispatcher reads it again for each placement (R159). -/
def State.readBegin (s : State) (pid ctx : Nat) : Except Cause Graph × State :=
  let c := s.ctxD pid ctx
  let (g, s) := s.readGraph (agentOf pid ctx) c.graphp.toNat
  (g, if c.placep = 0 then s else (s.agentRead (agentOf pid ctx) c.placep.toNat 8).2)

/-- Every phase of R134. An unresolved fault of the graph halts the context once the phases are carried out (log 128, DESIGN
CHOICE). -/
def State.form (s : State) (pid ctx : Nat) : State :=
  let s := s.modCtx pid ctx fun c => { c with cstate := 2, formNext := false }
  let (graph, s) := s.readBegin pid ctx
  let s := s.applyCancels pid ctx
  let s := (s.ctxD pid ctx).bound.foldl (fun s n => s.writeHeld pid ctx n) s
  let s := (s.ctxD pid ctx).bound.foldl (fun s n => s.retirePhase pid ctx n) s
  let (run, s) := s.runnable pid ctx
  let c := s.ctxD pid ctx
  let (q, b) := shareTokens c.chunk (run.map fun n => (n, match c.slot? n with | some r => r.prem | none => 0)) (s.tokbudOf pid c)
  let (q, b, gone, s) := s.reserveRun pid ctx (run.length + 1) run q b []
  let c := s.ctxD pid ctx
  let wait := c.byKey id (c.adm.queue ++ c.adm.evicted.filter fun r => !gone.contains r.admseq)
  let (q, s) := s.admitAll pid ctx wait q b
  let s := s.modCtx pid ctx fun c => { c with adm := { c.adm with slots := c.adm.slots.map fun e =>
    (e.1, { e.2 with q := (tabGet q e.1).getD 0, pos0 := e.2.pos, prem0 := e.2.prem, emitted := none }) } }
  s.launch pid ctx graph

/-- Whether a context may form now. -/
def State.canForm (s : State) (c : Context) : Bool :=
  c.run.isNone && (c.cstate == 1 || c.cstate == 2) && !s.dev.linkLost

/-- FORMATION: one that is due. -/
def execFormation (pid ctx : Nat) (s : State) : Res :=
  match s.ctx? pid ctx with
  | some c => .next (if s.canForm c && c.formNext then s.form pid ctx else s)
  | none => .next s

/-- EMPTY_FORMATION_RETRY: 10 µs after an empty formation. -/
def execEmptyFormationRetry (pid ctx : Nat) (s : State) : Res :=
  match s.ctx? pid ctx with
  | some c => .next (if s.canForm c && c.cstate == 2 && !c.formNext && decide (c.retryAt ≤ s.ns) then s.form pid ctx else s)
  | none => .next s

/-! ### Step close (R138) -/

/-- A slot's part of the close. -/
def State.closeSlot (s : State) (pid ctx n : Nat) : State :=
  let c := s.ctxD pid ctx
  match c.slot? n with
  | none => s
  | some r =>
    let q := r.q
    let r := { r with q := 0 }
    let s := s.returnSlot pid r
    if q = 0 ∨ r.state ≠ rqRunning then s.setSlot pid ctx n r
    else
      let r := { r with pos := r.pos + q, prem := r.prem - q }
      if 0 < r.prem then s.setSlot pid ctx n r
      else match r.emitted with
      | none => s.setSlot pid ctx n { r with state := rqFaulted, fcause := 0, fsub := 0 }
      | some t =>
        match s.agentWrite (agentOf pid ctx) (r.tokb * 4 + 4 * r.pos) (bytesOf 4 t.toNat) with
        | (.error e, s) => s.setSlot pid ctx n { r with state := rqFaulted, fcause := e.code, fsub := e.sub }
        | (.ok _, s) =>
          let r := { r with lasttok := t, prem := 1 }
          let hit := (List.range r.nstop).find? fun i => nthD 0 r.stop i == t
          let (kind, detail, r) := match hit with
            | some i => (rkStop, i, { r with state := rqFinishing })
            | none => if r.maxlen ≤ r.pos + 1 then (rkLength, 0, { r with state := rqFinishing }) else (rkToken, 0, r)
          s.putSlot pid ctx n r
            { kind := kind, detail := detail, step := c.stepn.toNat % 65536, pos := r.pos + 1, token := t }

/-- STEP_CLOSE: once every workgroup of every node has completed. With the host link lost the context halts here
(R29). -/
def execStepClose (pid ctx : Nat) (s : State) : Res :=
  match s.ctx? pid ctx with
  | none => .next s
  | some c =>
    match c.run with
    | none => .next s
    | some r =>
      if r.over ∧ (c.cstate = 2 ∨ c.cstate = 3) then
        let s := c.bound.foldl (fun s n => s.closeSlot pid ctx n) s
        let s := s.modCtx pid ctx fun c => { c with stepn := c.stepn + 1, run := none }
        .next ((s.modCtx pid ctx fun c =>
          if c.haltAtClose then { c with cstate := 4, haltrsn := 2, haltAtClose := false }
          else { c with formNext := true }).settlePart pid)
      else .next s

end Sys2Proof.Machine
end

