-- ==== Sys2Proof/Machine/Host.lean ====
section
/-! DEFINITION. The host's side of the endpoint: the partition window and PF0 BAR 0 as they read and as writes act on them
(R7, R8, R34 to R44, R47, R55), admission ports, the aperture, and the doorbells of the mailboxes. -/

namespace Sys2Proof.Machine

/-! ### Bytes of a write -/

/-- Whether a write of bytes at an offset touches one of n bytes at a register. -/
def touches (off : Nat) (data : List Byte) (reg n : Nat) : Bool := decide (off < reg + n) && decide (reg < off + data.length)

/-- The byte that a write puts at a place, if it touches it. -/
def byteAt (off : Nat) (data : List Byte) (a : Nat) : Option Byte := if a < off then none else (data.drop (a - off)).head?

/-- A 64-bit register after a write: the bytes it touches are replaced. -/
def mergeReg (old : DWord) (off : Nat) (data : List Byte) (reg : Nat) : DWord :=
  BitVec.ofNat 64 (ofBytes ((List.range 8).map fun i =>
    (byteAt off data (reg + i)).getD (BitVec.ofNat 8 (old.toNat / 2 ^ (8 * i)))))

/-- The bytes of a write that fall into a buffer of n bytes at an offset, put into its cells. -/
def mergeCells (c : Cells 8) (off : Nat) (data : List Byte) (base n : Nat) : Cells 8 :=
  ((List.range data.length).zip data).foldl (fun c e =>
    if base ≤ off + e.1 ∧ off + e.1 < base + n then cellSet c (off + e.1 - base) e.2 else c) c

/-! ### Mailboxes (R40 to R44) -/

/-- The results of Table 2-6. -/
def mrOk : Nat := 0
def mrBadCmd : Nat := 1
def mrBadParam : Nat := 2
def mrNoResource : Nat := 3
def mrBadState : Nat := 4
def mrBadImage : Nat := 5
def mrBadIsolation : Nat := 6

def State.mbox? (s : State) (fn : Fn) : Option Mailbox :=
  match fn with
  | .pf0 => some s.dev.mbox
  | .vf n => (s.part? n).map (·.mbox)

def State.modMbox (s : State) (fn : Fn) (f : Mailbox → Mailbox) : State :=
  match fn with
  | .pf0 => { s with dev := { s.dev with mbox := f s.dev.mbox } }
  | .vf n => s.modPart n fun p => { p with mbox := f p.mbox }

/-- Vector v of a function is raised. -/
def State.raiseFn (s : State) (fn : Fn) (v : Nat) : State :=
  match fn with | .pf0 => s.raisePf v | .vf n => s.raiseVf n v

/-- The response is written, BUSY is cleared, and vector 0 is raised (R41, R44). -/
def State.respond (s : State) (fn : Fn) (code result : Nat) (data : List Byte) : State :=
  (s.modMbox fn fun m => { m with
    resp := bytesOf 2 code ++ [BitVec.ofNat 8 result] ++ List.replicate 5 0 ++ data, result := result, busy := false }).raiseFn
    fn 0

/-- The code of a command. -/
def cmdCode (issued : List Byte) : Nat := ofBytes (issued.take 2)

/-- Whether a mailbox takes a command code (Table 2-5, R55). -/
def State.takesCmd (s : State) (fn : Fn) (code : Nat) : Bool :=
  match fn with
  | .vf _ => decide (1 ≤ code) && decide (code ≤ 8)
  | .pf0 => if s.dev.boot = .recovery then decide (0x43 ≤ code) && decide (code ≤ 0x45)
            else code == 8 || (decide (0x40 ≤ code) && decide (code ≤ 0x45))

/-- The bytes of a command that one may name, all others zero: bits [63:16] of the header, and bytes in no range named. -/
def cmdZeroOk (cmd : List Byte) (named : List (Nat × Nat)) : Bool :=
  ((List.range cmd.length).zip cmd).all fun e =>
    decide (e.1 < 2) || e.2 == 0 || named.any fun r => decide (r.1 ≤ e.1) && decide (e.1 < r.2)

/-- n bytes of a command as a number. -/
def cmdNat (cmd : List Byte) (off n : Nat) : Nat := ofBytes ((cmd.drop off).take n)

/-- A PART_DESTROY that will be carried out makes its partition CLEARING while it runs (R423). -/
def State.beginDestroy (s : State) (fn : Fn) (cmd : List Byte) : State :=
  if fn = .pf0 ∧ cmdCode cmd = 0x41 ∧ cmdZeroOk cmd [(8, 9)] then s.modPart (cmdNat cmd 8 1) fun p => { p with state := 5 } else s

/-- A doorbell write: it sets OVR while BUSY is set, otherwise it issues the command that stands in the buffer. A code that
the mailbox does not take is answered at once, and any other waits until the device is ready (log 140, DESIGN CHOICE). -/
def State.doorbell (s : State) (fn : Fn) (seq : BitVec 16) : State :=
  match s.mbox? fn with
  | none => s
  | some m =>
    if m.busy then s.modMbox fn fun m => { m with ovr := true }
    else
      let cmd := memRead m.cmd 0 4096
      let s := s.modMbox fn fun m => { m with seq := seq, busy := true, issued := cmd }
      if s.takesCmd fn (cmdCode cmd) then s.beginDestroy fn cmd else s.respond fn (cmdCode cmd) mrBadCmd []

/-- MBSTAT as it reads. -/
def Mailbox.stat (m : Mailbox) : Nat := m.seq.toNat * 2 ^ 48 + m.result % 256 * 2 ^ 40 + b2n m.ovr * 2 + b2n m.busy

/-- A write to a mailbox whose command buffer is at `base`, its doorbell at base + 0x1F00. OVR is cleared before the same write
sets it (R8). -/
def State.writeMbox (s : State) (fn : Fn) (base off : Nat) (data : List Byte) : State :=
  let s := s.modMbox fn fun m => { m with cmd := mergeCells m.cmd off data base 4096 }
  let s := if (mergeReg 0 off data (base + 0x1F08)).getLsbD 1 then s.modMbox fn fun m => { m with ovr := false } else s
  if touches off data (base + 0x1F00) 2 then
    s.doorbell fn (BitVec.ofNat 16 (mergeReg 0 off data (base + 0x1F00)).toNat)
  else s

/-- A partition whose function answers the host: neither FREE nor CLEARING (R424). -/
def State.vf? (s : State) (pid : Nat) : Option Partition := (s.part? pid).filter fun p => p.state != 5

/-- Whether a function answers the host. -/
def State.answersFn (s : State) : Fn → Bool
  | .pf0 => true
  | .vf pid => (s.vf? pid).isSome

/-- MBDOOR_IGNORED: a doorbell write that arrives while BUSY is set. -/
def execMbdoorIgnored (fn : Fn) (seq : BitVec 16) (s : State) : Res :=
  match s.mbox? fn with
  | some m => .next (if m.busy && s.answersFn fn then s.doorbell fn seq else s)
  | none => .next s

/-! ### Admission ports (R37 to R39) -/

/-- ADMFREE and ADMDROP. -/
def Context.admFree (c : Context) : Nat := 4096 - c.adm.queue.length

/-- A write to an admission page: a whole record enters the queue, and a formation is due where R133 has one; another
write to the port is discarded and counted; the rest of the page takes no writes. -/
def State.writePort (s : State) (pid ctx off : Nat) (data : List Byte) (enabled : Bool) : State :=
  match s.ctx? pid ctx with
  | none => s
  | some c =>
    if off = 0 ∧ data.length = 128 ∧ enabled ∧ c.adm.queue.length < 4096 then
      let r := Request.ofRecord (ofBytes data) c.adm.count.toNat
      s.setCtx pid ctx { c with
        adm := { c.adm with queue := c.adm.queue ++ [r], count := c.adm.count + 1 }
        formNext := c.formNext || (c.run.isNone && (c.cstate == 1 || c.cstate == 2)) }
    else if off < 128 then s.setCtx pid ctx { c with adm := { c.adm with drop := c.adm.drop + 1 } }
    else s

/-- ADMISSION_WRITE. -/
def execAdmissionWrite (pid ctx offset : Nat) (data : List Byte) (allEnabled : Bool) (s : State) : Res :=
  .next (if (s.vf? pid).isSome then s.writePort pid ctx offset data allEnabled else s)

/-! ### ICOAL (R47) -/

/-- ICOAL as it reads. -/
def Admission.icoal (a : Admission) : DWord := BitVec.ofNat 64 (b2n a.final * 2 ^ 63 + a.time % 1024 * 2 ^ 32 + a.cnt % 4096)

/-- A write to ICOAL acts at once on the entries pending. -/
def State.writeIcoal (s : State) (pid ctx : Nat) (v : DWord) : State :=
  match s.ctx? pid ctx with
  | none => s
  | some c =>
    let a := { c.adm with final := v.getLsbD 63, time := bitsAt v.toNat 41 32, cnt := bitsAt v.toNat 11 0 }
    let s := s.setCtx pid ctx { c with adm := a }
    if a.due s.ns then s.raiseCtx pid ctx else s

/-- ICOAL_WRITE. -/
def execIcoalWrite (pid ctx : Nat) (value : DWord) (s : State) : Res :=
  .next (if (s.vf? pid).isSome then s.writeIcoal pid ctx value else s)

/-- COALESCING_TIMER: the oldest pending entry has waited TIME. -/
def execCoalescingTimer (pid ctx : Nat) (s : State) : Res :=
  match s.ctx? pid ctx with
  | some c => .next (if c.adm.pending ≠ 0 ∧ c.adm.oldest + 1000 * c.adm.time ≤ s.ns then s.raiseCtx pid ctx else s)
  | none => .next s

/-! ### The fault queue's head (R81) -/

def State.writeFqhead (s : State) (pid : Nat) (v : DWord) : State := s.modPart pid fun p => { p with fqhead := v }

/-- FQHEAD_WRITE. -/
def execFqheadWrite (pid : Nat) (value : DWord) (s : State) : Res :=
  .next (if (s.vf? pid).isSome then s.writeFqhead pid value else s)

/-! ### The memory aperture (R36) -/

/-- The virtual address that an aperture offset reaches. -/
def apVa (p : Partition) (x : Nat) : Nat := bitsAt p.apbase.toNat 56 25 * 2 ^ 25 + x % 2 ^ 25

/-- The context that an aperture's ASID names. -/
def apCtx (p : Partition) : Option (Nat × Context) := p.ctxs.find? fun e => e.2.asid == bitsAt p.apbase.toNat 15 0

/-- One piece of an aperture access inside a page: where it goes. A write to a BUSY page waits for its collapse; nothing is
mapped, replicated or collapsed. A write to a replicated page and an access that meets an uncorrectable error fail like one
with no translation (R36, log 116, DESIGN CHOICE). -/
def State.apSpot (s : State) (pid ctx : Nat) (c : Context) (va n : Nat) (acc : Acc) : Option Spot × State :=
  let who : Who := { pid := pid, ctx := ctx, die := 4 }
  match s.walk va c.l4base 4 with
  | .error _ => (none, s)
  | .ok l =>
    let s := if l.busy && acc != .read && l.tier != 3 then (match s.collapses.find? fun x => x.pid == pid && x.pte == l.pte with
      | some x => s.finishCollapse x
      | none => s) else s
    match s.walk va c.l4base 4 with
    | .error _ => (none, s)
    | .ok l =>
      match s.leafAccess who l va acc false with
      | .pa pa => if (s.eccSub pa n (acc == .read)).isSome then (none, s) else (some (.mem pa), s.markAD l acc)
      | .zero => (some .zero, s.markAD l .read)
      | _ => (none, s)

/-- An access cut at 4 KiB boundaries: addresses and lengths. -/
def pieces (va n : Nat) : Nat → List (Nat × Nat)
  | 0 => []
  | fuel + 1 => if n = 0 then [] else
      let k := min n (4096 - va % 4096)
      (va, k) :: pieces (va + k) (n - k) fuel

/-- The spots of every piece, or none if one fails. -/
def State.apSpots (s : State) (pid ctx : Nat) (c : Context) (acc : Acc) : List (Nat × Nat) → Option (List (Spot × Nat)) × State
  | [] => (some [], s)
  | e :: r =>
    match s.apSpot pid ctx c e.1 e.2 acc with
    | (none, s) => (none, s)
    | (some x, s) =>
      match s.apSpots pid ctx c acc r with
      | (none, s) => (none, s)
      | (some xs, s) => (some ((x, e.2) :: xs), s)

/-- An aperture access of n bytes: its spots, or the error noted in APERR and PSTAT. -/
def State.aperture (s : State) (pid x n : Nat) (acc : Acc) : Option (List (Spot × Nat)) × State :=
  match s.vf? pid with
  | none => (none, s)
  | some p =>
    let fail := fun (s : State) => s.modPart pid fun p => { p with aperr := true, werr := (p.werr + 1) % 2 ^ 32 }
    match apCtx p with
    | none => (none, fail s)
    | some (k, c) =>
      match s.apSpots pid k c acc (pieces (apVa p x) n (n / 4096 + 2)) with
      | (none, s) => (none, fail s)
      | (some xs, s) => (some xs, s)

/-- The bytes that an aperture read returns. -/
def State.apertureBytes (s : State) (pid x n : Nat) : List Byte × State :=
  match s.aperture pid x n .read with
  | (none, s) => (List.replicate n 0xFF, s)
  | (some xs, s) => (xs.flatMap fun e => s.spotRead e.1 e.2, s)

/-- APERTURE_READ. -/
def execApertureRead (pid x size : Nat) (s : State) : Res := .next (s.apertureBytes pid x size).2

/-- Bytes written at the spots of their pieces. -/
def State.putPieces (s : State) : List (Spot × Nat) → List Byte → State
  | [], _ => s
  | e :: r, bs => (s.spotWrite e.1 (bs.take e.2)).putPieces r (bs.drop e.2)

def State.writeAperture (s : State) (pid x : Nat) (data : List Byte) : State :=
  match s.aperture pid x data.length .write with
  | (none, s) => s
  | (some xs, s) => s.putPieces xs data

/-- APERTURE_WRITE. -/
def execApertureWrite (pid x : Nat) (data : List Byte) (s : State) : Res := .next (s.writeAperture pid x data)

/-! ### The windows as they read (R34, R38, R42, R47, R55) -/

/-- A byte of a 64-bit register. -/
def regByte (v i : Nat) : Byte := BitVec.ofNat 8 (v / 2 ^ (8 * i))

/-- A byte of a mailbox. Bytes of the response buffer beyond the data are not defined (R44, log 26, DESIGN CHOICE). -/
def Mailbox.byte (m : Mailbox) (o : Nat) : Byte :=
  if o < 0x1000 then cellGet m.cmd o
  else if o < 0x1F00 then nthD (Config.staleResponse o) m.resp (o - 0x1000)
  else if 0x1F08 ≤ o ∧ o < 0x1F10 then regByte m.stat (o - 0x1F08)
  else 0

/-- PSTAT (Table 2-2). -/
def Partition.pstat (p : Partition) (pid : Nat) : Nat :=
  pid % 16 * 2 ^ 60 + p.state % 16 * 2 ^ 56 + b2n p.strict * 2 ^ 55 + p.werr % 2 ^ 32

/-- A byte of a partition's window below the aperture. The 128 bytes of an admission port read as 0: the spec describes
their writes only (R37, log 114, DESIGN CHOICE). -/
def State.vfByte (s : State) (pid o : Nat) : Byte :=
  match s.vf? pid with
  | none => 0xFF
  | some p =>
    let ctx := fun (k : Nat) => tabGet p.ctxs k
    if o < 0x2_0000 then match ctx (o / 4096) with
      | some c => if 0x80 ≤ o % 4096 ∧ o % 4096 < 0x88 then regByte c.admFree (o % 8)
                  else if 0x88 ≤ o % 4096 ∧ o % 4096 < 0x90 then regByte c.adm.drop.toNat (o % 8) else 0
      | none => 0
    else if o < 0x2_2000 then p.mbox.byte (o - 0x2_0000)
    else if o < 0x2_2008 then regByte (p.pstat pid) (o % 8)
    else if o < 0x2_2010 then regByte p.fqtail.toNat (o % 8)
    else if o < 0x2_2018 then regByte p.fqhead.toNat (o % 8)
    else if o < 0x2_2020 then regByte p.apbase.toNat (o % 8)
    else if o < 0x2_2028 then regByte (b2n p.aperr) (o % 8)
    else if 0x2_3000 ≤ o ∧ o < 0x2_3800 ∧ o % 64 < 8 then match ctx ((o - 0x2_3000) / 64) with
      | some c => regByte c.adm.icoal.toNat (o % 8)
      | none => 0
    else if 0x3_0000 ≤ o ∧ o < 0x3_0400 then cellGet p.msix.table (o - 0x3_0000)
    else if 0x3_1000 ≤ o ∧ o < 0x3_1008 then regByte p.msix.pend.toNat (o % 8)
    else if 0x4_0000 ≤ o ∧ o < 0x6_0000 then
      regByte ((tabGet p.fq ((o - 0x4_0000) / 32)).getD 0).toNat (o % 32)
    else 0

/-- REASON (R55). Its count of failed starts shows modulo 256 (log 123, DESIGN CHOICE). -/
def Device.reasonReg (d : Device) : Nat := d.reason % 256 + d.flash.failed % 256 * 256

/-- A byte of PF0 BAR 0 (R42). -/
def State.pfByte (s : State) (o : Nat) : Byte :=
  if 0x1F10 ≤ o ∧ o < 0x1F18 then regByte s.dev.reasonReg (o % 8)
  else if o < 0x2000 then s.dev.mbox.byte o
  else if 0x1_0000 ≤ o ∧ o < 0x1_0200 then cellGet s.dev.msix.table (o - 0x1_0000)
  else if 0x1_1000 ≤ o ∧ o < 0x1_1008 then regByte s.dev.msix.pend.toNat (o % 8)
  else 0

/-! ### Register writes (R7, R8, R34) -/

/-- A write to the MSI-X table; vectors unmasked by it send what is pending. -/
def Msix.write (m : Msix) (off : Nat) (data : List Byte) (base n : Nat) : Msix :=
  ({ m with table := mergeCells m.table off data base n } : Msix).settle

/-- Where the host's writes to a function's configuration space stand among its offsets: the Message Control word of the
MSI-X capability, whose bit 14 is the Function Mask (R42, log 112, DESIGN CHOICE). -/
def msixControl : Nat := 0x1_0000_0000

/-- The Function Mask after a write; vectors that it unmasks send what is pending. -/
def Msix.control (m : Msix) (off : Nat) (data : List Byte) : Msix :=
  match byteAt off data (msixControl + 1) with
  | some b => ({ m with fmask := b.getLsbD 6 } : Msix).settle
  | none => m

/-- The bits of APBASE that are fields. -/
def apMask : DWord := 0x01FF_FFFF_FE00_FFFF#64

/-- A write to a partition's window: each field as its kind states, reserved bytes ignored. -/
def State.writeVf (s : State) (pid off : Nat) (data : List Byte) : State :=
  match s.vf? pid with
  | none => s
  | some p =>
    if msixControl ≤ off then s.modPart pid fun p => { p with msix := p.msix.control off data }
    else if off < 0x2_0000 then s.writePort pid (off / 4096) (off % 4096) data true
    else if 0x200_0000 ≤ off then s.writeAperture pid (off - 0x200_0000) data
    else
      let s := if off < 0x2_2000 then s.writeMbox (.vf pid) 0x2_0000 off data else s
      let s := if touches off data 0x2_2010 8 then s.writeFqhead pid (mergeReg p.fqhead off data 0x2_2010) else s
      let s := if touches off data 0x2_2018 8 then
          s.modPart pid fun p => { p with apbase := mergeReg p.apbase off data 0x2_2018 &&& apMask }
        else s
      let s := if (mergeReg 0 off data 0x2_2020).getLsbD 0 then s.modPart pid fun p => { p with aperr := false } else s
      let s := (List.range 32).foldl (fun s k =>
        if touches off data (0x2_3000 + 64 * k) 8 then
          match s.ctx? pid k with
          | some c => s.writeIcoal pid k (mergeReg c.adm.icoal off data (0x2_3000 + 64 * k))
          | none => s
        else s) s
      if touches off data 0x3_0000 1024 then s.modPart pid fun p => { p with msix := p.msix.write off data 0x3_0000 1024 } else s

/-- A write to PF0 BAR 0 (R42). -/
def State.writePf (s : State) (off : Nat) (data : List Byte) : State :=
  if msixControl ≤ off then { s with dev := { s.dev with msix := s.dev.msix.control off data } } else
  let s := s.writeMbox .pf0 0 off data
  if touches off data 0x1_0000 512 then
    { s with dev := { s.dev with msix := s.dev.msix.write off data 0x1_0000 512 } }
  else s

/-- REGISTER_WRITE. -/
def execRegisterWrite (fn : Fn) (offset : Nat) (data : List Byte) (s : State) : Res :=
  match fn with
  | .pf0 => .next (s.writePf offset data)
  | .vf pid => .next (s.writeVf pid offset data)

/-- VF_UNSUPPORTED_REQUEST: nothing of the device changes (R424). -/
def execVfUnsupportedRequest (_pid : Nat) (_posted : Bool) (s : State) : Res := .next s

end Sys2Proof.Machine
end

