-- ==== Sys2Proof/Machine/Paging.lean ====
section
/-! DEFINITION. What firmware and the collapse engines do with pages by themselves: replicas filled and dropped (R74), pages
moved (R78), frames of discarded pages reclaimed (R87), and the mappings of pools and regions (R69, R96). -/

namespace Sys2Proof.Machine

/-! ### Replicas (R74) -/

/-- REPLICA_FILL: the replica of a page part on a die holds the home frame's bytes and serves reads from now on. Nothing is read
from a lost die (R18). -/
def execReplicaFill (die home : Nat) (s : State) : Res :=
  match s.replicas.find? fun r => r.die == die && r.home == home && !r.filled && !s.lostAt r.home with
  | none => .next s
  | some r =>
    .next { s.copyPhys r.home r.frame r.size with
      replicas := s.replicas.map fun x => if x.die == die && x.home == home then { x with filled := true } else x }

/-- REPLICA_DROP. -/
def execReplicaDrop (die home : Nat) (s : State) : Res :=
  match s.replicas.find? fun r => r.die == die && r.home == home with
  | none => .next s
  | some r => .next (s.dropReplica r)

/-! ### Moves (R78) -/

/-- Steps 1 to 4 of a move of a leaf's page to a new frame. -/
def State.movePage (s : State) (pid asid : Nat) (l : Leaf) (f : Nat) : State :=
  let tier := if f < farBase then 0 else 1
  let s := s.invalidate pid asid l.va l.size
  let s := (s.copyPhys l.frame f l.size).dropReplicas l.frame l.size
  let s := s.setPhys l.pte 8 (tier * 2 ^ 62 + f + l.e % 2 ^ 12 + bitsAt l.e 61 46 * 2 ^ 46)
  ((s.zeroPhys l.frame l.size).freeFrame l.frame).invalidate pid asid l.va l.size

/-- The leaf of a page that firmware may move: of a ZERO region, not BUSY, on near or far memory and not on a lost die (R18). -/
def State.movable (s : State) (c : Context) (va : Nat) : Option Leaf :=
  match c.regionOf va, s.walk va c.l4base 4 with
  | some r, .ok l => if rgKind r = 1 ∧ !l.busy ∧ l.tier ≤ 1 ∧ !s.lostAt l.frame then some l else none
  | _, _ => none

/-- PAGE_MIGRATION: the page at `va` moves to a free frame of a tier and die, if the partition may have one. -/
def execPageMigration (pid ctx : Nat) (va : DWord) (tier die : Nat) (s : State) : Res :=
  match s.ctx? pid ctx with
  | none => .next s
  | some c =>
    match s.movable c va.toNat with
    | none => .next s
    | some l =>
      if 1 < tier ∨ 3 < die then .next s
      else match s.allocFrame pid tier die l.size with
        | some (f, s') => .next (s'.movePage pid c.asid l f)
        | none => .next s

/-! ### Reclaim (R87) -/

/-- FRAME_RECLAIM: V of a discarded page is cleared, and its frame is free unless it is part of a pool. -/
def execFrameReclaim (pid ctx : Nat) (va : DWord) (s : State) : Res :=
  match s.ctx? pid ctx with
  | none => .next s
  | some c =>
    match s.walk va.toNat c.l4base 4 with
    | .error _ => .next s
    | .ok l =>
      if !l.disc || l.busy || decide (1 < l.tier) then .next s
      else
        let s := s.setPhys l.pte 8 (l.e / 2 * 2)
        let s := if (c.regionOf va.toNat).isSome then s.releaseFrame l.frame l.size else s
        .next (s.invalidate pid c.asid l.va l.size)

/-! ### Mappings that commands make -/

/-- Pages of a size from an address on, `n` of them, mapped to consecutive frames; none if a table has no frame. -/
def State.mapRange (s : State) (pid l4 va lvl leaf : Nat) : Nat → Option State
  | 0 => some s
  | n + 1 =>
    match s.mapLeaf pid l4 va lvl leaf with
    | none => none
    | some s => s.mapRange pid l4 (va + levelSize lvl) lvl (leaf + levelSize lvl) n

/-- The leaf bits of a pool's pages (R96): RD, W, L and V. -/
def poolLeaf (x : Pool) : Nat := x.tier * 2 ^ 62 + x.pbase + 2 ^ 7 + 2 ^ 5 + 2 ^ 4 + 1

/-- A pool mapped in a context, in pages of 4 KiB (log 156, DESIGN CHOICE). -/
def State.mapPool (s : State) (pid : Nat) (c : Context) (x : Pool) : Option State :=
  s.mapRange pid c.l4base x.vbase.toNat 0 (poolLeaf x) (x.nblk * x.size / 4096)

/-- A pool mapped in several contexts, in leaves of each one's own (log 135, DEDUCED). -/
def State.mapPoolIn (s : State) (pid : Nat) (x : Pool) : List Context → Option State
  | [] => some s
  | c :: cs => match s.mapPool pid c x with
    | none => none
    | some s => s.mapPoolIn pid x cs

/-- Several pools mapped in a context. -/
def State.mapPools (s : State) (pid : Nat) (c : Context) : List Pool → Option State
  | [] => some s
  | x :: xs => match s.mapPool pid c x with
    | none => none
    | some s => s.mapPools pid c xs

/-- The leaf of a page is cleared, at whatever level it is. -/
def State.unmapPage (s : State) (l4 va : Nat) : State :=
  match s.walk va l4 4 with
  | .ok l => s.setPhys l.pte 8 0
  | .error _ => s

/-- Pages of 4 KiB unmapped from an address on. -/
def State.unmapRange (s : State) (l4 va : Nat) : Nat → State
  | 0 => s
  | n + 1 => (s.unmapPage l4 va).unmapRange l4 (va + 4096) n

/-- The addresses of a region's pages. -/
def rgPages (r : BitVec 256) : List Nat := (List.range (rgSize r / rgPage r)).map fun i => rgVbase r + i * rgPage r

/-- The frame of a mapped page is marked as one that never moves. -/
def State.pinAt (s : State) (l4 va : Nat) : State :=
  match s.walk va l4 4 with
  | .ok l => { s with frames := s.frames.map fun f => if f.base == l.frame then { f with pinned := true } else f }
  | .error _ => s

/-- Pages of a PINNED or FABRIC region mapped at CTX_LOAD (Table 3-3); none when no frame is left. -/
def State.mapPages (s : State) (pid l4 : Nat) (r : BitVec 256) : List Nat → Option State
  | [] => some s
  | va :: vs => match s.mapRegionPage pid l4 va r with
    | none => none
    | some s =>
      (if rgKind r = 2 then s.pinAt l4 va else s).mapPages pid l4 r vs

/-- The regions that are mapped at once. -/
def State.mapRegions (s : State) (pid l4 : Nat) : List (BitVec 256) → Option State
  | [] => some s
  | r :: rs =>
    if rgKind r = 2 ∨ rgKind r = 4 then match s.mapPages pid l4 r (rgPages r) with
      | none => none
      | some s => s.mapRegions pid l4 rs
    else s.mapRegions pid l4 rs

/-- A context's frames: those that its leaves of ZERO and PINNED regions map, and the tables below its level-4 table. -/
def State.leafFrames (s : State) (c : Context) : List Nat :=
  (c.regions.filter fun r => rgKind r == 1 || rgKind r == 2).flatMap fun r =>
    (rgPages r).filterMap fun va => match s.walk va c.l4base 4 with
      | .ok l => if l.tier ≤ 1 then some l.frame else none
      | .error _ => none

/-- The tables under a table at a level, itself included. -/
def State.tablesUnder (s : State) : Nat → Nat → List Nat
  | 0, tab => [tab]
  | lvl + 1, tab => tab :: (List.range 512).flatMap fun i =>
      let e := s.phys (tab + 8 * i) 8
      if bitAt e 0 && !bitAt e 7 then s.tablesUnder lvl (bitsAt e 45 12 * 4096) else []

end Sys2Proof.Machine
end

