-- ==== Sys2Proof/Machine/Commands.lean ====
section
/-! DEFINITION. The mailbox commands of a partition (R43, R44): CTX_LOAD, CTX_UNLOAD, CTX_HALT, CTX_RESUME (R125 to R128, R69),
POOL_CREATE and POOL_DESTROY (R96, R97), ATTEST (R58) and HEALTH. -/

namespace Sys2Proof.Machine

/-! ### Commands (R43) -/

/-- Whether the agent that answers commands runs: firmware after READY, or the ROM in recovery mode. -/
def State.answersCmd (s : State) : Bool := s.dev.boot == .ready || s.dev.boot == .recovery

/-- What a command comes to: a result with response data and the state it leaves. -/
structure CmdDone where
  result : Nat
  data : List Byte
  state : State

def CmdDone.fail (s : State) (r : Nat) : CmdDone := { result := r, data := [], state := s }
def CmdDone.ok (s : State) : CmdDone := { result := mrOk, data := [], state := s }

/-- A command that its mailbox holds is carried out and answered, or goes on waiting when `act` has no answer yet. -/
def runCommand (fn : Fn) (code : Nat) (named : List (Nat × Nat)) (act : List Byte → State → Option CmdDone) (s : State) : Res :=
  match s.mbox? fn with
  | none => .next s
  | some m =>
    if !m.busy || cmdCode m.issued != code || !s.answersCmd || !s.takesCmd fn code then .next s
    else if !cmdZeroOk m.issued named then .next (s.respond fn code mrBadParam [])
    else match act m.issued s with
      | some d => .next (d.state.respond fn code d.result d.data)
      | none => .next s

/-- Whether a partition takes no command but its destruction (Table 2-4, R423). -/
def State.partFailed (s : State) (pid : Nat) : Bool :=
  match s.part? pid with | some p => p.state == 4 || p.state == 5 | none => true

/-! ### CTX_LOAD (R125, R126, R69) -/

/-- The context that a record image describes, its RO fields 0 (Table 5-2). -/
def Context.ofImage (x : Nat) : Context :=
  { Context.blank with
    graphp := BitVec.ofNat 64 (bitsAt x 1983 1920), placep := BitVec.ofNat 64 (bitsAt x 1919 1856)
    rdbase := BitVec.ofNat 64 (bitsAt x 1855 1792), dumpb := BitVec.ofNat 64 (bitsAt x 1791 1728)
    dumpsz := bitsAt x 1727 1696, rgntab := bitsAt x 1695 1632, clmask := BitVec.ofNat 72 (bitsAt x 1567 1496)
    seqtpl := BitVec.ofNat 88 (bitsAt x 1495 1408), margin := bitsAt x 1407 1376, tokbud := bitsAt x 1263 1248
    chunk := bitsAt x 1247 1232, nslot := bitsAt x 1231 1221, fdom := bitsAt x 1220 1205, prio := bitsAt x 1204 1197
    defcl := bitsAt x 1196 1194, spool := bitsAt x 1193 1188, evmode := bitsAt x 1187 1187, nseq := bitsAt x 1186 1183 }

/-- The limits and alignments of Table 5-2. -/
def Context.limitsOk (c : Context) : Bool :=
  let va := fun (p : DWord) (n : Nat) => p.toNat % n == 0 && decide (p.toNat < 2 ^ 57)
  decide (c.tokbud ≤ 16384) && decide (1 ≤ c.chunk) && decide (c.chunk ≤ 16384) && decide (1 ≤ c.nslot) && decide (c.nslot ≤ 1024)
    && decide (c.defcl ≤ 6) && decide (1 ≤ c.nseq) && decide (c.nseq ≤ 8) && c.dumpsz % 4096 == 0 && decide (4096 ≤ c.dumpsz)
    && va c.graphp 8 && va c.placep 8 && va c.rdbase 64 && va c.dumpb 4096 && decide (c.rgntab < 2 ^ 44)

/-- Whether a region descriptor is within R69 and Table 3-3. One that passes the top of the 57-bit space is not (log 117,
DESIGN CHOICE). -/
def regionOk (r : BitVec 256) : Bool :=
  let (k, pg, back) := (rgKind r, rgPage r, rgBack r)
  decide (k ≤ 4) && decide (rgLevel r ≤ 2) && decide (bitsAt r.toNat 3 2 ≤ 1) && rgSize r != 0 && rgVbase r % pg == 0
    && rgSize r % pg == 0 && decide (rgVbase r + rgSize r ≤ 2 ^ 57)
    && (if k = 3 then rgTier r == 0 && rgDie r == 0 && back / 2 ^ 44 == 0 && back % pg == 0 && decide (back + rgSize r ≤ 2 ^ 44)
        else if k = 4 then rgTier r == 0 && rgDie r == 0 && back / 2 ^ 64 == 0 && back % 2 ^ 8 == 0 && bitsAt back 53 8 % pg == 0
        else back == 0 && (rgTier r == 0 || (rgTier r == 1 && rgDie r == 0)))

/-- The descriptors of the region table at a bus address: up to the first of KIND 0, or 64. -/
def State.regionTable (s : State) (bus : Nat) : List (BitVec 256) :=
  ((List.range 64).map fun i => BitVec.ofNat 256 (s.phys (hostBase + bus + 32 * i) 32)).takeWhile fun r => rgKind r != 0

/-- Whether some ranges meet one another. -/
def overlapping : List (Nat × Nat) → Bool
  | [] => false
  | a :: r => (r.any fun b => meets a.1 a.2 b.1 b.2) || overlapping r

def rgRange (r : BitVec 256) : Nat × Nat := (rgVbase r, rgSize r)
def Pool.range (x : Pool) : Nat × Nat := (x.vbase.toNat, x.nblk * x.size)

/-- The pools that exist. -/
def State.poolsOf (s : State) (pid : Nat) : List Pool := match s.part? pid with | some p => p.pools.map (·.2) | none => []

/-- Whether the template pools and the spill pool, which is a far one, suit a context (R126, R107, log 25, DEDUCED). -/
def State.poolsOk (s : State) (pid : Nat) (c : Context) : Bool :=
  match s.poolRec? pid c.spool with
  | none => false
  | some sp => sp.tier == 1 && (List.range c.nseq).all fun i =>
      match s.poolRec? pid (c.template i).1 with
      | some x => x.bshift == sp.bshift && decide (4 ≤ (c.template i).2) && decide ((c.template i).2 ≤ x.bshift)
      | none => false

/-- The checks against the partition (step 4 of R43). -/
def State.loadOk (s : State) (pid n : Nat) (c : Context) (p : Partition) : Bool :=
  decide (n < p.nctx) && c.clmask != 0 && (c.clmask &&& ~~~p.clmask) == 0 && decide (c.nslot ≤ s.tokbudOf pid c)
    && s.poolsOk pid c && c.regions.all regionOk && !overlapping (c.regions.map rgRange ++ (s.poolsOf pid).map Pool.range)

/-- An ASID that no context of the device has, whichever it is. -/
def State.freeAsid (s : State) : Option Nat × State :=
  let (k, s) := s.choose
  let used := s.parts.flatMap fun e => e.2.ctxs.map fun c => c.2.asid
  let want := k % 65535 + 1
  (if used.contains want then (List.range 65535).map (· + 1) |>.find? fun a => !used.contains a else some want, s)

/-- The context with its tables built: its level-4 table, the regions mapped at load, the pools. None when a frame or an
ASID is lacking. -/
def State.buildTables (s : State) (pid : Nat) (c : Context) : Option (Context × State) :=
  match s.freeAsid with
  | (none, _) => none
  | (some asid, s) =>
    match s.allocTable pid with
    | none => none
    | some (l4, s) =>
      let c := { c with asid := asid, l4base := l4, cstate := 1 }
      ((s.mapRegions pid l4 c.regions).bind fun s => s.mapPools pid c (s.poolsOf pid)).map fun s => (c, s)

/-- CTX_LOAD's effect. -/
def ctxLoad (pid : Nat) (cmd : List Byte) (s : State) : Option CmdDone :=
  let n := cmdNat cmd 8 1
  let c := Context.ofImage (cmdNat cmd 64 256)
  if 31 < n || !c.limitsOk then some (.fail s mrBadParam)
  else match s.part? pid with
  | none => some (.fail s mrBadState)
  | some p =>
    if p.state = 4 ∨ p.state = 5 ∨ (s.ctx? pid n).isSome then some (.fail s mrBadState)
    else
      let c := { c with regions := s.regionTable c.rgntab }
      if !s.loadOk pid n c p then some (.fail s mrBadParam)
      else match s.buildTables pid c with
        | none => some (.fail s mrNoResource)
        | some (c, s) => some (.ok ((s.setCtx pid n c).settlePart pid))

/-- CTX_LOAD. -/
def execCtxLoad (pid : Nat) (s : State) : Res := runCommand (.vf pid) 1 [(8, 9), (64, 320)] (ctxLoad pid) s

/-! ### CTX_UNLOAD (R128) -/

/-- The entry that an unload writes for a request: the one decided, or CANCELLED; none if it is written. -/
def Context.unloadEntry (c : Context) (r : Request) : Option RingEntry :=
  if r.state = rqFinishing ∨ r.state = rqFaulted ∨ r.state = rqCancelling then c.finalEntry r
  else some (c.entryNow r rkCancelled 0)

/-- The final entry of a request at an unload; one that is not written counts in REJLOST. -/
def State.unloadRequest (s : State) (pid ctx : Nat) (c : Context) (r : Request) : State :=
  match c.unloadEntry r with
  | none => s
  | some e => match s.putEntry pid ctx r e with
    | (.written, _, s) => s
    | (_, _, s) => s.countLost pid ctx

/-- A context's frames go back: pages, their replicas, and tables. -/
def State.freeContext (s : State) (pid : Nat) (c : Context) : State :=
  let pages := s.leafFrames c
  let dead := s.replicas.filter fun r => r.pid == pid &&
    s.frames.any fun f => pages.contains f.base && decide (f.base ≤ r.home) && decide (r.home < f.base + f.size)
  let gone := pages ++ s.tablesUnder 4 c.l4base ++ dead.map (·.frame)
  { (s.invalidate pid c.asid 0 (2 ^ 57)) with
    frames := s.frames.filter fun f => !(f.pid == pid && gone.contains f.base)
    replicas := s.replicas.filter fun r => !dead.contains r
    collapses := s.collapses.filter fun x => !(x.pid == pid && x.asid == c.asid) }

/-- Unreleased LEVEL and IRQ entries of a context become NONE (R121). -/
def State.muteRetire (s : State) (pid ctx : Nat) : State :=
  s.modPart pid fun p => { p with rq := p.rq.map fun e => if e.ctx = ctx ∧ (e.act = 1 ∨ e.act = 2) then { e with act := 3 } else e }

/-- The barrier objects of a context that wait for a release are forgotten. -/
def State.forgetBarriers (s : State) (pid ctx : Nat) : State :=
  { s with fabric := { s.fabric with groups := s.fabric.groups.map fun e =>
      (e.1, { e.2 with waiting := e.2.waiting.filter fun o => !(o.1 == pid && o.2.1 == ctx) }) } }

/-- What a loaded context leaves behind: entries for its requests in a slot, evicted and queued, in that order; its
sequences, reservations, retire entries and pages go; then the context, with its entries that pend: no vector is raised for
them (log 124, DESIGN CHOICE). -/
def State.unload (s : State) (pid n : Nat) : State :=
  let s := s.discardAll pid n
  let c := s.ctxD pid n
  let rs := c.adm.slots.map (·.2) ++ c.adm.evicted ++ c.adm.queue.filter fun r => r.state != 15
  let s := rs.foldl (fun s r => s.unloadRequest pid n c r) s
  let s := c.adm.slots.foldl (fun s e => s.returnSlot pid e.2) s
  let s := rs.foldl (fun s r => s.dropCrm pid r) s
  let s := ((s.muteRetire pid n).forgetBarriers pid n).freeContext pid c
  (s.modPart pid fun p => { p with ctxs := tabDel p.ctxs n }).settlePart pid

/-- CTX_UNLOAD's effect: once what the context has in flight is settled. -/
def ctxUnload (pid : Nat) (cmd : List Byte) (s : State) : Option CmdDone :=
  let n := cmdNat cmd 8 1
  if 31 < n then some (.fail s mrBadParam)
  else if s.partFailed pid || (s.ctx? pid n).isNone then some (.fail s mrBadState)
  else if s.quiet true pid n then some (.ok (s.unload pid n))
  else none

/-- CTX_UNLOAD. -/
def execCtxUnload (pid : Nat) (s : State) : Res := runCommand (.vf pid) 2 [(8, 9)] (ctxUnload pid) s

/-! ### CTX_HALT and CTX_RESUME (R127) -/

/-- CTX_HALT's effect. -/
def ctxHalt (pid : Nat) (cmd : List Byte) (s : State) : Option CmdDone :=
  let n := cmdNat cmd 8 1
  if 31 < n then some (.fail s mrBadParam)
  else if s.partFailed pid then some (.fail s mrBadState)
  else match s.ctx? pid n with
  | none => some (.fail s mrBadState)
  | some c =>
    if c.cstate = 4 then some (.ok s)
    else if s.quiet false pid n && s.shadowFits pid n then some (.ok (s.hostHalt pid n c))
    else none

/-- CTX_HALT. -/
def execCtxHalt (pid : Nat) (s : State) : Res := runCommand (.vf pid) 3 [(8, 9)] (ctxHalt pid) s

/-- A halted context goes on: it is to be restored, or a formation is due. -/
def State.resume (s : State) (pid n : Nat) (c : Context) : State :=
  if c.haltrsn = 1 ∧ !c.wasIdle ∧ c.run.isSome then
    let c := { c with cstate := 3, haltrsn := 0 }
    let s := (s.setCtx pid n c).settlePart pid
    (s.restoreContext pid n c).getD s
  else (s.setCtx pid n { c with cstate := 2, haltrsn := 0, wasIdle := false, formNext := true }).settlePart pid

/-- CTX_RESUME's effect. -/
def ctxResume (pid : Nat) (cmd : List Byte) (s : State) : Option CmdDone :=
  let n := cmdNat cmd 8 1
  if 31 < n then some (.fail s mrBadParam)
  else if s.partFailed pid then some (.fail s mrBadState)
  else match s.ctx? pid n with
  | none => some (.fail s mrBadState)
  | some c =>
    if c.cstate = 4 ∧ (c.haltrsn = 1 ∨ c.haltrsn = 3 ∨ c.haltrsn = 4 ∨ c.haltrsn = 5) then some (.ok (s.resume pid n c))
    else some (.fail s mrBadState)

/-- CTX_RESUME. -/
def execCtxResume (pid : Nat) (s : State) : Res := runCommand (.vf pid) 4 [(8, 9)] (ctxResume pid) s

/-! ### Pools (R96, R97) -/

/-- The pool that a command describes. -/
def Pool.ofCmd (cmd : List Byte) : Pool :=
  { vbase := BitVec.ofNat 64 (cmdNat cmd 8 8), nblk := cmdNat cmd 16 4, resv := 0, flcnt := cmdNat cmd 16 4, badfree := 0
    emptyc := 0, pbase := 0, flbase := 0, refbase := 0, tier := cmdNat cmd 22 1, die := cmdNat cmd 23 1
    bshift := cmdNat cmd 21 1, mpool := cmdNat cmd 24 1, free := List.range (cmdNat cmd 16 4), refs := [] }

/-- The limits of Table 4-1, and VBASE against BSHIFT. A range that passes the top of the 57-bit space is out of them (log 127,
DESIGN CHOICE). -/
def Pool.limitsOk (x : Pool) (n : Nat) : Bool :=
  decide (n ≤ 63) && decide (1 ≤ x.nblk) && decide (x.nblk ≤ 2 ^ 24) && decide (12 ≤ x.bshift) && decide (x.bshift ≤ 21)
    && decide (x.tier ≤ 1) && decide (x.die ≤ 3) && decide (x.mpool ≤ 63) && x.vbase.toNat % x.size == 0
    && decide (x.vbase.toNat + x.nblk * x.size ≤ 2 ^ 57)

/-- The loaded contexts of a partition. -/
def State.ctxsOf (s : State) (pid : Nat) : List Context := match s.part? pid with | some p => p.ctxs.map (·.2) | none => []

/-- The checks on MPOOL and on overlaps. -/
def State.poolFits (s : State) (pid n : Nat) (x : Pool) : Bool :=
  (if x.mpool = n then x.bshift == 12 else match s.poolRec? pid x.mpool with | some m => m.bshift == 12 | none => false)
    && !((s.poolsOf pid).any fun y => meets x.range.1 x.range.2 y.range.1 y.range.2)
    && !((s.ctxsOf pid).any fun c => c.regions.any fun r => meets x.range.1 x.range.2 (rgVbase r) (rgSize r))

/-- POOL_CREATE's effect. Without a frame for a table of the mapping it answers NO_RESOURCE and creates no pool (log 157, DESIGN
CHOICE). -/
def poolCreate (pid : Nat) (cmd : List Byte) (s : State) : Option CmdDone :=
  let n := cmdNat cmd 20 1
  let x := Pool.ofCmd cmd
  if !x.limitsOk n then some (.fail s mrBadParam)
  else if s.partFailed pid || (s.poolRec? pid n).isSome then some (.fail s mrBadState)
  else if !s.poolFits pid n x then some (.fail s mrBadParam)
  else match s.allocRange pid x.tier x.die (x.nblk * x.size) x.size with
    | none => some (.fail s mrNoResource)
    | some (a, s') =>
      let x := { x with
        pbase := a, flbase := Config.tableAddr pid n 0, refbase := Config.tableAddr pid n 1 }
      let s' := { s' with frames := s'.frames.map fun (f : Frame) => if f.base == a then { f with pinned := true } else f }
      match (s'.zeroPhys a (x.nblk * x.size)).mapPoolIn pid x (s'.ctxsOf pid) with
      | none => some (.fail s mrNoResource)
      | some s' => some (.ok (s'.setPool pid n x))

/-- POOL_CREATE. -/
def execPoolCreate (pid : Nat) (s : State) : Res := runCommand (.vf pid) 5 [(8, 25)] (poolCreate pid) s

/-- Whether anything stands in the way of destroying a pool (R97). -/
def State.poolInUse (s : State) (pid n : Nat) (x : Pool) : Bool :=
  x.free.length != x.nblk ||
    match s.part? pid with
    | none => false
    | some p =>
      (p.handles.any fun e => (e.2.state == hsLive || e.2.state == hsSpilled) &&
        (e.2.pool == n || match tabGet p.pools e.2.pool with | some y => y.mpool == n | none => false))
      || p.rq.any fun e => e.act == 0 && e.arg.toNat % 64 == n

/-- POOL_DESTROY's effect: the range is unmapped in every context, cleared, and free. -/
def poolDestroy (pid : Nat) (cmd : List Byte) (s : State) : Option CmdDone :=
  let n := cmdNat cmd 8 1
  if 63 < n then some (.fail s mrBadParam)
  else if s.partFailed pid then some (.fail s mrBadState)
  else match s.poolRec? pid n with
  | none => some (.fail s mrBadParam)
  | some x =>
    if s.poolInUse pid n x then some (.fail s mrBadState)
    else
      let len := x.nblk * x.size
      let s := (s.ctxsOf pid).foldl (fun s c =>
        (s.unmapRange c.l4base x.vbase.toNat (len / 4096)).invalidate pid c.asid x.vbase.toNat len) s
      let s := (s.zeroPhys x.pbase len).freeFrame x.pbase
      some (.ok (s.modPart pid fun p => { p with pools := tabDel p.pools n }))

/-- POOL_DESTROY. -/
def execPoolDestroy (pid : Nat) (s : State) : Res := runCommand (.vf pid) 6 [(8, 9)] (poolDestroy pid) s

/-! ### ATTEST (R58, Table 2-8, Table 2-10) -/

/-- The 1,024 bits of a partition's record. -/
def Partition.record (p : Partition) (pid : Nat) : Nat :=
  p.fmbs.toNat * 2 ^ 704 + p.l2ways.toNat * 2 ^ 688 + p.nmbg.toNat * 2 ^ 656 + p.fbw % 64 * 2 ^ 650 + p.tokbud % 2 ^ 16 * 2 ^ 624
    + p.fdom % 2 ^ 16 * 2 ^ 608 + p.held1 % 2 ^ 32 * 2 ^ 544 + p.held0 % 2 ^ 32 * 2 ^ 512 + p.poolbase.toNat * 2 ^ 448
    + p.rqbase.toNat * 2 ^ 384 + p.fqbase.toNat * 2 ^ 320 + p.dtbase.toNat * 2 ^ 256 + p.clmask.toNat * 2 ^ 128
    + pid % 16 * 2 ^ 60 + p.state % 16 * 2 ^ 56 + b2n p.strict * 2 ^ 55 + b2n p.fabric * 2 ^ 54 + p.rslots % 64 * 2 ^ 48
    + p.prio % 256 * 2 ^ 40 + p.nctx % 256 * 2 ^ 32 + p.fabgrp % 2 ^ 16 * 2 ^ 16

/-- A digest as its bytes, the first byte first. -/
def digestBytes (x : BitVec 256) : List Byte := (bytesOf 32 x.toNat).reverse

/-- Bytes 0 to 143 of a report. The record's bits enter the digest as [1023:512] then [199:0], each range low byte first
(R58, log 88, DESIGN CHOICE). -/
def attestBody (d : Device) (p : Partition) (pid : Nat) (nonce : List Byte) : List Byte :=
  let r := p.record pid
  nonce ++ digestBytes d.m0 ++ digestBytes d.m1
    ++ digestBytes (Config.sha256 (bytesOf 64 (r / 2 ^ 512) ++ bytesOf 25 (r % 2 ^ 200)))
    ++ bytesOf 4 d.svn ++ bytesOf 4 d.minSvn ++ bytesOf 4 p.held0 ++ bytesOf 4 p.held1

/-- ATTEST's effect. -/
def attest (pid : Nat) (cmd : List Byte) (s : State) : Option CmdDone :=
  match s.part? pid with
  | none => some (.fail s mrBadState)
  | some p =>
    if s.partFailed pid then some (.fail s mrBadState)
    else
      let body := attestBody s.dev p pid ((cmd.drop 8).take 32)
      some { result := mrOk, data := body ++ (bytesOf 64 (Config.ecdsaSign Config.fusedSecret body).toNat).reverse, state := s }

/-- ATTEST. -/
def execAttest (pid : Nat) (s : State) : Res := runCommand (.vf pid) 7 [(8, 40)] (attest pid) s

/-! ### HEALTH (Table 2-15) -/

/-- The offline clusters, by bit. -/
def State.offlineMask (s : State) : Nat := ((List.range 72).map fun i => b2n (s.cluster i).offline * 2 ^ i).sum

/-- The health record; on a partition mailbox bytes 12 to 19 and 24 to 71 are zero. -/
def State.health (s : State) (pf : Bool) : List Byte :=
  let d := s.dev
  let own := fun (n x : Nat) => bytesOf n (if pf then x else 0)
  bytesOf 4 d.reasonReg ++ bytesOf 4 d.coreMhz ++ bytesOf 4 d.limitW ++ own 4 d.powerW ++ own 4 d.tempC
    ++ bytesOf 4 d.thermalChanges ++ (List.range 5).flatMap (fun i => own 8 ((tabGet d.corrected i).getD 0))
    ++ own 8 d.uncorrectable ++ [BitVec.ofNat 8 d.ringRetired.toNat, BitVec.ofNat 8 d.lostDies.toNat]
    ++ bytesOf 2 s.fabric.portsDown.toNat ++ bytesOf 2 s.fabric.portsHalf.toNat ++ List.replicate 2 0 ++ bytesOf 9 s.offlineMask
    ++ List.replicate 167 0

/-- HEALTH. -/
def execHealth (fn : Fn) (s : State) : Res :=
  runCommand fn 8 [] (fun _ s => match fn with
    | .pf0 => some { result := mrOk, data := s.health true, state := s }
    | .vf pid => some (if s.partFailed pid then .fail s mrBadState else { result := mrOk, data := s.health false, state := s })) s

end Sys2Proof.Machine
end

