-- ==== Sys2Proof/Machine/Partitions.lean ====
section
/-! DEFINITION. The commands that create and destroy partitions (R48 to R51), the power limit (R26), the events of links and
dies (R17, R18), of the host link (R29), of power and temperature (R25 to R27), and the scrub (R21). -/

namespace Sys2Proof.Machine

/-! ### Clock steps (R25, R26) -/

/-- Whether a strict partition exists. -/
def State.anyStrict (s : State) : Bool := s.parts.any fun e => e.2.strict

/-- The highest step at which the rated power does not exceed the limit; the lowest if there is none. -/
def ratedStep (limit : Nat) : Nat :=
  (([1400, 1300, 1200, 1100, 1000, 900, 800].find? fun f => decide (Config.ratedPower f ≤ limit)).getD 700)

/-- Firmware holds the clock at the rated step while strict partitions exist; it does not raise it while a die is hot. -/
def State.holdRated (s : State) : State :=
  let f := ratedStep s.dev.limitW
  { s with dev := { s.dev with coreMhz := if s.dev.hot then min f s.dev.coreMhz else f } }

/-- One step down. -/
def Device.slower (d : Device) : Device := { d with coreMhz := if 700 < d.coreMhz then d.coreMhz - 100 else d.coreMhz }

/-- POWER_THROTTLE: the 1 ms average of the package power is so many watts. -/
def execPowerThrottle (watts : Nat) (s : State) : Res :=
  let d := { s.dev with powerW := watts }
  .next { s with dev := if !s.anyStrict && decide (d.limitW < watts) then d.slower else d }

/-- THERMAL_THROTTLE: the highest junction temperature is so many °C. From 105 °C on, until every die is below 100 °C, each
reading lowers the clock a step. -/
def execThermalThrottle (celsius : Nat) (s : State) : Res :=
  let d := { s.dev with tempC := celsius, hot := decide (105 ≤ celsius) || (s.dev.hot && decide (100 ≤ celsius)) }
  .next { s with dev := if d.hot && decide (700 < d.coreMhz) then { d.slower with thermalChanges := d.thermalChanges + 1 } else d }

/-- CORE_CLOCK_RAISE: one step up, while no die is hot, the power is not above its limit, and strict partitions allow it. -/
def execCoreClockRaise (s : State) : Res :=
  let d := s.dev
  let top := if s.anyStrict then ratedStep d.limitW else 1400
  if d.coreMhz + 100 ≤ top ∧ !d.hot ∧ (s.anyStrict ∨ d.powerW ≤ d.limitW) then
    .next { s with dev := { d with coreMhz := d.coreMhz + 100 } }
  else .next s

/-- POWER_LIMIT's effect. -/
def powerLimit (cmd : List Byte) (s : State) : Option CmdDone :=
  let w := cmdNat cmd 8 4
  if w < 1200 ∨ 2000 < w then some (.fail s mrBadParam)
  else
    let s := { s with dev := { s.dev with limitW := w } }
    some (.ok (if s.anyStrict then s.holdRated else s))

/-- POWER_LIMIT. -/
def execPowerLimit (s : State) : Res := runCommand .pf0 0x42 [(8, 12)] powerLimit s

/-! ### PART_CREATE (R48, R49, R51) -/

/-- The partition that a record image describes, the fields that firmware sets at their first values (Table 2-8). -/
def Partition.ofImage (n x : Nat) : Partition :=
  { Partition.blank with
    strict := bitAt x 55, fabric := bitAt x 54, rslots := if bitsAt x 53 48 = 0 then 8 else bitsAt x 53 48
    prio := bitsAt x 47 40, nctx := bitsAt x 39 32, fabgrp := bitsAt x 31 16, clmask := BitVec.ofNat 72 (bitsAt x 199 128)
    nmbg := BitVec.ofNat 32 (bitsAt x 687 656), l2ways := BitVec.ofNat 16 (bitsAt x 703 688)
    fmbs := BitVec.ofNat 16 (bitsAt x 719 704), fbw := bitsAt x 655 650, tokbud := bitsAt x 639 624, fdom := bitsAt x 623 608
    poolbase := BitVec.ofNat 64 (Config.tableAddr n 64 0), rqbase := BitVec.ofNat 64 (Config.tableAddr n 64 1)
    fqbase := BitVec.ofNat 64 (Config.tableAddr n 64 2 * 2 ^ 17), dtbase := BitVec.ofNat 64 (Config.tableAddr n 64 3 * 2 ^ 24) }

/-- The limits of Table 2-8. -/
def partImageOk (n x : Nat) (p : Partition) : Bool :=
  decide (n ≤ 15) && bitsAt x 63 60 == n && decide (1 ≤ p.tokbud) && decide (p.tokbud ≤ 16384) && decide (4 ≤ p.rslots)
    && decide (p.rslots ≤ 32) && decide (1 ≤ p.nctx) && decide (p.nctx ≤ 32) && bitsAt x 735 720 == 0
    && (p.strict || (p.fmbs == 0 && p.l2ways == 0))

/-- The number of bits set. -/
def ones (w x : Nat) : Nat := ((List.range w).filter fun i => bitAt x i).length

/-- R51. -/
def State.isolated (s : State) (p : Partition) : Bool :=
  let qs := (s.parts.map (·.2)).filter (·.strict)
  !p.strict ||
    (p.l2ways != 0 && p.nmbg != 0 && p.fmbs != 0 && p.fbw != 0
      && qs.all (fun q => (q.l2ways &&& p.l2ways) == 0 && (q.nmbg &&& p.nmbg) == 0 && (q.fmbs &&& p.fmbs) == 0)
      && decide (((p :: qs).map fun q => ones 16 q.l2ways.toNat).sum ≤ 14) && decide (((p :: qs).map (·.fbw)).sum ≤ 56))

/-- Whether the clusters named are free and reachable, and the die that holds the partition's records is there. -/
def State.clustersFree (s : State) (n : Nat) (p : Partition) : Bool :=
  p.clmask != 0 && s.parts.all (fun e => (e.2.clmask &&& p.clmask) == 0)
    && (clustersOf p.clmask.toNat).all (fun k => !(s.cluster k).offline) && !bitAt s.dev.lostDies.toNat (n % 4)

/-- Whether a range meets a slice that a partition names. -/
def State.meetsSlices (s : State) (p : Partition) (base size : Nat) : Bool :=
  let step := if base < farBase then 0x1_8000_0000 else s.dev.farSize / 16
  s.sliceHeld p (base + size - 1) ||
    (List.range 17).any fun k => decide (k * step < size) && s.sliceHeld p (base + k * step)

/-- A frame of a size on a tier if there is one, otherwise on any. -/
def State.allocAny (s : State) (pid tier size : Nat) : Option (Nat × State) :=
  let tries : List (Nat × Nat) := (if tier = 1 then [(1, 0)] else []) ++ [(0, 0), (0, 1), (0, 2), (0, 3), (1, 0)]
  (tries.filterMap fun t => s.allocFrame pid t.1 t.2 size).head?

/-- A page moved out of the slices of partition n, to its own tier if it can be, otherwise to any. -/
def State.moveOut (s : State) (pid : Nat) (c : Context) (l : Leaf) : Option State :=
  (s.allocAny pid l.tier l.size).map fun x => x.2.movePage pid c.asid l x.1

/-- The pages of a context's ZERO regions that lie in the slices of a partition move out of them. -/
def State.clearPages (s : State) (p : Partition) (pid : Nat) (c : Context) : List Nat → Option State
  | [] => some s
  | va :: vs => match s.movable c va with
    | some l => if s.meetsSlices p l.frame l.size then (s.moveOut pid c l).bind fun s => s.clearPages p pid c vs else s.clearPages p pid c vs
    | none => s.clearPages p pid c vs

/-- The same for several contexts. -/
def State.clearSlices (s : State) (p : Partition) : List (Nat × Context) → Option State
  | [] => some s
  | e :: es => (s.clearPages p e.1 e.2 ((e.2.regions.filter fun r => rgKind r == 1).flatMap rgPages)).bind fun s => s.clearSlices p es

/-- A table of a context moved to another frame; none if its die is lost or no frame is left. A collapse whose leaf it holds
follows it. -/
def State.moveTable (s : State) (pid asid tab : Nat) : Option (Nat × State) :=
  if s.lostAt tab then none
  else (s.allocAny pid 0 4096).map fun x =>
    let s := (((x.2.markTable x.1).copyPhys tab x.1 4096).zeroPhys tab 4096).freeFrame tab
    let moved := fun (a : Nat) => if tab ≤ a ∧ a < tab + 4096 then x.1 + (a - tab) else a
    (x.1, ({ s with collapses := s.collapses.map fun c => { c with pte := moved c.pte } } : State).invalidate pid asid 0 (2 ^ 57))

/-- Where the entries of a table are that may be valid: of any other the first byte is not listed, so it reads 0 and V is 0. -/
def State.listedEntries (s : State) (tab : Nat) : List Nat :=
  (s.mem.map (·.1)).filter fun a => decide (tab ≤ a) && decide (a < tab + 4096) && (a - tab) % 8 == 0

/-- The tables of a context from the one at `tab`, of a level, downwards: those in the slices of a partition move out of them, and
the entries follow. Where the table is then. -/
def clearTable (p : Partition) (pid asid : Nat) : Nat → Nat → State → Option (Nat × State)
  | 0, tab, s => if s.meetsSlices p tab 4096 then s.moveTable pid asid tab else some (tab, s)
  | lvl + 1, tab, s =>
    (if s.meetsSlices p tab 4096 then s.moveTable pid asid tab else some (tab, s)).bind fun x =>
      ((x.2.listedEntries x.1).foldlM (fun (s : State) pte =>
        let e := s.phys pte 8
        let sub := bitsAt e 45 12 * 4096
        if bitAt e 0 && !bitAt e 7 then
          (clearTable p pid asid lvl sub s).map fun y => if y.1 = sub then y.2 else y.2.setPhys pte 8 (e - sub + y.1)
        else some s) x.2).map fun s => (x.1, s)

/-- The same for the tables of several contexts, from their level-4 tables on. -/
def State.clearTables (s : State) (p : Partition) : List (Nat × Nat) → Option State
  | [] => some s
  | e :: es =>
    let c := s.ctxD e.1 e.2
    (clearTable p e.1 c.asid 4 c.l4base s).bind fun x =>
      (if x.1 = c.l4base then x.2 else x.2.setCtx e.1 e.2 { c with l4base := x.1 }).clearTables p es

/-- What firmware prepares for a strict partition n, already in the table: the pages and tables of others leave its slices
(R51; log 84, DEDUCED). None if something of another is left there: a PINNED page, a pool, or what has nowhere to go or is lost with
its die. -/
def State.evacuate (s : State) (n : Nat) (p : Partition) : Option State :=
  if s.frames.any fun f => f.pid != n && f.pinned && s.meetsSlices p f.base f.size then none
  else
    let s := (s.collapses.filter s.collapseDue).foldl State.finishCollapse s
    let s := (s.replicas.filter fun r => r.pid != n && s.meetsSlices p r.frame r.size).foldl State.dropReplica s
    let others := s.parts.filter fun e => e.1 != n
    (s.clearTables p (others.flatMap fun e => e.2.ctxs.map fun c => (e.1, c.1))).bind fun s =>
      (s.clearSlices p ((s.parts.filter fun e => e.1 != n).flatMap fun e => e.2.ctxs.map fun c => (e.1, c.2))).bind fun s =>
        if s.frames.any fun f => f.pid != n && s.meetsSlices p f.base f.size then none else some s

/-- The cores of a partition's clusters. -/
def coresIn (m : Nat) : List Nat := (clustersOf m).flatMap fun k => (List.range 4).map (4 * k + ·)

/-- Cores enter an epoch domain: they receive its E. -/
def State.joinDomain (s : State) (m dom : Nat) : State :=
  (coresIn m).foldl (fun s k => s.modCore k fun c => { c with eSeen := (s.domain dom).e.toNat }) s

/-- PART_CREATE's effect. -/
def partCreate (cmd : List Byte) (s : State) : Option CmdDone :=
  let n := cmdNat cmd 8 1
  let x := cmdNat cmd 16 128
  let p := Partition.ofImage n x
  if !partImageOk n x p then some (.fail s mrBadParam)
  else if (s.part? n).isSome then some (.fail s mrBadState)
  else if !s.isolated p then some (.fail s mrBadIsolation)
  else if !s.clustersFree n p then some (.fail s mrNoResource)
  else if !p.strict then some (.ok ((s.setPart n p).joinDomain p.clmask.toNat 0))
  else match (s.setPart n p).evacuate n p with
    | none => some (.fail s mrNoResource)
    | some s' =>
      let s' := s'.joinDomain p.clmask.toNat (n + 1)
      some (.ok (if s.anyStrict then s' else s'.holdRated))

/-- PART_CREATE. -/
def execPartCreate (s : State) : Res := runCommand .pf0 0x40 [(8, 9), (16, 144)] partCreate s

/-! ### PART_DESTROY (R48) -/

/-- The five actions, in their order; then the partition is FREE. -/
def State.destroy (s : State) (n : Nat) : State :=
  match s.part? n with
  | none => s
  | some p =>
    let s := p.ctxs.foldl (fun s e => (s.discardAll n e.1).forgetBarriers n e.1) s
    let s := { s with
      engines := s.engines.filter fun r => r.pid != n
      frecs := s.frecs.filter fun e => e.2.pid != n
      fabric := { s.fabric with out := s.fabric.out.filter fun r => r.msg.spart != n }
      replicas := s.replicas.filter fun r => r.pid != n
      collapses := s.collapses.filter fun c => c.pid != n
      cores := s.cores.map fun (e : Nat × Core) => (e.1, { e.2 with dcache := e.2.dcache.filter fun (d : Desc) => d.id / 65536 != n }) }
    let s := (s.frames.filter fun f => f.pid == n).foldl (fun s f => s.zeroPhys f.base f.size) s
    let s := { s with frames := s.frames.filter fun f => f.pid != n, parts := tabDel s.parts n }
    let s := (clustersOf p.clmask.toNat).foldl (fun s k => s.setCluster k { s.cluster k with counters := [] }) s
    s.joinDomain p.clmask.toNat 0

/-- PART_DESTROY's effect. -/
def partDestroy (cmd : List Byte) (s : State) : Option CmdDone :=
  let n := cmdNat cmd 8 1
  if 15 < n then some (.fail s mrBadParam)
  else if (s.part? n).isNone then some (.fail s mrBadState)
  else some (.ok (s.destroy n))

/-- PART_DESTROY. -/
def execPartDestroy (s : State) : Res := runCommand .pf0 0x41 [(8, 9)] partDestroy s

/-! ### The host link (R29) -/

/-- The device stops admitting; contexts with a step halt at its end, the others now; then it waits for a host reset. -/
def State.loseLink (s : State) : State :=
  let halt := fun (c : Context) =>
    if c.cstate = 4 then c
    else if c.run.isSome then { c with haltAtClose := true }
    else { c with cstate := 4, haltrsn := 2, formNext := false }
  let s := { s with
    dev := { s.dev with linkLost := true, linkLostAt := s.ns, hostWait := true }
    parts := s.parts.map fun (e : Nat × Partition) => (e.1, { e.2 with ctxs := e.2.ctxs.map fun (c : Nat × Context) => (c.1, halt c.2) }) }
  s.parts.foldl (fun s e => s.settlePart e.1) s

/-- LINK_DOWN. -/
def execLinkDown (s : State) : Res := .next s.loseLink

/-- HOST_LINK_TIMEOUT: the link has been lost since `lostAt`, more than 10 ms. -/
def execHostLinkTimeout (lostAt : Nat) (s : State) : Res :=
  .next (if lostAt + 10000000 < s.ns then s.loseLink else s)

/-- HOST_RESET: the reset that the device waits for clears all partitions. -/
def execHostReset (s : State) : Res :=
  if s.dev.hostWait then
    let s := s.parts.foldl (fun s e => s.destroy e.1) s
    .next { s with dev := { s.dev with linkLost := false, hostWait := false } }
  else .next s

/-! ### Die-to-die links (R17, R18) -/

/-- A link's failure goes unnoticed when the link is out of use already. -/
def State.linkGone (s : State) : DieLink → Bool
  | .ring r => bitAt s.dev.ringRetired.toNat r || decide (3 < r)
  | .iod d => bitAt s.dev.lostDies.toNat d || decide (3 < d)

/-- LINK_FAILURE. -/
def execLinkFailure (link : DieLink) (s : State) : Res :=
  if s.linkGone link || s.dev.linkDown.any fun e => e.1 == link then .next s
  else .next { s with dev := { s.dev with linkDown := s.dev.linkDown ++ [(link, s.ns)] } }

/-- Since when a link has been down. -/
def Device.downSince (d : Device) (link : DieLink) : Option Nat := (d.linkDown.find? fun e => e.1 == link).map (·.2)

/-- The link is no longer among those that retrain. -/
def Device.dropLink (d : Device) (link : DieLink) : Device := { d with linkDown := d.linkDown.filter fun e => e.1 != link }

/-- LINK_RETRAIN: within 1 ms. -/
def execLinkRetrain (link : DieLink) (s : State) : Res :=
  match s.dev.downSince link with
  | some t => .next (if s.ns ≤ t + 1000000 then { s with dev := s.dev.dropLink link } else s)
  | none => .next s

/-- LINK_RETIRE: a ring link that has not retrained within 1 ms. -/
def execLinkRetire (ring : Nat) (s : State) : Res :=
  match s.dev.downSince (.ring ring) with
  | some t => .next (if t + 1000000 ≤ s.ns then
      { s with dev := { s.dev.dropLink (.ring ring) with ringRetired := s.dev.ringRetired ||| (1#4 <<< ring) } } else s)
  | none => .next s

/-- A context halted with DIE_LOST: what it had on the device is lost, and nothing is written for it. -/
def State.dieHalt (s : State) (pid ctx : Nat) : State :=
  ((s.discardAll pid ctx).modCtx pid ctx fun c => { c with
    cstate := 4, haltrsn := 6, run := none, wasIdle := false, haltAtClose := false, formNext := false }).raiseVf pid 1

/-- Clusters of a die, by bit. -/
def dieClusters (d : Nat) : BitVec 72 := BitVec.ofNat 72 ((2 ^ 18 - 1) * 2 ^ (18 * d))

/-- What the loss of die d does to a partition. -/
def State.partLosesDie (s : State) (d n : Nat) (p : Partition) : State :=
  if n % 4 = d then
    let s := p.ctxs.foldl (fun s e => s.dieHalt n e.1) s
    (s.modPart n fun p => { p with state := if p.state = 5 then 5 else 4, rq := [] }).raiseVf n 1
  else
    (p.ctxs.foldl (fun s e => if (e.2.clmask &&& dieClusters d) != 0 then s.dieHalt n e.1 else s) s).settlePart n

/-- DIE_LOST: the link to the I/O die has not retrained within 1 ms. -/
def execDieLost (die : Nat) (s : State) : Res :=
  match s.dev.downSince (.iod die) with
  | none => .next s
  | some t =>
    if s.ns < t + 1000000 then .next s
    else
      let s := { s with
        dev := { s.dev.dropLink (.iod die) with lostDies := s.dev.lostDies ||| (1#4 <<< die) }
        replicas := s.replicas.filter fun r => r.die != die
        frames := s.frames.filter fun f => !(s.replicas.any fun r => r.die == die && r.frame == f.base) }
      let s := (List.range 18).foldl (fun s i => s.setCluster (18 * die + i) { s.cluster (18 * die + i) with offline := true }) s
      .next (s.parts.foldl (fun s e => s.partLosesDie die e.1 e.2) s)

/-! ### Scrub (R21) -/

/-- SCRUB: what is found in a 32-byte sector of near or far memory. -/
def execScrub (sector : Nat) (found : SectorError) (s : State) : Res :=
  let pa := 32 * sector
  let who := match nearDie pa with | some d => some d | none => if s.tierOf pa = some 1 then some 4 else none
  match who, found with
  | some d, .corrected =>
    .next { s with dev := { s.dev with corrected := tabSet s.dev.corrected d ((tabGet s.dev.corrected d).getD 0 + 1) } }
  | some _, .uncorrectable =>
    .next (if s.dev.poison.contains sector then s
      else { s with dev := { s.dev with poison := sector :: s.dev.poison, uncorrectable := s.dev.uncorrectable + 1 } })
  | _, _ => .next s

end Sys2Proof.Machine
end

