-- ==== Sys2Proof/Machine/Boot.lean ====
section
/-! DEFINITION. Starting the device: the boot ROM and what follows (R23, R53 to R55), firmware images (R56), resets and the
temperature trip (R27, R44), and the SPDM responder (R57). -/

namespace Sys2Proof.Machine

/-! ### Firmware images (Table 2-11) -/

/-- The reason codes of Table 2-12 that the ROM and the start give. -/
def rsMissing : Nat := 1
def rsFormat : Nat := 2
def rsDigest : Nat := 3
def rsSig : Nat := 4
def rsRollback : Nat := 5
def rsFar : Nat := 8
def rsThermal : Nat := 0xA
def rsTimeout : Nat := 0xB

def Flash.slot (f : Flash) (n : Nat) : Cells 8 := if n = 0 then f.a else f.b

/-- n bytes of an image. -/
def imgBytes (c : Cells 8) (off n : Nat) : List Byte := memRead c off n
def imgNat (c : Cells 8) (off n : Nat) : Nat := ofBytes (imgBytes c off n)

/-- SVN, LENGTH and DIGEST of an image. -/
def imgSvn (c : Cells 8) : Nat := imgNat c 4 4
def imgLen (c : Cells 8) : Nat := imgNat c 12 4
def imgDigest (c : Cells 8) : List Byte := imgBytes c 16 32

/-- The checks of R53 on an image: the reason of the first that fails. -/
def imgBad (c : Cells 8) (minSvn : Nat) : Option Nat :=
  if imgNat c 0 256 = 0 then some rsMissing
  else if imgNat c 0 4 ≠ 0x4D569400 ∨ imgLen c % 256 ≠ 0 ∨ 0x400_0000 < imgLen c ∨ imgNat c 112 144 ≠ 0 then some rsFormat
  else if digestBytes (Config.sha256 (imgBytes c 256 (imgLen c))) ≠ imgDigest c then some rsDigest
  else if !Config.ecdsaVerify Config.fusedKeyHash (imgBytes c 0 48) (imgBytes c 48 64) then some rsSig
  else if imgSvn c < minSvn then some rsRollback
  else none

/-- A measurement register extended by a digest (R54). -/
def extendM (m : BitVec 256) (digest : List Byte) : BitVec 256 := Config.sha256 (digestBytes m ++ digest)

/-! ### Reset and the boot ROM (R53) -/

/-- The device without its volatile state: fuses, the board's flash, its memory population and place in the fabric stay, and
so does what is not of the device (host memory, time, the model's own fields). -/
def State.cleared (s : State) : State :=
  { State.reset with
    mem := s.mem.filter fun e => decide (hostBase ≤ e.1)
    fabric := { Fabric.empty with devId := s.fabric.devId }
    dev := { Device.reset with
      flash := s.dev.flash, minSvn := s.dev.minSvn, farChans := s.dev.farChans
      reason := match s.dev.boot with | .starting _ _ => rsTimeout | _ => s.dev.reason }
    ns := s.ns, tags := s.tags, agenda := s.agenda, choice := s.choice, fresh := s.fresh }

/-- A start that fails for a reason. -/
def Device.failStart (d : Device) (r : Nat) : Device := { d with boot := .failed, runSlot := none, reason := r }

/-- Whether the 32 far channels are populated alike, with one of the four sizes (R23). -/
def Device.farOk (d : Device) : Bool :=
  d.farChans.length == 32 && [16, 32, 48, 64].any fun k => d.farChans.all fun n => n == k

/-- The start on a slot that has passed: the hardware comes up, or does not (R23, R54). -/
def Device.startOn (d : Device) (slot now : Nat) (hw : StartHw) : Device :=
  let c := d.flash.slot slot
  let d := { d with
    boot := .starting slot now, runSlot := some slot, svn := imgSvn c, flags0 := imgNat c 8 1 % 2 == 1
    m0 := extendM d.m0 (imgDigest c) }
  match hw with
  | .linkTrain => d.failStart 6
  | .nearTest => d.failStart 7
  | .clockLock => d.failStart 9
  | .thermal => d.failStart rsThermal
  | .good => if d.farOk then d else d.failStart rsFar

/-- The ROM: the count first; then recovery, or the preferred slot, or the other (R53). -/
def Device.rom (d : Device) (now : Nat) (hw : StartHw) : Device :=
  let n := d.flash.failed + 1
  let p := d.flash.preferred
  let e := { d with flash := { d.flash with failed := n, retry := false } }
  if !d.flash.retry && decide (3 ≤ n) then { e with boot := .recovery }
  else match imgBad (d.flash.slot p) d.minSvn, imgBad (d.flash.slot (1 - p)) d.minSvn with
    | none, _ => e.startOn p now hw
    | some _, none => e.startOn (1 - p) now hw
    | some r, some _ => e.failStart r

/-- A reset at a time, and the start that follows it. -/
def State.restart (s : State) (now : Nat) (hw : StartHw) : State := { s.cleared with dev := s.cleared.dev.rom now hw }

/-- DEVICE_RESET. -/
def execDeviceReset (hw : StartHw) (s : State) : Res := .next (s.restart s.ns hw)

/-- What the hardware reports in a start that a command has asked for: an undetermined choice. -/
def startHw (n : Nat) : StartHw :=
  match n % 5 with
  | 0 => .good
  | 1 => .linkTrain
  | 2 => .nearTest
  | 3 => .clockLock
  | _ => .thermal

/-- The reset that DEV_RESET or FW_COMMIT has asked for, once its time has come (R44, R55). -/
def State.dueReset (s : State) : State :=
  match s.dev.resetAt with
  | some t => if t ≤ s.ns then s.choose.2.restart t (startHw s.choose.1) else s
  | none => s

/-- READY: the start has succeeded (R54). -/
def execReady (s : State) : Res :=
  match s.dev.boot with
  | .starting _ since =>
    if since + 10000000000 < s.ns then .next s
    else
      let d := s.dev
      .next { s with dev := { d with
        boot := .ready, reason := 0, flash := { d.flash with failed := 0 }
        minSvn := if d.flags0 then max d.minSvn d.svn else d.minSvn
        m1 := extendM d.m1 (digestBytes (Config.sha256 Config.deviceConfiguration)) } }
  | _ => .next s

/-- START_TIMEOUT: READY has not been reached within 10 s of reset (R54). -/
def execStartTimeout (s : State) : Res :=
  match s.dev.boot with
  | .starting _ since => .next (if since + 10000000000 ≤ s.ns then { s with dev := s.dev.failStart rsTimeout } else s)
  | _ => .next s

/-- THERMAL_TRIP: at 115 °C power is removed; nothing volatile survives (R27). -/
def execThermalTrip (celsius : Nat) (s : State) : Res :=
  if celsius < 115 then .next s
  else
    let r := match s.dev.boot with | .starting _ _ => rsThermal | _ => s.dev.reason
    let s := s.cleared
    .next { s with dev := { s.dev with reason := r } }

/-! ### Firmware update (R55, R56) -/

/-- The inactive slot: the one that does not hold the running image. -/
def Device.idleSlot (d : Device) : Nat := 1 - d.runSlot.getD d.flash.preferred

/-- FW_CHUNK's effect. -/
def fwChunk (cmd : List Byte) (s : State) : Option CmdDone :=
  let off := cmdNat cmd 8 4
  let len := cmdNat cmd 12 4
  if off % 16 ≠ 0 ∨ len = 0 ∨ 4080 < len ∨ 0x400_0100 < off + len then some (.fail s mrBadParam)
  else
    let put := fun (c : Cells 8) => scratchWrite c off ((cmd.drop 16).take len)
    let f := s.dev.flash
    some (.ok { s with dev := { s.dev with
      flash := if s.dev.idleSlot = 0 then { f with a := put f.a } else { f with b := put f.b } } })

/-- FW_CHUNK. -/
def execFwChunk (s : State) : Res := runCommand .pf0 0x43 [(8, 4096)] fwChunk s

/-- A reset of the device begins in 1 ms (R44). -/
def State.resetSoon (s : State) : State := { s with dev := { s.dev with resetAt := some (s.ns + 1000000) } }

/-- FW_COMMIT's effect: a good image becomes the preferred one; in recovery mode the device then resets. -/
def fwCommit (s : State) : CmdDone :=
  let d := s.dev
  match imgBad (d.flash.slot d.idleSlot) d.minSvn with
  | some _ => .fail s mrBadImage
  | none =>
    let rec_ := d.boot == .recovery
    let s := { s with dev := { d with
      commits := d.commits + 1
      flash := { d.flash with preferred := d.idleSlot, failed := if rec_ then 0 else d.flash.failed } } }
    .ok (if rec_ then s.resetSoon else s)

/-- FW_COMMIT. -/
def execFwCommit (s : State) : Res := runCommand .pf0 0x44 [] (fun _ s => some (fwCommit s)) s

/-- DEV_RESET's effect. In recovery mode without a commit it sets the retry flag (R55). -/
def devReset (s : State) : CmdDone :=
  let retry := s.dev.boot == .recovery && s.dev.commits == 0
  .ok { s with dev := { s.dev with flash := { s.dev.flash with retry := s.dev.flash.retry || retry } } }.resetSoon

/-- DEV_RESET. -/
def execDevReset (s : State) : Res := runCommand .pf0 0x45 [] (fun _ s => some (devReset s)) s

/-! ### SPDM (R57) -/

/-- An answer on the DOE mailbox, once the device has started and not in recovery mode (log 141, DESIGN CHOICE); the exchange is
then at a stage. -/
def State.spdmAnswer (s : State) (x : Spdm) (stage : Nat) : State :=
  if s.dev.boot = .ready then { s with dev := { s.dev with spdm := x, spdmStage := stage } } else s

/-- An answer that needs the exchange to have come to a stage; before it, an error (log 28, PRESUMED). -/
def State.spdmAt (s : State) (need : Nat) (x : Spdm) : State :=
  s.spdmAnswer (if need ≤ s.dev.spdmStage then x else .error) s.dev.spdmStage

/-- GET_VERSION. -/
def execGetVersion (s : State) : Res := .next (s.spdmAnswer .version 1)

/-- GET_CAPABILITIES. -/
def execGetCapabilities (s : State) : Res :=
  .next (if 1 ≤ s.dev.spdmStage then s.spdmAnswer .capabilities 2 else s.spdmAt 1 .capabilities)

/-- NEGOTIATE_ALGORITHMS: only ECDSA P-256 and SHA-256 are offered. -/
def execNegotiateAlgorithms (ecdsaP256 sha256 : Bool) (s : State) : Res :=
  .next (if 2 ≤ s.dev.spdmStage && ecdsaP256 && sha256 then s.spdmAnswer (.algorithms true true) 3 else s.spdmAt 4 .error)

/-- GET_DIGESTS: the digest of the certificate chain. -/
def execGetDigests (s : State) : Res := .next (s.spdmAt 3 (.digests (Config.sha256 s.dev.flash.cert)))

/-- GET_CERTIFICATE: a part of the chain. -/
def execGetCertificate (offset length : Nat) (s : State) : Res :=
  .next (s.spdmAt 3 (if offset < s.dev.flash.cert.length then .certificate ((s.dev.flash.cert.drop offset).take length) else .error))

/-- CHALLENGE: a signature with the identity key over the nonce and the measurements. -/
def execChallenge (nonce : List Byte) (s : State) : Res :=
  .next (s.spdmAt 3 (if nonce.length = 32 then
    .challengeAuth (Config.ecdsaSign Config.fusedSecret (nonce ++ digestBytes s.dev.m0 ++ digestBytes s.dev.m1)) else .error))

/-- GET_MEASUREMENTS. -/
def execGetMeasurements (index : Nat) (s : State) : Res :=
  .next (s.spdmAt 3 (if index = 0 then .measurement 0 s.dev.m0 else if index = 1 then .measurement 1 s.dev.m1 else .error))

end Sys2Proof.Machine
end

