-- ==== Sys2Proof/Machine/Flits.lean ====
section
/-! DEFINITION. Flits and message headers as bytes (R31, R89): the layout of Table 1-5 with its CRC-64, and the header of
Table 3-7. Multi-byte fields have their low byte first; the CRC starts from 0, takes each byte from its high bit, and is not
inverted (log 18, DESIGN CHOICE). -/

namespace Sys2Proof.Machine

/-! ### CRC-64 with the ECMA-182 polynomial -/

def crcPoly : Nat := 0x42F0E1EBA9EA3693

/-- One bit of the division. -/
def crcShift (r : Nat) : Nat :=
  if r / 2 ^ 63 % 2 = 1 then Nat.xor (r * 2 % 2 ^ 64) crcPoly else r * 2 % 2 ^ 64

/-- One byte. -/
def crcByte (r : Nat) (b : Byte) : Nat :=
  let x := Nat.xor r (b.toNat * 2 ^ 56)
  crcShift (crcShift (crcShift (crcShift (crcShift (crcShift (crcShift (crcShift x)))))))

def crc64 (bs : List Byte) : Nat := bs.foldl crcByte 0

/-! ### Message headers (Table 3-7) -/

/-- TYPE. -/
def typeCode : MsgType → Nat
  | .rld => 0 | .rst => 1 | .ratom => 2 | .copyWrite => 3 | .multicast => 4
  | .readData => 8 | .storeAck => 9 | .atomicResult => 10 | .copyCompletion => 11 | .error => 12

def typeOf (n : Nat) : Option MsgType :=
  [MsgType.rld, .rst, .ratom, .copyWrite, .multicast, .readData, .storeAck, .atomicResult, .copyCompletion, .error].find? fun t =>
    typeCode t == n

/-- The header of a message. -/
def msgHeader (m : Msg) : Nat :=
  m.dst % 2 ^ 10 * 2 ^ 118 + m.src % 2 ^ 10 * 2 ^ 108 + typeCode m.type * 2 ^ 104 + m.seq.toNat * 2 ^ 88 + m.low.toNat * 2 ^ 72
    + m.spart % 16 * 2 ^ 68 + m.len % 256 * 2 ^ 60 + m.opc.toNat * 2 ^ 52 + b2n m.retx * 2 ^ 51 + m.addr % 2 ^ 46

/-- The data bytes that follow a header: LEN of them, but for an RLD request, whose LEN bytes are asked for (log 18,
DESIGN CHOICE). -/
def dataLen (t : MsgType) (len : Nat) : Nat := if t = .rld then 0 else len

/-- The message that a header and its data make: its bytes lie together from ADDR on (log 18, DESIGN CHOICE). -/
def msgOf (h : Nat) (t : MsgType) (data : List Byte) : Msg :=
  { dst := bitsAt h 127 118, src := bitsAt h 117 108, type := t, seq := BitVec.ofNat 16 (bitsAt h 103 88)
    low := BitVec.ofNat 16 (bitsAt h 87 72), spart := bitsAt h 71 68, len := bitsAt h 67 60
    opc := BitVec.ofNat 8 (bitsAt h 59 52), retx := bitAt h 51, addr := bitsAt h 45 0
    offs := (List.range (bitsAt h 67 60)).map fun i => bitsAt h 45 0 % 128 + i, data := data }

/-- So many messages from bytes: whole ones, of types that are sent, with at most 224 bytes of data each. -/
def msgsOf : Nat → List Byte → Option (List Msg)
  | 0, _ => some []
  | n + 1, bs =>
    let h := ofBytes (bs.take 16)
    match typeOf (bitsAt h 107 104) with
    | none => none
    | some t =>
      let len := bitsAt h 67 60
      let k := dataLen t len
      if bs.length < 16 + k ∨ 224 < len then none
      else (msgsOf n (bs.drop (16 + k))).map (msgOf h t ((bs.drop 16).take k) :: ·)

/-- A message as a flit carries it. -/
def msgBytes (m : Msg) : List Byte := bytesOf 16 (msgHeader m) ++ (if m.type = .rld then [] else m.data)

/-! ### Flits (Table 1-5) -/

/-- The first eight bytes. -/
def flitHead (f : List Byte) : Nat := ofBytes (f.take 8)

def flitSeq (f : List Byte) : Nat := bitsAt (flitHead f) 63 52

/-- Whether a flit is 256 bytes with the CRC of the first 248 in the last 8. -/
def flitGood (f : List Byte) : Bool := f.length == 256 && ofBytes (f.drop 248) == crc64 (f.take 248)

/-- The NMSG messages of the payload, packed from byte 8. -/
def flitMsgs (f : List Byte) : Option (List Msg) := msgsOf (bitsAt (flitHead f) 31 28) ((f.drop 8).take 240)

/-- The flit that carries messages, if they fit. -/
def flitOf (seq ack cvc ccnt : Nat) (ms : List Msg) : Option (List Byte) :=
  let pay := ms.flatMap msgBytes
  if 15 < ms.length ∨ 240 < pay.length then none
  else
    let body := bytesOf 8 (seq % 4096 * 2 ^ 52 + ack % 4096 * 2 ^ 40 + cvc % 4 * 2 ^ 38 + ccnt % 64 * 2 ^ 32 + ms.length * 2 ^ 28)
      ++ pay ++ List.replicate (240 - pay.length) 0
    some (body ++ bytesOf 8 (crc64 body))

end Sys2Proof.Machine
end

