-- ==== Sys2Proof/Machine/FabricIo.lean ====
section
/-! DEFINITION. The Tarile side (R30 to R33, R88 to R94, R302): ports and flits, the requests that this device serves, the
responses to its own, retransmission and timeout, and the fabric barrier. -/

namespace Sys2Proof.Machine

/-! ### Ports and flits (R30 to R32) -/

/-- LANE_FAILURE: the failed lanes of a port are so many. A port that goes down is reported to the fabric manager. -/
def execLaneFailure (port lanes : Nat) (s : State) : Res :=
  let fb := s.fabric
  let m : BitVec 16 := 1#16 <<< port
  if 16 ≤ port ∨ lanes = 0 then .next s
  else if lanes ≤ 4 then
    .next (if fb.portsDown.getLsbD port then s else { s with fabric := { fb with portsHalf := fb.portsHalf ||| m } })
  else .next { s with fabric := { fb with
      portsDown := fb.portsDown ||| m, portsHalf := fb.portsHalf &&& ~~~m
      portReports := if fb.portsDown.getLsbD port then fb.portReports else fb.portReports ++ [port] } }

/-- The group of a message's SRC and SPART as firmware holds it now is recorded (R90, log 113, DESIGN CHOICE). -/
def Fabric.notePair (now : Nat) (fb : Fabric) (m : Msg) : Fabric :=
  let others := fb.pairs.filter fun e => !(e.1 == m.src && e.2.1 == m.spart)
  { fb with pairs := match Config.pairGroup now m.src m.spart with
      | some g => (m.src, m.spart, g) :: others
      | none => others }

/-- FLIT_RECEIVE: a flit with a wrong CRC, or one that is not the next of its port, is discarded; the messages of the
next one for this device are taken in order. One that does not hold whole messages is discarded too (log 18, DESIGN
CHOICE). -/
def execFlitReceive (port : Nat) (flit : List Byte) (s : State) : Res :=
  let fb := s.fabric
  let due := (tabGet fb.rxSeq port).getD 0
  if 16 ≤ port || fb.portsDown.getLsbD port || !flitGood flit || flitSeq flit != due then .next s
  else match flitMsgs flit with
    | none => .next s
    | some ms =>
      let mine := ms.filter fun m => m.dst == fb.devId
      let fb := mine.foldl (Fabric.notePair s.ns) fb
      .next { s with fabric := { fb with rxSeq := tabSet fb.rxSeq port ((due + 1) % 4096), rx := fb.rx ++ mine } }

/-- The first received message of a type. -/
def State.takeMsg (s : State) (t : MsgType) : Option (Msg × State) :=
  match s.fabric.rx.find? fun m => m.type == t with
  | some m => some (m, { s with fabric := { s.fabric with rx := s.fabric.rx.erase m } })
  | none => none

/-! ### Requests of other devices (R90, R93) -/

/-- Whether a SEQ or LOW lies before another, modulo 65,536. -/
def seqBefore (a b : Nat) : Bool := decide (32768 ≤ (a + 65536 - b) % 65536)

/-- LOW of a message moves the record of its source on: what it passes is forgotten. -/
def Fabric.passLow (fb : Fabric) (m : Msg) : Fabric :=
  let old := (tabGet fb.lows m.src).getD m.low.toNat
  let low := if seqBefore m.low.toNat old then old else m.low.toNat
  { fb with
    lows := tabSet fb.lows m.src low
    executed := tabSet fb.executed m.src (((tabGet fb.executed m.src).getD []).filter fun q => !seqBefore q low)
    cache := fb.cache.filter fun r => !(r.dst == m.src && seqBefore r.seq.toNat low) }

/-- The response to a request. It keeps the request's SPART (log 145, DESIGN CHOICE). -/
def State.responseTo (s : State) (m : Msg) (t : MsgType) (status : Nat) (data : List Byte) : Msg :=
  { m with
    dst := m.src, src := s.fabric.devId, type := if status = 0 then t else .error, retx := false
    low := BitVec.ofNat 16 (s.fabric.low m.src ((tabGet s.fabric.nextSeq m.src).getD 0))
    opc := BitVec.ofNat 8 status, len := data.length, data := data, offs := [] }

def State.send (s : State) (m : Msg) : State := { s with fabric := { s.fabric with tx := s.fabric.tx ++ [m] } }

/-- The first byte and the length of the bytes that a message names. -/
def msgRange (m : Msg) : Nat × Nat :=
  let lo := m.offs.foldl min (m.offs.headD 0)
  (m.addr / 128 * 128 + lo, m.offs.foldl max 0 + 1 - lo)

/-- A request performed once: executed before, it is answered from the cache; passed by LOW, it is dropped. -/
def State.serveOnce (s : State) (m : Msg) (t : MsgType) (status : Nat) (act : State → List Byte × State) : State :=
  let s := { s with fabric := s.fabric.passLow m }
  let seq := m.seq.toNat
  let done := (tabGet s.fabric.executed m.src).getD []
  if seqBefore seq ((tabGet s.fabric.lows m.src).getD seq) then s
  else if done.contains seq then
    match s.fabric.cache.find? fun r => r.dst == m.src && r.seq == m.seq with
    | some r => s.send r
    | none => s
  else
    let (data, s) := if status = 0 then act s else ([], s)
    let r := s.responseTo m t status data
    { s with fabric := { s.fabric with
        tx := s.fabric.tx ++ [r], cache := s.fabric.cache ++ [r], executed := tabSet s.fabric.executed m.src (done ++ [seq]) } }

/-- RLD_REQUEST: the bytes named are read, as often as they are asked for. -/
def execRldRequest (s : State) : Res :=
  match s.takeMsg .rld with
  | none => .next s
  | some (m, s) =>
    let s := { s with fabric := s.fabric.passLow m }
    let (pa, n) := msgRange m
    let st := s.targetStatus m.src m.spart pa n true
    let data := if st = 0 then m.offs.map fun o => cellGet (w := 8) s.mem (m.addr / 128 * 128 + o) else []
    .next (s.send (s.responseTo m .readData st data))

/-- RST_REQUEST. -/
def execRstRequest (s : State) : Res :=
  match s.takeMsg .rst with
  | none => .next s
  | some (m, s) =>
    let (pa, n) := msgRange m
    .next (s.serveOnce m .storeAck (s.targetStatus m.src m.spart pa n false) fun s =>
      ([], s.lineWrite (m.addr / 128 * 128) m.offs m.data))

/-- The operand type that OPC of a RATOM request states (Table 3-7). -/
def ratomTy (opc : Nat) : Ty :=
  if opc % 16 = 7 then .f32
  else match bitsAt opc 5 4 with
    | 0 => .ui32
    | 1 => .si32
    | 2 => .ui64
    | _ => .si64

/-- RATOM_REQUEST: the atomic of OPC on the location, with its old value for an answer. -/
def execRatomRequest (s : State) : Res :=
  match s.takeMsg .ratom with
  | none => .next s
  | some (m, s) =>
    let t := ratomTy m.opc.toNat
    let n := tyWidth t / 8
    .next (s.serveOnce m .atomicResult (s.targetStatus m.src m.spart m.addr n true) fun s =>
      let old := s.phys m.addr n
      (bytesOf 8 old, s.targetWrite m.addr
        (bytesOf n (ratomNew (m.opc.toNat % 16) t old (ofBytes (m.data.take 8)) (ofBytes (m.data.drop 8))))))

/-- COPY_WRITE: a write of a remote copy engine, performed once. -/
def execCopyWrite (s : State) : Res :=
  match s.takeMsg .copyWrite with
  | none => .next s
  | some (m, s) =>
    let (pa, n) := msgRange m
    .next (s.serveOnce m .copyCompletion (s.targetStatus m.src m.spart pa n false) fun s =>
      ([], s.lineWrite (m.addr / 128 * 128) m.offs m.data))

/-- MULTICAST_DATA: the data are delivered to the bytes named, when R90 accepts them; no response is sent. -/
def execMulticastData (s : State) : Res :=
  match s.takeMsg .multicast with
  | none => .next s
  | some (m, s) =>
    let (pa, n) := msgRange m
    .next (if s.targetStatus m.src m.spart pa n false = 0 then s.lineWrite (m.addr / 128 * 128) m.offs m.data else s)

/-! ### Responses to this device's requests (R91 to R93, R306, R307) -/

/-- Whether a response type answers a request type. -/
def answers : MsgType → MsgType → Bool
  | .readData, .rld => true
  | .storeAck, .rst => true
  | .atomicResult, .ratom => true
  | .copyCompletion, .copyWrite => true
  | .error, _ => true
  | _, _ => false

/-- The first response of a type, and the request that waits for it: it is answered, and its slot is free. A response
that answers nothing is discarded. -/
def State.takeResponse (s : State) (t : MsgType) : Option (Msg × Option Remote × State) :=
  match s.takeMsg t with
  | none => none
  | some (m, s) =>
    let r? := s.fabric.out.find? fun r => r.sent && r.msg.dst == m.src && r.msg.seq == m.seq && answers t r.msg.type
    some (m, r?, match r? with
      | some r => { s with fabric := { s.fabric with out := s.fabric.out.filter fun x => x.tag != r.tag } }
      | none => s)

/-- An operation of a copy engine fails with a cause: a fatal record with SRCK 2 (R385). -/
def State.failCopy (s : State) (r : Remote) (tag : Nat) (c : Cause) : State :=
  match s.wg? r.core r.slot with
  | none => s
  | some w =>
    if ((s.core r.core).copy? tag).any fun o => o.stop == .none then
      let (st, s) := s.engStop w.id 2 (.cause c)
      s.modCore r.core fun k => k.modCopy tag fun o => { o with stop := st }
    else s

/-- The address a copy engine's request was made for. -/
def Remote.ea (r : Remote) : Nat := match r.lanes with | o :: _ => o.a.toNat | [] => 0

/-- A request fails with the cause that `c` gives for an access kind and an address (R307). -/
def State.failRemote (s : State) (r : Remote) (c : Acc → Nat → Cause) : State :=
  match r.copy with
  | some tag => s.failCopy r tag (c (if r.msg.type = .copyWrite then .write else .read) r.ea)
  | none => s.failLanes r c

/-- READ_DATA. -/
def execReadData (s : State) : Res :=
  match s.takeResponse .readData with
  | none => .next s
  | some (_, none, s) => .next s
  | some (m, some r, s) =>
    .next (match r.copy with
      | some tag => s.modCore r.core fun k => k.modCopy tag fun o => { o with got := o.got ++ [(r.msg.dst, r.msg.addr, m.data)] }
      | none => s.answerLanes r m.data).serveSlots

/-- STORE_ACKNOWLEDGEMENT: the lanes of the RST are done when its last message is acknowledged. -/
def execStoreAcknowledgement (s : State) : Res :=
  match s.takeResponse .storeAck with
  | none => .next s
  | some (_, none, s) => .next s
  | some (m, some r, s) => .next (s.answerLanes r m.data).serveSlots

/-- ATOMIC_RESULT. -/
def execAtomicResult (s : State) : Res :=
  match s.takeResponse .atomicResult with
  | none => .next s
  | some (_, none, s) => .next s
  | some (m, some r, s) => .next (s.answerLanes r m.data).serveSlots

/-- COPY_COMPLETION: the bytes of the request are written at the target, and the request is answered. -/
def execCopyCompletion (s : State) : Res :=
  match s.takeResponse .copyCompletion with
  | none => .next s
  | some (_, _, s) => .next s.serveSlots

/-- ERROR_RESPONSE. -/
def execErrorResponse (s : State) : Res :=
  match s.takeResponse .error with
  | none => .next s
  | some (_, none, s) => .next s
  | some (m, some r, s) => .next (s.failRemote r fun acc ea => statusCause m.opc.toNat ea acc).serveSlots

/-! ### Retransmission and timeout (R94) -/

/-- REMOTE_RETRANSMIT: 100 µs after the last transmission, at most 4 times. -/
def execRemoteRetransmit (tag : Nat) (s : State) : Res :=
  match s.fabric.out.find? fun r => r.tag == tag with
  | none => .next s
  | some r =>
    if r.sent ∧ r.tries < 4 ∧ r.last + 100000 ≤ s.ns then
      let m := { r.msg with retx := true, low := BitVec.ofNat 16 (s.fabric.low r.msg.dst ((tabGet s.fabric.nextSeq r.msg.dst).getD 0)) }
      .next { s with fabric := { s.fabric with
        tx := s.fabric.tx ++ [m]
        out := s.fabric.out.map fun x => if x.tag == tag then { x with last := s.ns, tries := x.tries + 1 } else x } }
    else .next s

/-- FABRIC_TIMEOUT: 500 µs after the first transmission the request ends and its slot is free. -/
def execFabricTimeout (tag : Nat) (s : State) : Res :=
  match s.fabric.out.find? fun r => r.tag == tag with
  | none => .next s
  | some r =>
    if r.sent ∧ r.first + 500000 ≤ s.ns then
      let s := { s with fabric := { s.fabric with out := s.fabric.out.filter fun x => x.tag != tag } }
      .next (s.failRemote r fun acc ea => { code := cFabTimeout, sub := 0, va := ea, lvl := 0, acc := acc.code }).serveSlots
    else .next s

/-! ### The fabric barrier (R302) -/

/-- FABRIC_BARRIER_ARRIVAL: a device's arrival reaches the counter group; one of this device is one it has sent. -/
def execFabricBarrierArrival (group dev : Nat) (s : State) : Res :=
  let x := s.fabGroup group
  let x' := { x with arrived := x.arrived ++ [dev] }
  if dev = s.fabric.devId then
    if s.fabric.counterTx.contains (group, dev) then
      .next ({ s with fabric := { s.fabric with counterTx := s.fabric.counterTx.erase (group, dev) } }.setFabGroup group x')
    else .next s
  else if x.members.contains dev then .next (s.setFabGroup group x')
  else .next s

/-- The root advances PHC of an object; one that cannot be reached leaves a record. -/
def State.advancePhc (s : State) (o : Nat × Nat × DWord) : State :=
  match s.agentUpdate (agentOf o.1 o.2.1) o.2.2.toNat 16 fun v =>
      v / 2 ^ 96 * 2 ^ 96 + (lvPhc v + 1) % 2 ^ 32 * 2 ^ 64 + v % 2 ^ 64 with
  | (.ok _, s) => s
  | (.error c, s) => s.post (WgId.ofCtx o.1 o.2.1) c 0

/-- FABRIC_BARRIER_RELEASE: once every device of the group has arrived, the release reaches this device, whose root
advances its object's PHC. -/
def execFabricBarrierRelease (group : Nat) (s : State) : Res :=
  let x := s.fabGroup group
  if !x.members.isEmpty && x.members.all fun d => x.arrived.contains d then
    let s := s.setFabGroup group { x with arrived := x.members.foldl (fun a d => a.erase d) x.arrived, waiting := [] }
    .next (x.waiting.foldl State.advancePhc s)
  else .next s

end Sys2Proof.Machine
end

