-- ==== Sys2Proof/Machine/Integer.lean ====
section
/-! DEFINITION. Integer arithmetic, bits, moves, compares, predicates, lane exchange, group operations and special
registers (spec/08_isa_control_integer.md, Tables 8-2 to 8-5). One operation per major; each row calls it. -/

namespace Sys2Proof.Machine

/-! ### Arithmetic and bits (R231 to R240) -/

/-- val of the three sources, an exact result, then saturation or wrapping (R219, R231, R232). -/
def arith (mj : Major) (g : Int → Int → Int → Int) (f : LForm) (n : Nat) (s : State) : Res :=
  compute s f.g n fun p t =>
    p.wr f.d f.ty (satIf (f.m == 1) (g (val f.ty (p.opA t mj f)) (val f.ty (p.opB t mj f)) (val f.ty (p.opC t mj f))) f.ty)

def addOp (f : LForm) (n : Nat) (s : State) : Res := arith .add (fun a b _ => a + b) f n s
def subOp (f : LForm) (n : Nat) (s : State) : Res := arith .sub (fun a b _ => a - b) f n s
def mulOp (f : LForm) (n : Nat) (s : State) : Res := arith .mul (fun a b _ => a * b) f n s
def madOp (f : LForm) (n : Nat) (s : State) : Res := arith .mad (fun a b c => a * b + c) f n s

/-- MULH: the upper w bits of the product (R231). -/
def mulhOp (f : LForm) (n : Nat) (s : State) : Res :=
  arith .mulh (fun a b _ => (a * b) / ((2 ^ tyWidth f.ty : Nat) : Int)) f n s

/-- MINMAX (R232). -/
def minmaxOp (f : LForm) (n : Nat) (s : State) : Res :=
  arith .minmax (fun a b _ => if f.f = 0 then min a b else max a b) f n s

/-- ABSNEG (R232). -/
def absnegOp (f : LForm) (n : Nat) (s : State) : Res :=
  arith .absneg (fun a _ _ => if f.f = 0 then (a.natAbs : Int) else -a) f n s

/-- A bitwise or unsigned result of w bits from the w-bit sources (R233 to R237). -/
def bitsOp (mj : Major) (g : Nat → Nat → Nat → Nat → Nat) (f : LForm) (n : Nat) (s : State) : Res :=
  compute s f.g n fun p t =>
    let w := tyWidth f.ty
    p.wr f.d f.ty (g w (p.opA t mj f % 2 ^ w) (p.opB t mj f) (p.opC t mj f) : Nat)

def andOp (f : LForm) (n : Nat) (s : State) : Res := bitsOp .and_ (fun w a b _ => Nat.land a (b % 2 ^ w)) f n s
def orOp (f : LForm) (n : Nat) (s : State) : Res := bitsOp .or_ (fun w a b _ => Nat.lor a (b % 2 ^ w)) f n s
def xorOp (f : LForm) (n : Nat) (s : State) : Res := bitsOp .xor_ (fun w a b _ => Nat.xor a (b % 2 ^ w)) f n s

/-- TERN: bit i of the result is F[a[i] + 2·b[i] + 4·c[i]] (R233), from bit w - 1 down. -/
def ternBits (table a b c : Nat) : Nat → Nat
  | 0 => 0
  | w + 1 => ternBits table a b c w + b2n (bitAt table (b2n (bitAt a w) + 2 * b2n (bitAt b w) + 4 * b2n (bitAt c w))) * 2 ^ w

def ternOp (f : LForm) (n : Nat) (s : State) : Res := bitsOp .tern (fun w a b c => ternBits f.f.toNat a b c w) f n s

/-- The shift count of R234. -/
def shiftCount (f : LForm) (b : Nat) : Nat := if f.m = 1 then b % 2 ^ 32 % tyWidth f.ty else b % 2 ^ 32

/-- SHL (R234). A count of w or more gives 0. -/
def shlOp (f : LForm) (n : Nat) (s : State) : Res :=
  bitsOp .shl (fun w a b _ => if w ≤ shiftCount f b then 0 else a * 2 ^ shiftCount f b) f n s

/-- SHR (R234). -/
def shrOp (f : LForm) (n : Nat) (s : State) : Res :=
  bitsOp .shr (fun w a b _ => if w ≤ shiftCount f b then 0 else a / 2 ^ shiftCount f b) f n s

/-- SAR (R234): the sign bits when the count is w or more. -/
def sarOp (f : LForm) (n : Nat) (s : State) : Res :=
  compute s f.g n fun p t =>
    let k := min (shiftCount f (p.opB t .sar f)) (tyWidth f.ty)
    p.wr f.d f.ty (val f.ty (p.opA t .sar f) / ((2 ^ k : Nat) : Int))

/-- BFE (R235): the field of n bits at p, from bit n - 1 down; a bit past the width is 0 or the sign. -/
def bfeField (signed : Bool) (w a p : Nat) : Nat → Nat
  | 0 => 0
  | n + 1 => bfeField signed w a p n +
      b2n (if p + n < w then bitAt a (p + n) else signed && bitAt a (w - 1)) * 2 ^ n

def bfeOp (f : LForm) (n : Nat) (s : State) : Res :=
  compute s f.g n fun p t =>
    let w := tyWidth f.ty
    let src := if f.m = 1 then p.opB t .bfe f else f.w2.toNat
    let len := min (bitsAt src 15 8) w
    let x := bfeField (tySigned f.ty) w (p.opA t .bfe f % 2 ^ w) (bitsAt src 7 0) len
    p.wr f.d f.ty (if tySigned f.ty ∧ len ≠ 0 then sx len x else (x : Int))

/-- BFI (R235): b's low n bits at position p of a, bits at w or above dropped. -/
def bfiOp (f : LForm) (n : Nat) (s : State) : Res :=
  bitsOp .bfi (fun w a b c =>
    let src := if f.m = 1 then c else f.w2.toNat
    let pos := bitsAt src 7 0
    let len := min (bitsAt src 15 8) (w - min pos w)
    a - bitsAt (a * 2) (pos + len) (pos + 1) % 2 ^ len * 2 ^ pos + b % 2 ^ len * 2 ^ pos) f n s

/-- BITC (R236). Counts go to one register, .BREV to w bits. -/
def bitcOp (f : LForm) (n : Nat) (s : State) : Res :=
  compute s f.g n fun p t =>
    let w := tyWidth f.ty
    let a := p.opA t .bitc f % 2 ^ w
    match f.f.toNat with
    | 0 => p.wr32 f.d (clz w a)
    | 1 => p.wr32 f.d (ctz w a)
    | 2 => p.wr32 f.d (popcount w a)
    | _ => p.wr f.d f.ty (brev w a : Nat)

/-- MOV (R237). -/
def movOp (f : LForm) (n : Nat) (s : State) : Res := bitsOp .mov (fun w _ b _ => b % 2 ^ w) f n s

/-- MOVI (R237): Word 0 [31:20] and, above it, Word 2. -/
def moviOp (f : LForm) (n : Nat) (s : State) : Res :=
  compute s f.g n fun p _ => p.wr f.d f.ty (sx 12 f.n12.toNat + 4096 * sx 32 f.w2.toNat)

/-- SEL (R238). -/
def selOp (f : LForm) (n : Nat) (s : State) : Res :=
  bitsOp .sel (fun w a b c => if c = 1 then a else b % 2 ^ w) f n s

/-- LEA (R239). -/
def leaOp (f : LForm) (n : Nat) (s : State) : Res :=
  compute s f.g n fun p t =>
    let b := p.opB t .lea f
    let i : Int := if bitAt f.m.toNat 3 then sx 32 b else ((b % 2 ^ 32 : Nat) : Int)
    p.wr f.d .ui64 ((p.opA t .lea f : Int) + i * ((2 ^ (f.m.toNat % 8) : Nat) : Int))

/-- CVTI (R240). -/
def cvtiOp (f : LForm) (n : Nat) (s : State) : Res :=
  compute s f.g n fun p t => p.wr f.d f.ty (satIf (f.m == 1) (val (tyOfCode f.f.toNat) (p.opA t .cvti f)) f.ty)

/-! ### Compares and predicates (R241, R242) -/

/-- ICMP. -/
def icmpOp (f : LForm) (n : Nat) (s : State) : Res :=
  compute s f.g n fun p t =>
    wrPred f.d (combineP f.m.toNat (icond f.f.toNat (val f.ty (p.opA t .icmp f)) (val f.ty (p.opB t .icmp f)))
      (t.pred f.c.toNat))

/-- PLOP. -/
def plopOp (f : LForm) (n : Nat) (s : State) : Res :=
  compute s f.g n fun _ t => wrPred f.d (plopP f.f.toNat (t.pred f.a.toNat) (t.pred f.b.toNat))

/-- PMOV .GET. -/
def pmovGetOp (f : LForm) (n : Nat) (s : State) : Res := compute s f.g n fun p t => p.wr32 f.d (predWord t p.ctl)

/-- PMOV .SET: p1 to p15, or q1 to q7. -/
def pmovSetOp (f : LForm) (n : Nat) (s : State) : Res :=
  compute s f.g n fun p t =>
    let a := p.opA t .pmov f
    (List.range (if p.ctl then 7 else 15)).map fun i => RegWrite.p (i + 1) (bitAt a (i + 1))

/-! ### Group operations (R243 to R246) -/

/-- A group operation: every participant's source is read before any result is written (R243). `op` has the
participants with their values. -/
def groupOp (g : Guard) (n : Nat) (src : Path → Thread → Nat)
    (op : Path → List (Nat × Nat) → (Nat × Thread) → List RegWrite) (s : State) : Res :=
  match s.path? with
  | none => .fault .noThread
  | some (p, s) =>
    let vals := (p.active g).map fun e => (e.1, src p e.2)
    .next (p.retire s n ((p.active g).map fun e => (e.1, op p vals e)))

/-- The source lane of LXCH (R244). -/
def lxchLane (f l b : Nat) : Int :=
  match f with
  | 0 => ((b % 32 : Nat) : Int)
  | 1 => ((Nat.xor l (b % 32) : Nat) : Int)
  | 2 => ((l : Int) + sx 6 b) % 32
  | _ => (l : Int) + sx 6 b

/-- LXCH (R244). -/
def lxchOp (f : LForm) (n : Nat) (s : State) : Res :=
  groupOp f.g n (fun p t => p.opA t .lxch f) (fun p vals e =>
    let own := p.opA e.2 .lxch f
    let j := lxchLane f.f.toNat e.1 (p.opB e.2 .lxch f)
    p.wr f.d f.ty ((if 0 ≤ j ∧ j < 32 then (tabGet vals j.toNat).getD own else own : Nat) : Int)) s

/-- GQRY (R245). -/
def gqryOp (f : LForm) (n : Nat) (s : State) : Res :=
  groupOp f.g n
    (fun p t => if f.f = 3 then p.opA t .gqry f % 2 ^ tyWidth f.ty else b2n (t.pred f.a.toNat))
    (fun p vals _ =>
      match f.f.toNat with
      | 0 => wrPred f.d (vals.all fun e => e.2 == 1)
      | 1 => wrPred f.d (vals.any fun e => e.2 == 1)
      | 2 => p.wr32 f.d ((vals.map fun e => e.2 * 2 ^ e.1).foldl (· + ·) 0)
      | 3 => wrPred f.d (match vals with | [] => true | v :: vs => vs.all fun e => e.2 == v.2)
      | _ => p.wr32 f.d ((vals.map (·.2)).foldl (· + ·) 0)) s

/-- The combination of REDG and SCANG (R246). -/
def combine (f : Nat) (t : Ty) (x y : Int) : Int :=
  match f with
  | 0 => x + y
  | 1 => min x y
  | 2 => max x y
  | 3 => (Nat.land (wrapN (tyWidth t) x) (wrapN (tyWidth t) y) : Nat)
  | 4 => (Nat.lor (wrapN (tyWidth t) x) (wrapN (tyWidth t) y) : Nat)
  | _ => (Nat.xor (wrapN (tyWidth t) x) (wrapN (tyWidth t) y) : Nat)

/-- Its identity (R246). -/
def combineId (f : Nat) (t : Ty) : Int :=
  match f with | 1 => tyMax t | 2 => tyMin t | 3 => ((2 ^ tyWidth t : Nat) : Int) - 1 | _ => 0

/-- The combination of values in lane order. -/
def combineAll (f : Nat) (t : Ty) (vals : List (Nat × Nat)) : Int :=
  match vals with
  | [] => combineId f t
  | v :: vs => vs.foldl (fun a e => combine f t a (val t e.2)) (val t v.2)

/-- REDG (R246). -/
def redgOp (f : LForm) (n : Nat) (s : State) : Res :=
  groupOp f.g n (fun p t => p.opA t .redg f) (fun p vals _ => p.wr f.d f.ty (combineAll f.f.toNat f.ty vals)) s

/-- SCANG (R246). -/
def scangOp (f : LForm) (n : Nat) (s : State) : Res :=
  groupOp f.g n (fun p t => p.opA t .scang f) (fun p vals e =>
    p.wr f.d f.ty (combineAll f.f.toNat f.ty
      (vals.filter fun v => if f.m = 1 then decide (v.1 < e.1) else decide (v.1 ≤ e.1)))) s

/-! ### Special registers (R247) -/

/-- Table 8-5. -/
def specialReg (s : State) (p : Path) (l f : Nat) : Nat :=
  let id := p.w.id
  match f with
  | 0 => if p.ctl then 0 else 32 * p.grp + l
  | 1 => if p.ctl then 0 else l
  | 2 => if p.ctl then 0 else p.grp
  | 3 => id.wgi
  | 4 => id.node
  | 5 => id.slotv.toNat
  | 6 => id.req.toNat
  | 7 => id.qpos.toNat
  | 8 => id.kvlen.toNat
  | 9 => id.step.toNat
  | 10 => id.core
  | 11 => id.core / 4
  | 12 => if p.ctl then 0 else p.grp % 4
  | 13 => if p.ctl then 0 else (p.w.group p.grp).pend.toNat
  | 14 => s.cycle % 2 ^ 64
  | _ => (s.domain (s.domOf id.pid)).e.toNat

/-- SRD. -/
def srdOp (f : LForm) (n : Nat) (s : State) : Res :=
  match s.path? with
  | none => .fault .noThread
  | some (p, s) =>
    let k := f.f.toNat
    .next (p.retire s n ((p.active f.g).map fun e =>
      (e.1, if k = 9 ∨ k = 14 ∨ k = 15 then p.wr64 f.d (specialReg s p e.1 k) else p.wr32 f.d (specialReg s p e.1 k))))

/-! ### The rows -/

/-- ADD, short form. -/
def execAddShort (f : SForm) (s : State) : Res := addOp (f.long (shortTy .add)) 4 s

/-- ADD. -/
def execAdd (f : LForm) (s : State) : Res := addOp f (codedLen false f) s

/-- SUB, short form. -/
def execSubShort (f : SForm) (s : State) : Res := subOp (f.long (shortTy .sub)) 4 s

/-- SUB. -/
def execSub (f : LForm) (s : State) : Res := subOp f (codedLen false f) s

/-- MUL, short form. -/
def execMulShort (f : SForm) (s : State) : Res := mulOp (f.long (shortTy .mul)) 4 s

/-- MUL. -/
def execMul (f : LForm) (s : State) : Res := mulOp f (codedLen false f) s

/-- MULH, short form. -/
def execMulhShort (f : SForm) (s : State) : Res := mulhOp (f.long (shortTy .mulh)) 4 s

/-- MULH. -/
def execMulh (f : LForm) (s : State) : Res := mulhOp f (codedLen false f) s

/-- MINMAX, short form. -/
def execMinmaxShort (f : SForm) (s : State) : Res := minmaxOp (f.long (shortTy .minmax)) 4 s

/-- MINMAX. -/
def execMinmax (f : LForm) (s : State) : Res := minmaxOp f (codedLen false f) s

/-- ABSNEG, short form. -/
def execAbsnegShort (f : SForm) (s : State) : Res := absnegOp (f.long (shortTy .absneg)) 4 s

/-- ABSNEG. -/
def execAbsneg (f : LForm) (s : State) : Res := absnegOp f (codedLen false f) s

/-- AND, short form. -/
def execAndShort (f : SForm) (s : State) : Res := andOp (f.long (shortTy .and_)) 4 s

/-- AND. -/
def execAnd (f : LForm) (s : State) : Res := andOp f (codedLen false f) s

/-- OR, short form. -/
def execOrShort (f : SForm) (s : State) : Res := orOp (f.long (shortTy .or_)) 4 s

/-- OR. -/
def execOr (f : LForm) (s : State) : Res := orOp f (codedLen false f) s

/-- XOR, short form. -/
def execXorShort (f : SForm) (s : State) : Res := xorOp (f.long (shortTy .xor_)) 4 s

/-- XOR. -/
def execXor (f : LForm) (s : State) : Res := xorOp f (codedLen false f) s

/-- SHL, short form. -/
def execShlShort (f : SForm) (s : State) : Res := shlOp (f.long (shortTy .shl)) 4 s

/-- SHL. -/
def execShl (f : LForm) (s : State) : Res := shlOp f (codedLen false f) s

/-- SHR, short form. -/
def execShrShort (f : SForm) (s : State) : Res := shrOp (f.long (shortTy .shr)) 4 s

/-- SHR. -/
def execShr (f : LForm) (s : State) : Res := shrOp f (codedLen false f) s

/-- SAR, short form. -/
def execSarShort (f : SForm) (s : State) : Res := sarOp (f.long (shortTy .sar)) 4 s

/-- SAR. -/
def execSar (f : LForm) (s : State) : Res := sarOp f (codedLen false f) s

/-- BITC, short form. -/
def execBitcShort (f : SForm) (s : State) : Res := bitcOp (f.long (shortTy .bitc)) 4 s

/-- BITC. -/
def execBitc (f : LForm) (s : State) : Res := bitcOp f (codedLen false f) s

/-- MOV, short form. -/
def execMovShort (f : SForm) (s : State) : Res := movOp (f.long (shortTy .mov)) 4 s

/-- MOV. -/
def execMov (f : LForm) (s : State) : Res := movOp f (codedLen false f) s

/-- PLOP, short form. -/
def execPlopShort (f : SForm) (s : State) : Res := plopOp (f.long (shortTy .plop)) 4 s

/-- PLOP. -/
def execPlop (f : LForm) (s : State) : Res := plopOp f (codedLen false f) s

/-- PMOV.GET, short form. -/
def execPmovGetShort (f : SForm) (s : State) : Res := pmovGetOp (f.long (shortTy .pmov)) 4 s

/-- PMOV.GET. -/
def execPmovGet (f : LForm) (s : State) : Res := pmovGetOp f (codedLen false f) s

/-- LEA, short form. -/
def execLeaShort (f : SForm) (s : State) : Res := leaOp (f.long (shortTy .lea)) 4 s

/-- LEA. -/
def execLea (f : LForm) (s : State) : Res := leaOp f (codedLen false f) s

/-- LXCH, short form. -/
def execLxchShort (f : SForm) (s : State) : Res := lxchOp (f.long (shortTy .lxch)) 4 s

/-- LXCH. -/
def execLxch (f : LForm) (s : State) : Res := lxchOp f (codedLen false f) s

/-- GQRY, short form. -/
def execGqryShort (f : SForm) (s : State) : Res := gqryOp (f.long (shortTy .gqry)) 4 s

/-- GQRY. -/
def execGqry (f : LForm) (s : State) : Res := gqryOp f (codedLen false f) s

/-- REDG, short form. -/
def execRedgShort (f : SForm) (s : State) : Res := redgOp (f.long (shortTy .redg)) 4 s

/-- REDG. -/
def execRedg (f : LForm) (s : State) : Res := redgOp f (codedLen false f) s

/-- SCANG, short form. -/
def execScangShort (f : SForm) (s : State) : Res := scangOp (f.long (shortTy .scang)) 4 s

/-- SCANG. -/
def execScang (f : LForm) (s : State) : Res := scangOp f (codedLen false f) s

/-- SRD, short form. -/
def execSrdShort (f : SForm) (s : State) : Res := srdOp (f.long (shortTy .srd)) 4 s

/-- SRD. -/
def execSrd (f : LForm) (s : State) : Res := srdOp f (codedLen false f) s

/-- MAD. -/
def execMad (f : LForm) (s : State) : Res := madOp f (codedLen false f) s

/-- TERN. -/
def execTern (f : LForm) (s : State) : Res := ternOp f (codedLen false f) s

/-- BFE. -/
def execBfe (f : LForm) (s : State) : Res := bfeOp f (codedLen false f) s

/-- BFI. -/
def execBfi (f : LForm) (s : State) : Res := bfiOp f (codedLen false f) s

/-- MOVI. -/
def execMovi (f : LForm) (s : State) : Res := moviOp f (codedLen false f) s

/-- SEL. -/
def execSel (f : LForm) (s : State) : Res := selOp f (codedLen false f) s

/-- ICMP. -/
def execIcmp (f : LForm) (s : State) : Res := icmpOp f (codedLen false f) s

/-- PMOV.SET. -/
def execPmovSet (f : LForm) (s : State) : Res := pmovSetOp f (codedLen false f) s

/-- CVTI. -/
def execCvti (f : LForm) (s : State) : Res := cvtiOp f (codedLen false f) s

/-- MOVI, short form. -/
def execMoviShort (g : Guard) (d : BitVec 6) (n : BitVec 12) (s : State) : Res := moviOp (LForm.rawMovi g d n) 4 s

end Sys2Proof.Machine
end

