-- ==== Sys2Proof/Machine/Memory.lean ====
section
/-! DEFINITION. The memory, atomic and synchronisation instructions (Table 10-1, R284 to R309). Fences and orderings have
no effect of their own here: every access is performed whole at its place in one order (log 3, DESIGN CHOICE). -/

namespace Sys2Proof.Machine

/-- LD. -/
def execLd (f : LForm) (s : State) : Res := memOp (.ld f) .ld f s

/-- ST. -/
def execSt (f : LForm) (s : State) : Res := memOp (.st f) .st f s

/-- LDT. -/
def execLdt (f : LForm) (s : State) : Res := memOp (.ldt f) .ldt f s

/-- STT. -/
def execStt (f : LForm) (s : State) : Res := memOp (.stt f) .stt f s

/-- LDNR. -/
def execLdnr (f : LForm) (s : State) : Res := memOp (.ldnr f) .ldnr f s

/-- ATOM. -/
def execAtom (f : LForm) (s : State) : Res := memOp (.atom f) .atom f s

/-- CAS. -/
def execCas (f : LForm) (s : State) : Res := memOp (.cas f) .cas f s

/-- SCADD. -/
def execScadd (f : LForm) (s : State) : Res := memOp (.scadd f) .scadd f s

/-- ALB. -/
def execAlb (f : LForm) (s : State) : Res := memOp (.alb f) .alb f s

/-- ALE: a lane with no region open raises ILLEGAL_INSTR for the path (R294). -/
def execAle (f : LForm) (s : State) : Res :=
  match s.path? with
  | none => .fault .noThread
  | some (p, s') => if (p.active f.g).any fun e => e.2.region.isNone then p.illegalInstr s' else memOp (.ale f) .ale f s

/-- FENCE (R296): earlier RST and RATOM of the thread have completed, because a fence closes windows (R202). -/
def execFence (f : LForm) (s : State) : Res := compute s f.g 12 fun _ _ => []

/-- FENCE.ALIAS (R270, R296). -/
def execFenceAlias (f : LForm) (s : State) : Res := compute s f.g 12 fun _ _ => []

/-- LVINIT. -/
def execLvinit (f : LForm) (s : State) : Res := memOp (.lvinit f) .lvinit f s

/-- LVARV. -/
def execLvarv (f : LForm) (s : State) : Res := memOp (.lvarv f) .lvarv f s

/-- LVWAIT. -/
def execLvwait (f : LForm) (s : State) : Res := memOp (.lvwait f) .lvwait f s

/-- SSTEP: stage 1 waits for the thread's engine operations (R301), unless the instruction is one that R302 denies. -/
def sstepOp (i : Instr) (f : LForm) (s : State) : Res :=
  match s.path? with
  | none => .fault .noThread
  | some (p, _) =>
    if p.w.engOps != 0 && !(p.active f.g).isEmpty && !s.fabDenied p (f.s == 3) then s.hold else memOp i .sstep f s

/-- SSTEP.DEV. -/
def execSstepDev (f : LForm) (s : State) : Res := sstepOp (.sstepDev f) f s

/-- SSTEP.FAB. -/
def execSstepFab (f : LForm) (s : State) : Res := sstepOp (.sstepFab f) f s

/-- WOPEN (R303): status 2, 1 or 0. -/
def execWopen (f : LForm) (s : State) : Res :=
  match s.path? with
  | none => .fault .noThread
  | some (p, s) =>
    match p.active f.g with
    | [] => .next (p.retire s 12 [])
    | e :: _ =>
      let id := p.w.id
      let o := p.opA e.2 .wopen f % 2 ^ 32
      let n := f.w2.toNat
      let w := n % 128
      let free := match tabGet (s.core id.core).windows w with
        | some x => x.pid == id.pid && x.ctx == id.ctx && x.wgs == id.slot
        | none => true
      if o % 128 != 0 || decide (4096 * id.scr < o + 128) || (p.w.fifoAt o).isSome then
        .next (p.retire s 12 [(e.1, p.wr64 f.d 2)])
      else if !free then .next (p.retire s 12 [(e.1, p.wr64 f.d 1)])
      else
        let x : Window := { ctx := id.ctx, pid := id.pid, wgs := id.slot, sw := bitAt n 8, wcore := bitsAt n 10 9, offs := o / 128 }
        let s := s.modCore id.core fun c => { c with windows := tabSet c.windows w x }
        .next (p.retire s 12 [(e.1, p.wr64 f.d 0)])

/-- WCLOSE (R304): status 0 or 1. Peer accesses are performed whole, so none is under way. -/
def execWclose (f : LForm) (s : State) : Res :=
  match s.path? with
  | none => .fault .noThread
  | some (p, s) =>
    match p.active f.g with
    | [] => .next (p.retire s 12 [])
    | e :: _ =>
      let id := p.w.id
      let w := f.w2.toNat % 128
      let mine := match tabGet (s.core id.core).windows w with
        | some x => x.pid == id.pid && x.ctx == id.ctx && x.wgs == id.slot
        | none => false
      if mine then
        let s := s.modCore id.core fun c => { c with windows := tabDel c.windows w }
        .next (p.retire s 12 [(e.1, p.wr64 f.d 0)])
      else .next (p.retire s 12 [(e.1, p.wr64 f.d 1)])

/-- RLD. -/
def execRld (f : LForm) (s : State) : Res := memOp (.rld f) .rld f s

/-- RST. -/
def execRst (f : LForm) (s : State) : Res := memOp (.rst f) .rst f s

/-- RATOM. -/
def execRatom (f : LForm) (s : State) : Res := memOp (.ratom f) .ratom f s

/-- The pages that a prefetch of n bytes touches may be translated for it, which sets A and may create a replica (R308). -/
def State.prefetch (s : State) (who : Who) (va : Nat) : Nat → State
  | 0 => s
  | k + 1 =>
    let (n, s) := s.choose
    let s := if n % 2 = 0 then s
      else match s.ctx? who.pid who.ctx with
        | none => s
        | some c =>
          if 2 ^ 57 ≤ va then s
          else match s.walk va c.l4base 4 with
            | .error _ => s
            | .ok l => if 2 ≤ l.tier then s else (s.markAD l .read).mayReplicate who l va
    s.prefetch who (va / 4096 * 4096 + 4096) k

/-- PFETCH (R308). -/
def execPfetch (f : LForm) (s : State) : Res :=
  match s.path? with
  | none => .fault .noThread
  | some (p, s) =>
    let s := (p.active f.g).foldl (fun s e =>
      let ea := eaOf .pfetch f (p.opA e.2 .pfetch f)
      let n := min (p.opB e.2 .pfetch f % 2 ^ 32) 1048576
      if n = 0 then s else s.prefetch p.who ea ((ea + n - 1) / 4096 - ea / 4096 + 1)) s
    .next (p.retire s (codedLen false f) [])

/-- DISCARD. -/
def execDiscard (f : LForm) (s : State) : Res := memOp (.discard f) .discard f s

end Sys2Proof.Machine
end

