-- ==== Sys2Proof/Machine/Vector.lean ====
section
/-! DEFINITION. Vector arithmetic and conversions (spec/12_isa_vector.md, Table 12-1): operands with their flush and
modifiers (R337 to R339), then one exact computation and one rounding. -/

namespace Sys2Proof.Machine

/-- A subnormal read as a zero of its own sign under .FTZ (R339). -/
def flushIn (g : FFmt) (ftz : Bool) (x : XVal) : XVal :=
  match x with
  | .fin s n d =>
    let q := scaleQ 1 1 (1 - (g.bias : Int))
    if ftz && n != 0 && ltQ n d q.1 q.2 then .fin s 0 1 else x
  | y => y

/-- The modifiers of operand k (0, 1, 2) in Word 2: magnitude, then negation (R338). -/
def modify (mods k : Nat) (x : XVal) : XVal :=
  let x := if bitAt mods (2 * k + 1) then x.abs else x
  if bitAt mods (2 * k) then x.neg else x

/-- M of the rounding entries (R339). -/
def rmOf (f : LForm) : Nat := f.m.toNat % 4
def finOf (f : LForm) : Bool := bitAt f.m.toNat 2
def ftzOf (f : LForm) : Bool := bitAt f.m.toNat 3

/-- The operand values a′, b′, c′ of an entry with modifiers. -/
def fA (ftz : Bool) (mj : Major) (f : LForm) (p : Path) (t : Thread) : XVal :=
  modify f.w2.toNat 0 (flushIn (fmtOfTy f.ty) ftz (decodeF (fmtOfTy f.ty) (p.opA t mj f % 2 ^ tyWidth f.ty)))
def fB (ftz : Bool) (mj : Major) (f : LForm) (p : Path) (t : Thread) : XVal :=
  modify f.w2.toNat 1 (flushIn (fmtOfTy f.ty) ftz (decodeF (fmtOfTy f.ty) (p.opB t mj f % 2 ^ tyWidth f.ty)))
def fC (ftz : Bool) (mj : Major) (f : LForm) (p : Path) (t : Thread) : XVal :=
  modify f.w2.toNat 2 (flushIn (fmtOfTy f.ty) ftz (decodeF (fmtOfTy f.ty) (p.opC t mj f % 2 ^ tyWidth f.ty)))

/-- Encode under M, written to d with the other bits 0 (R337, R340). -/
def encM (f : LForm) (x : XVal) : Nat := (encodeF (fmtOfTy f.ty) x (rmOf f) (ftzOf f) (finOf f)).1

/-! ### Addition, multiplication, minimum, maximum, compare (R340 to R344) -/

/-- FADD. -/
def faddOp (f : LForm) (n : Nat) (s : State) : Res :=
  compute s f.g n fun p t => p.wr32 f.d (encM f (xadd (rmOf f) (fA (ftzOf f) .fadd f p t) (fB (ftzOf f) .fadd f p t)))

/-- FMUL. -/
def fmulOp (f : LForm) (n : Nat) (s : State) : Res :=
  compute s f.g n fun p t => p.wr32 f.d (encM f (xmul (fA (ftzOf f) .fmul f p t) (fB (ftzOf f) .fmul f p t)))

/-- FFMA. -/
def ffmaOp (f : LForm) (n : Nat) (s : State) : Res :=
  compute s f.g n fun p t =>
    p.wr32 f.d (encM f (xadd (rmOf f) (xmul (fA (ftzOf f) .ffma f p t) (fB (ftzOf f) .ffma f p t)) (fC (ftzOf f) .ffma f p t)))

/-- x below y, −0 below +0. -/
def below (x y : XVal) : Bool := xlt x y || (x.isZero && y.isZero && x.isNeg && !y.isNeg)

/-- FMINMAX (R342). -/
def fminmaxVal (k : Nat) (a b : XVal) : XVal :=
  if a.isNan || b.isNan then (if 2 ≤ k then .nan else if a.isNan then b else a)
  else if k % 2 = 0 then (if below b a then b else a) else (if below a b then b else a)

def fminmaxOp (f : LForm) (n : Nat) (s : State) : Res :=
  compute s f.g n fun p t =>
    p.wr32 f.d (encodeF (fmtOfTy f.ty) (fminmaxVal f.f.toNat (fA false .fminmax f p t) (fB false .fminmax f p t)) 0
      false false).1

/-- FCMP (R343). -/
def fcmpOp (f : LForm) (s : State) : Res :=
  compute s f.g 12 fun p t =>
    wrPred f.d (combineP f.m.toNat (fcond f.f.toNat (fA false .fcmp f p t) (fB false .fcmp f p t)) (t.pred f.c.toNat))

/-- FCLASS (R344). -/
def fclassOp (f : LForm) (s : State) : Res :=
  compute s f.g 12 fun p t =>
    let g := fmtOfTy f.ty
    wrPred f.d (bitAt f.w2.toNat (classBit g (decodeF g (p.opA t .fclass f % 2 ^ tyWidth f.ty))))

/-! ### Conversions (R345 to R351) -/

/-- The source value of FCVT, FCVTI and PACK: decoded in a type, flushed under .FTZ. -/
def cvtIn (t : Ty) (ftz : Bool) (x : Nat) : XVal := flushIn (fmtOfTy t) ftz (decodeF (fmtOfTy t) (x % 2 ^ tyWidth t))

/-- FCVT (R345). -/
def fcvtOp (f : LForm) (s : State) : Res :=
  compute s f.g 12 fun p t => p.wr32 f.d (encM f (cvtIn (tyOfCode f.f.toNat) (ftzOf f) (p.opA t .fcvt f)))

/-- FCVTI (R346). -/
def fcvtiOp (f : LForm) (s : State) : Res :=
  compute s f.g 12 fun p t =>
    p.wr f.d f.ty (toIntClamped (cvtIn (tyOfCode f.f.toNat) false (p.opA t .fcvti f)) (rmOf f) (tyMin f.ty) (tyMax f.ty))

/-- ICVTF (R347). -/
def icvtfOp (f : LForm) (s : State) : Res :=
  compute s f.g 12 fun p t => p.wr32 f.d (encM f (xint (val (tyOfCode f.f.toNat) (p.opA t .icvtf f))))

/-- FDOT2 (R348). -/
def fdot2Op (f : LForm) (s : State) : Res :=
  compute s f.g 12 fun p t =>
    let a := p.opA t .fdot2 f
    let b := p.opB t .fdot2 f
    let el := fun (x : Nat) => cvtIn f.ty (ftzOf f) x
    let sum := xsum (rmOf f) [xmul (el a) (el b), xmul (el (a / 2 ^ 16)) (el (b / 2 ^ 16)),
      flushIn fF32 (ftzOf f) (dec32 (p.opC t .fdot2 f % 2 ^ 32))]
    p.wr32 f.d (encodeF fF32 sum (rmOf f) (ftzOf f) (finOf f)).1

/-- One converted element of PACK (R349). -/
def packEl (f : LForm) (x : Nat) : Nat :=
  match f.ty with
  | .f16 | .bf16 | .f8e4m3 | .f8e5m2 | .f4e2m1 => encM f (cvtIn .f32 (ftzOf f) x)
  | t => wrapN (tyWidth t) (clampTy (sx 32 x) t)

/-- PACK (R349). -/
def packOp (f : LForm) (s : State) : Res :=
  compute s f.g 12 fun p t =>
    let ew := tyWidth f.ty
    let lo := ew * (2 * f.f.toNat)
    let c := if ew = 16 then 0 else p.opC t .pack f % 2 ^ 32
    let pair := packEl f (p.opA t .pack f) + packEl f (p.opB t .pack f) * 2 ^ ew
    p.wr32 f.d (c - bitsAt c (lo + 2 * ew - 1) lo * 2 ^ lo + pair * 2 ^ lo)

/-- UNPACK (R350). -/
def unpackOp (f : LForm) (s : State) : Res :=
  compute s f.g 12 fun p t =>
    let ew := tyWidth f.ty
    let x := p.opA t .unpack f / 2 ^ (ew * f.f.toNat) % 2 ^ ew
    match f.ty with
    | .f16 | .bf16 | .f8e4m3 | .f8e5m2 | .f4e2m1 => p.wr32 f.d (enc32 (decodeF (fmtOfTy f.ty) x))
    | ty => p.wr32 f.d (wrapN 32 (val ty x))

/-- CBDEC (R351): the check is made once; when it fails every active lane is pending, and a path whose group
the other path has suspended issues later (log 19, DEDUCED). -/
def cbdecOp (f : LForm) (s : State) : Res :=
  match s.path? with
  | none => .fault .noThread
  | some (p, s0) =>
    let act := p.active f.g
    if act.isEmpty then .next (p.retire s0 12 [])
    else
      let (d?, s) := s0.descriptor p.w.id.core p.w.id.pid (descOf f)
      match d?.filter fun d => d.rd && d.fmt == 0x08 && d.fmtOk with
      | none =>
        if p.suspended then s0.hold
        else
        let q : Path := { p with mask := maskOfLanes (act.map fun e => e.1) }
        .next (q.raise s { code := cDescRights, sub := 0, va := descOf f, lvl := 0, acc := 0 } true)
      | some d =>
        .next (p.retire s 12 (act.map fun e =>
          (e.1, p.wr32 f.d (enc32 (decodeF fBF16 (d.cb (p.opA e.2 .cbdec f / 2 ^ (4 * f.f.toNat) % 16)))))))

/-! ### Transcendental functions (R352 to R355) -/

/-- Table 12-4 and R353 for EX2. -/
def ex2Val (x : XVal) : XVal := match x with | .inf true => xzero | .inf false => .inf false | y => exp2Val y

/-- Table 12-4 and R354 for LG2. -/
def lg2Val (x : XVal) : XVal :=
  match x with
  | .nan => .nan
  | .inf s => if s then .nan else .inf false
  | .fin s n d => if n = 0 then .inf true else if s then .nan else log2Val n d

/-- Table 12-4 and R354 for RCP. -/
def rcpVal (x : XVal) : XVal :=
  match x with
  | .nan => .nan
  | .inf s => .fin s 0 1
  | .fin s n d => if n = 0 then .inf s else .fin s d n

/-- Table 12-4 and R354 for RSQ. -/
def rsqrtVal (x : XVal) : XVal :=
  match x with
  | .nan => .nan
  | .inf s => if s then .nan else xzero
  | .fin s n d => if n = 0 then .inf s else if s then .nan else rsqVal n d

/-- A transcendental: long-latency, its operand read at issue. -/
def transOp (mj : Major) (g : XVal → XVal) (f : LForm) (n : Nat) (s : State) : Res :=
  match s.path? with
  | none => .fault .noThread
  | some (p, s) =>
    let ws := (p.active f.g).map fun e =>
      (e.1, p.wr32 f.d (encodeF fF32 (g (fA (ftzOf f) mj f p e.2)) 0 (ftzOf f) false).1)
    let (w, s) := p.results s (p.advance p.w n) f.la.toNat ws fun _ => none
    .next (s.setWg w)

/-! ### The rows -/

/-- FADD, short form. -/
def execFaddShort (f : SForm) (s : State) : Res := faddOp (f.long (shortTy .fadd)) 4 s

/-- FADD. -/
def execFadd (f : LForm) (s : State) : Res := faddOp f (codedLen false f) s

/-- FMUL, short form. -/
def execFmulShort (f : SForm) (s : State) : Res := fmulOp (f.long (shortTy .fmul)) 4 s

/-- FMUL. -/
def execFmul (f : LForm) (s : State) : Res := fmulOp f (codedLen false f) s

/-- FFMA. -/
def execFfma (f : LForm) (s : State) : Res := ffmaOp f (codedLen false f) s

/-- FMINMAX, short form. -/
def execFminmaxShort (f : SForm) (s : State) : Res := fminmaxOp (f.long (shortTy .fminmax)) 4 s

/-- FMINMAX. -/
def execFminmax (f : LForm) (s : State) : Res := fminmaxOp f (codedLen false f) s

/-- FCMP. -/
def execFcmp (f : LForm) (s : State) : Res := fcmpOp f s

/-- FCLASS. -/
def execFclass (f : LForm) (s : State) : Res := fclassOp f s

/-- FCVT. -/
def execFcvt (f : LForm) (s : State) : Res := fcvtOp f s

/-- FCVTI. -/
def execFcvti (f : LForm) (s : State) : Res := fcvtiOp f s

/-- ICVTF. -/
def execIcvtf (f : LForm) (s : State) : Res := icvtfOp f s

/-- EX2, short form. -/
def execEx2Short (f : SForm) (s : State) : Res := transOp .ex2 ex2Val (f.long (shortTy .ex2)) 4 s

/-- EX2. -/
def execEx2 (f : LForm) (s : State) : Res := transOp .ex2 ex2Val f 12 s

/-- LG2, short form. -/
def execLg2Short (f : SForm) (s : State) : Res := transOp .lg2 lg2Val (f.long (shortTy .lg2)) 4 s

/-- LG2. -/
def execLg2 (f : LForm) (s : State) : Res := transOp .lg2 lg2Val f 12 s

/-- RCP, short form. -/
def execRcpShort (f : SForm) (s : State) : Res := transOp .rcp rcpVal (f.long (shortTy .rcp)) 4 s

/-- RCP. -/
def execRcp (f : LForm) (s : State) : Res := transOp .rcp rcpVal f 12 s

/-- RSQ, short form. -/
def execRsqShort (f : SForm) (s : State) : Res := transOp .rsq rsqrtVal (f.long (shortTy .rsq)) 4 s

/-- RSQ. -/
def execRsq (f : LForm) (s : State) : Res := transOp .rsq rsqrtVal f 12 s

/-- FDOT2. -/
def execFdot2 (f : LForm) (s : State) : Res := fdot2Op f s

/-- PACK. -/
def execPack (f : LForm) (s : State) : Res := packOp f s

/-- UNPACK. -/
def execUnpack (f : LForm) (s : State) : Res := unpackOp f s

/-- CBDEC. -/
def execCbdec (f : LForm) (s : State) : Res := cbdecOp f s

end Sys2Proof.Machine
end

