-- ==== Sys2Proof/Machine/Dispatch.lean ====
section
/-! DEFINITION. The one dispatch from a step of Instr to its meaning. -/

namespace Sys2Proof.Machine

def exec (i : Instr) (s : State) : Host.Outcome State Fault Refusal :=
  match i with
  | .deviceReset hw => Sys2Proof.Machine.execDeviceReset hw s
  | .hostLinkTimeout lostAt => Sys2Proof.Machine.execHostLinkTimeout lostAt s
  | .linkFailure link => Sys2Proof.Machine.execLinkFailure link s
  | .linkRetire ring => Sys2Proof.Machine.execLinkRetire ring s
  | .dieLost die => Sys2Proof.Machine.execDieLost die s
  | .laneFailure port lanes => Sys2Proof.Machine.execLaneFailure port lanes s
  | .flitReceive port flit => Sys2Proof.Machine.execFlitReceive port flit s
  | .remoteRetransmit tag => Sys2Proof.Machine.execRemoteRetransmit tag s
  | .fabricTimeout tag => Sys2Proof.Machine.execFabricTimeout tag s
  | .epochReport group dev => Sys2Proof.Machine.execEpochReport group dev s
  | .fabricDeviceRemove group dev => Sys2Proof.Machine.execFabricDeviceRemove group dev s
  | .fabricBarrierArrival group dev => Sys2Proof.Machine.execFabricBarrierArrival group dev s
  | .fabricBarrierRelease group => Sys2Proof.Machine.execFabricBarrierRelease group s
  | .powerThrottle watts => Sys2Proof.Machine.execPowerThrottle watts s
  | .thermalThrottle celsius => Sys2Proof.Machine.execThermalThrottle celsius s
  | .thermalTrip celsius => Sys2Proof.Machine.execThermalTrip celsius s
  | .scrub sector found => Sys2Proof.Machine.execScrub sector found s
  | .ctxLoad pid => Sys2Proof.Machine.execCtxLoad pid s
  | .ctxUnload pid => Sys2Proof.Machine.execCtxUnload pid s
  | .ctxHalt pid => Sys2Proof.Machine.execCtxHalt pid s
  | .ctxResume pid => Sys2Proof.Machine.execCtxResume pid s
  | .poolCreate pid => Sys2Proof.Machine.execPoolCreate pid s
  | .poolDestroy pid => Sys2Proof.Machine.execPoolDestroy pid s
  | .attest pid => Sys2Proof.Machine.execAttest pid s
  | .health fn => Sys2Proof.Machine.execHealth fn s
  | .mbdoorIgnored fn seq => Sys2Proof.Machine.execMbdoorIgnored fn seq s
  | .negotiateAlgorithms ecdsaP256 sha256 => Sys2Proof.Machine.execNegotiateAlgorithms ecdsaP256 sha256 s
  | .getCertificate offset length => Sys2Proof.Machine.execGetCertificate offset length s
  | .challenge nonce => Sys2Proof.Machine.execChallenge nonce s
  | .getMeasurements index => Sys2Proof.Machine.execGetMeasurements index s
  | .admissionWrite pid ctx offset data allEnabled => Sys2Proof.Machine.execAdmissionWrite pid ctx offset data allEnabled s
  | .apertureRead pid x size => Sys2Proof.Machine.execApertureRead pid x size s
  | .apertureWrite pid x data => Sys2Proof.Machine.execApertureWrite pid x data s
  | .icoalWrite pid ctx value => Sys2Proof.Machine.execIcoalWrite pid ctx value s
  | .fqheadWrite pid value => Sys2Proof.Machine.execFqheadWrite pid value s
  | .registerWrite fn offset data => Sys2Proof.Machine.execRegisterWrite fn offset data s
  | .vfUnsupportedRequest pid posted => Sys2Proof.Machine.execVfUnsupportedRequest pid posted s
  | .coalescingTimer pid ctx => Sys2Proof.Machine.execCoalescingTimer pid ctx s
  | .formation pid ctx => Sys2Proof.Machine.execFormation pid ctx s
  | .emptyFormationRetry pid ctx => Sys2Proof.Machine.execEmptyFormationRetry pid ctx s
  | .stepClose pid ctx => Sys2Proof.Machine.execStepClose pid ctx s
  | .workgroupStart pid ctx node wg core slot => Sys2Proof.Machine.execWorkgroupStart pid ctx node wg core slot s
  | .bankReturnToCache core bank => Sys2Proof.Machine.execBankReturnToCache core bank s
  | .workgroupComplete core slot => Sys2Proof.Machine.execWorkgroupComplete core slot s
  | .contextSave pid ctx => Sys2Proof.Machine.execContextSave pid ctx s
  | .contextSwap pid ctx => Sys2Proof.Machine.execContextSwap pid ctx s
  | .contextRestore pid ctx => Sys2Proof.Machine.execContextRestore pid ctx s
  | .deadline pid ctx => Sys2Proof.Machine.execDeadline pid ctx s
  | .faultResolution rec => Sys2Proof.Machine.execFaultResolution rec s
  | .faultQueueWrite rec => Sys2Proof.Machine.execFaultQueueWrite rec s
  | .faultReplay thread => Sys2Proof.Machine.execFaultReplay thread s
  | .trapEntry core slot => Sys2Proof.Machine.execTrapEntry core slot s
  | .collapse thread => Sys2Proof.Machine.execCollapse thread s
  | .replicaFill die home => Sys2Proof.Machine.execReplicaFill die home s
  | .replicaDrop die home => Sys2Proof.Machine.execReplicaDrop die home s
  | .pageMigration pid ctx va tier die => Sys2Proof.Machine.execPageMigration pid ctx va tier die s
  | .frameReclaim pid ctx va => Sys2Proof.Machine.execFrameReclaim pid ctx va s
  | .poolEngineOperation instance_ => Sys2Proof.Machine.execPoolEngineOperation instance_ s
  | .epochAdvance domain => Sys2Proof.Machine.execEpochAdvance domain s
  | .epochReceive core => Sys2Proof.Machine.execEpochReceive core s
  | .retireStamp pid => Sys2Proof.Machine.execRetireStamp pid s
  | .retireRelease pid => Sys2Proof.Machine.execRetireRelease pid s
  | .copyEngineOperation core index => Sys2Proof.Machine.execCopyEngineOperation core index s
  | .copyArrival core index => Sys2Proof.Machine.execCopyArrival core index s
  | .matrixOperation core quarter => Sys2Proof.Machine.execMatrixOperation core quarter s
  | .clmergeMerge cluster pid ctx slot => Sys2Proof.Machine.execClmergeMerge cluster pid ctx slot s
  | .longLatencyComplete thread tag => Sys2Proof.Machine.execLongLatencyComplete thread tag s
  | .syncgComplete core slot group => Sys2Proof.Machine.execSyncgComplete core slot group s
  | .lvwaitComplete thread => Sys2Proof.Machine.execLvwaitComplete thread s
  | .dbgStopall f => Sys2Proof.Machine.execDbgStopall f s
  | .dbgcmdResume f => Sys2Proof.Machine.execDbgcmdResume f s
  | .dbgcmdStep f => Sys2Proof.Machine.execDbgcmdStep f s
  | .dbgcmdResumeall f => Sys2Proof.Machine.execDbgcmdResumeall f s
  | .csrwAccmask f => Sys2Proof.Machine.execCsrwAccmask f s
  | .csrwFifocfg f => Sys2Proof.Machine.execCsrwFifocfg f s
  | .braShort g n => Sys2Proof.Machine.execBraShort g n s
  | .bra f => Sys2Proof.Machine.execBra f s
  | .brxShort f => Sys2Proof.Machine.execBrxShort f s
  | .brx f => Sys2Proof.Machine.execBrx f s
  | .callShort g n => Sys2Proof.Machine.execCallShort g n s
  | .call f => Sys2Proof.Machine.execCall f s
  | .callxShort f => Sys2Proof.Machine.execCallxShort f s
  | .callx f => Sys2Proof.Machine.execCallx f s
  | .ret f => Sys2Proof.Machine.execRet f s
  | .exit f => Sys2Proof.Machine.execExit f s
  | .syncgShort f => Sys2Proof.Machine.execSyncgShort f s
  | .syncg f => Sys2Proof.Machine.execSyncg f s
  | .syncgGrp f => Sys2Proof.Machine.execSyncgGrp f s
  | .yield f => Sys2Proof.Machine.execYield f s
  | .bkpt g n => Sys2Proof.Machine.execBkpt g n s
  | .trapShort g n => Sys2Proof.Machine.execTrapShort g n s
  | .trap f => Sys2Proof.Machine.execTrap f s
  | .dqpop f => Sys2Proof.Machine.execDqpop f s
  | .nopShort f => Sys2Proof.Machine.execNopShort f s
  | .nop f => Sys2Proof.Machine.execNop f s
  | .dqpushShort f => Sys2Proof.Machine.execDqpushShort f s
  | .dqpush f => Sys2Proof.Machine.execDqpush f s
  | .addShort f => Sys2Proof.Machine.execAddShort f s
  | .add f => Sys2Proof.Machine.execAdd f s
  | .subShort f => Sys2Proof.Machine.execSubShort f s
  | .sub f => Sys2Proof.Machine.execSub f s
  | .mulShort f => Sys2Proof.Machine.execMulShort f s
  | .mul f => Sys2Proof.Machine.execMul f s
  | .mulhShort f => Sys2Proof.Machine.execMulhShort f s
  | .mulh f => Sys2Proof.Machine.execMulh f s
  | .mad f => Sys2Proof.Machine.execMad f s
  | .minmaxShort f => Sys2Proof.Machine.execMinmaxShort f s
  | .minmax f => Sys2Proof.Machine.execMinmax f s
  | .absnegShort f => Sys2Proof.Machine.execAbsnegShort f s
  | .absneg f => Sys2Proof.Machine.execAbsneg f s
  | .andShort f => Sys2Proof.Machine.execAndShort f s
  | .and_ f => Sys2Proof.Machine.execAnd f s
  | .orShort f => Sys2Proof.Machine.execOrShort f s
  | .or_ f => Sys2Proof.Machine.execOr f s
  | .xorShort f => Sys2Proof.Machine.execXorShort f s
  | .xor_ f => Sys2Proof.Machine.execXor f s
  | .tern f => Sys2Proof.Machine.execTern f s
  | .shlShort f => Sys2Proof.Machine.execShlShort f s
  | .shl f => Sys2Proof.Machine.execShl f s
  | .shrShort f => Sys2Proof.Machine.execShrShort f s
  | .shr f => Sys2Proof.Machine.execShr f s
  | .sarShort f => Sys2Proof.Machine.execSarShort f s
  | .sar f => Sys2Proof.Machine.execSar f s
  | .bfe f => Sys2Proof.Machine.execBfe f s
  | .bfi f => Sys2Proof.Machine.execBfi f s
  | .bitcShort f => Sys2Proof.Machine.execBitcShort f s
  | .bitc f => Sys2Proof.Machine.execBitc f s
  | .movShort f => Sys2Proof.Machine.execMovShort f s
  | .mov f => Sys2Proof.Machine.execMov f s
  | .moviShort g d n => Sys2Proof.Machine.execMoviShort g d n s
  | .movi f => Sys2Proof.Machine.execMovi f s
  | .sel f => Sys2Proof.Machine.execSel f s
  | .icmp f => Sys2Proof.Machine.execIcmp f s
  | .plopShort f => Sys2Proof.Machine.execPlopShort f s
  | .plop f => Sys2Proof.Machine.execPlop f s
  | .pmovGetShort f => Sys2Proof.Machine.execPmovGetShort f s
  | .pmovGet f => Sys2Proof.Machine.execPmovGet f s
  | .pmovSet f => Sys2Proof.Machine.execPmovSet f s
  | .leaShort f => Sys2Proof.Machine.execLeaShort f s
  | .lea f => Sys2Proof.Machine.execLea f s
  | .lxchShort f => Sys2Proof.Machine.execLxchShort f s
  | .lxch f => Sys2Proof.Machine.execLxch f s
  | .gqryShort f => Sys2Proof.Machine.execGqryShort f s
  | .gqry f => Sys2Proof.Machine.execGqry f s
  | .redgShort f => Sys2Proof.Machine.execRedgShort f s
  | .redg f => Sys2Proof.Machine.execRedg f s
  | .scangShort f => Sys2Proof.Machine.execScangShort f s
  | .scang f => Sys2Proof.Machine.execScang f s
  | .srdShort f => Sys2Proof.Machine.execSrdShort f s
  | .srd f => Sys2Proof.Machine.execSrd f s
  | .cvti f => Sys2Proof.Machine.execCvti f s
  | .ld f => Sys2Proof.Machine.execLd f s
  | .st f => Sys2Proof.Machine.execSt f s
  | .ldt f => Sys2Proof.Machine.execLdt f s
  | .stt f => Sys2Proof.Machine.execStt f s
  | .ldnr f => Sys2Proof.Machine.execLdnr f s
  | .atom f => Sys2Proof.Machine.execAtom f s
  | .cas f => Sys2Proof.Machine.execCas f s
  | .scadd f => Sys2Proof.Machine.execScadd f s
  | .alb f => Sys2Proof.Machine.execAlb f s
  | .ale f => Sys2Proof.Machine.execAle f s
  | .fence f => Sys2Proof.Machine.execFence f s
  | .fenceAlias f => Sys2Proof.Machine.execFenceAlias f s
  | .lvinit f => Sys2Proof.Machine.execLvinit f s
  | .lvarv f => Sys2Proof.Machine.execLvarv f s
  | .lvwait f => Sys2Proof.Machine.execLvwait f s
  | .sstepDev f => Sys2Proof.Machine.execSstepDev f s
  | .sstepFab f => Sys2Proof.Machine.execSstepFab f s
  | .wopen f => Sys2Proof.Machine.execWopen f s
  | .wclose f => Sys2Proof.Machine.execWclose f s
  | .rld f => Sys2Proof.Machine.execRld f s
  | .rst f => Sys2Proof.Machine.execRst f s
  | .ratom f => Sys2Proof.Machine.execRatom f s
  | .pfetch f => Sys2Proof.Machine.execPfetch f s
  | .discard f => Sys2Proof.Machine.execDiscard f s
  | .faddShort f => Sys2Proof.Machine.execFaddShort f s
  | .fadd f => Sys2Proof.Machine.execFadd f s
  | .fmulShort f => Sys2Proof.Machine.execFmulShort f s
  | .fmul f => Sys2Proof.Machine.execFmul f s
  | .ffma f => Sys2Proof.Machine.execFfma f s
  | .fminmaxShort f => Sys2Proof.Machine.execFminmaxShort f s
  | .fminmax f => Sys2Proof.Machine.execFminmax f s
  | .fcmp f => Sys2Proof.Machine.execFcmp f s
  | .fclass f => Sys2Proof.Machine.execFclass f s
  | .fcvt f => Sys2Proof.Machine.execFcvt f s
  | .fcvti f => Sys2Proof.Machine.execFcvti f s
  | .icvtf f => Sys2Proof.Machine.execIcvtf f s
  | .ex2Short f => Sys2Proof.Machine.execEx2Short f s
  | .ex2 f => Sys2Proof.Machine.execEx2 f s
  | .lg2Short f => Sys2Proof.Machine.execLg2Short f s
  | .lg2 f => Sys2Proof.Machine.execLg2 f s
  | .rcpShort f => Sys2Proof.Machine.execRcpShort f s
  | .rcp f => Sys2Proof.Machine.execRcp f s
  | .rsqShort f => Sys2Proof.Machine.execRsqShort f s
  | .rsq f => Sys2Proof.Machine.execRsq f s
  | .fdot2 f => Sys2Proof.Machine.execFdot2 f s
  | .pack f => Sys2Proof.Machine.execPack f s
  | .unpack f => Sys2Proof.Machine.execUnpack f s
  | .cbdec f => Sys2Proof.Machine.execCbdec f s
  | .mxzero f => Sys2Proof.Machine.execMxzero f s
  | .plane f => Sys2Proof.Machine.execPlane f s
  | .mxmul f => Sys2Proof.Machine.execMxmul f s
  | .mxspm f => Sys2Proof.Machine.execMxspm f s
  | .mxepi f => Sys2Proof.Machine.execMxepi f s
  | .mxstore f => Sys2Proof.Machine.execMxstore f s
  | .mxldacc f => Sys2Proof.Machine.execMxldacc f s
  | .mxscaleAlpha f => Sys2Proof.Machine.execMxscaleAlpha f s
  | .mxscaleFinal f => Sys2Proof.Machine.execMxscaleFinal f s
  | .clmerge f => Sys2Proof.Machine.execClmerge f s
  | .slope f => Sys2Proof.Machine.execSlope f s
  | .cpy f => Sys2Proof.Machine.execCpy f s
  | .cpyg f => Sys2Proof.Machine.execCpyg f s
  | .balloc f => Sys2Proof.Machine.execBalloc f s
  | .bfreeRel f => Sys2Proof.Machine.execBfreeRel f s
  | .bfreeAddref f => Sys2Proof.Machine.execBfreeAddref f s
  | .sqopCreate f => Sys2Proof.Machine.execSqopCreate f s
  | .sqopAppend f => Sys2Proof.Machine.execSqopAppend f s
  | .sqopXlate f => Sys2Proof.Machine.execSqopXlate f s
  | .sqopFork f => Sys2Proof.Machine.execSqopFork f s
  | .sqopTrim f => Sys2Proof.Machine.execSqopTrim f s
  | .sqopDrop f => Sys2Proof.Machine.execSqopDrop f s
  | .rsenter f => Sys2Proof.Machine.execRsenter f s
  | .rsleave f => Sys2Proof.Machine.execRsleave f s
  | .publish f => Sys2Proof.Machine.execPublish f s
  | .retire f => Sys2Proof.Machine.execRetire f s
  | .route f => Sys2Proof.Machine.execRoute f s
  | .rcsnap f => Sys2Proof.Machine.execRcsnap f s
  | .fetchw f => Sys2Proof.Machine.execFetchw f s
  | .reqopEmit f => Sys2Proof.Machine.execReqopEmit f s
  | .reqopCancel f => Sys2Proof.Machine.execReqopCancel f s
  | .reqopGet f => Sys2Proof.Machine.execReqopGet f s
  | .csrr f => Sys2Proof.Machine.execCsrr f s
  | .csrw f => Sys2Proof.Machine.execCsrw f s
  | .eret f => Sys2Proof.Machine.execEret f s
  | .waitEng f => Sys2Proof.Machine.execWaitEng f s
  | .waitCyc f => Sys2Proof.Machine.execWaitCyc f s
  | .sysTlbinv f => Sys2Proof.Machine.execSysTlbinv f s
  | .sysTlbinvPart f => Sys2Proof.Machine.execSysTlbinvPart f s
  | .sysTdset f => Sys2Proof.Machine.execSysTdset f s
  | .sysHalt f => Sys2Proof.Machine.execSysHalt f s
  | .sysDbg f => Sys2Proof.Machine.execSysDbg f s
  | .linkRetrain link => Sys2Proof.Machine.execLinkRetrain link s
  | .waitCycExpiry core slot => Sys2Proof.Machine.execWaitCycExpiry core slot s
  | .ready => Sys2Proof.Machine.execReady s
  | .startTimeout => Sys2Proof.Machine.execStartTimeout s
  | .hostReset => Sys2Proof.Machine.execHostReset s
  | .linkDown => Sys2Proof.Machine.execLinkDown s
  | .rldRequest => Sys2Proof.Machine.execRldRequest s
  | .rstRequest => Sys2Proof.Machine.execRstRequest s
  | .ratomRequest => Sys2Proof.Machine.execRatomRequest s
  | .copyWrite => Sys2Proof.Machine.execCopyWrite s
  | .multicastData => Sys2Proof.Machine.execMulticastData s
  | .readData => Sys2Proof.Machine.execReadData s
  | .storeAcknowledgement => Sys2Proof.Machine.execStoreAcknowledgement s
  | .atomicResult => Sys2Proof.Machine.execAtomicResult s
  | .copyCompletion => Sys2Proof.Machine.execCopyCompletion s
  | .errorResponse => Sys2Proof.Machine.execErrorResponse s
  | .partCreate => Sys2Proof.Machine.execPartCreate s
  | .partDestroy => Sys2Proof.Machine.execPartDestroy s
  | .powerLimit => Sys2Proof.Machine.execPowerLimit s
  | .fwChunk => Sys2Proof.Machine.execFwChunk s
  | .fwCommit => Sys2Proof.Machine.execFwCommit s
  | .devReset => Sys2Proof.Machine.execDevReset s
  | .getVersion => Sys2Proof.Machine.execGetVersion s
  | .getCapabilities => Sys2Proof.Machine.execGetCapabilities s
  | .getDigests => Sys2Proof.Machine.execGetDigests s
  | .coreClockRaise => Sys2Proof.Machine.execCoreClockRaise s

end Sys2Proof.Machine
end

