-- ==== Sys2Proof/Machine/Place.lean ====
section
/-! DEFINITION. What step adds around an issue: the passing of time, the end of an issue, and an instruction placed
for the next step to run (log 17, DESIGN CHOICE). -/

namespace Sys2Proof.Machine

/-- Time passes and the turn's choices are at hand. -/
def State.tick (s : State) (dc dn : Nat) (ch : List Nat) : State :=
  { s with cycle := s.cycle + dc, ns := s.ns + dn, choice := ch }

/-- The second path of the issue, if there is one, issues next; otherwise the issue ends, of every group in it (R178, R181). -/
def State.shift (s : State) : State :=
  match s.nxt with
  | some r => { s with cur := some r, nxt := none }
  | none => s.pairs.foldl State.endPair { s with cur := none, pairs := [] }

/-- A context whose step goes on keeps what was there before memory was last written (R208). -/
def Context.keepPast (c : Context) (old : Option Context) (m : Memory) (e : DWord) : Context :=
  match old, c.run with
  | some o, some r =>
    if o.run.isSome ∧ o.stepn = c.stepn then { c with run := some { r with past := { mem := m, l4base := o.l4base, e := e } :: r.past } }
    else c
  | _, _ => c

/-- The state after a step from `old`: code that the step in progress writes may be fetched as it was (R208). -/
def State.remember (s old : State) : State :=
  if s.mem = old.mem then s
  else { s with parts := s.parts.map fun e =>
    (e.1, { e.2 with ctxs := e.2.ctxs.map fun x => (x.1, x.2.keepPast (old.ctx? e.1 x.1) old.mem (old.domain (old.domOf e.1)).e) }) }

/-- The path has issued. -/
def State.noteIssued (s : State) (p : Path) : State :=
  if p.ctl then s
  else { s with pairs := s.pairs.map fun q => if q.grp == p.grp then { q with issued := q.issued ||| p.mask } else q }

/-- The tables of the placed program: VA 0 to 4,095 is one page with every right. -/
def placeTables : List (Nat × Nat) :=
  [(0x0, 0x1001), (0x1000, 0x2001), (0x2000, 0x3001), (0x3000, 0x4001), (0x4000, 0x53F1)]

/-- The context, workgroup and code page of a program of one instruction, in partition 0, context 0, core 0, slot 0:
one lane and a control thread at VA 0, in whose stream the instruction is valid (log 17, DESIGN CHOICE). -/
def State.place (s : State) (nbits w : Nat) : State :=
  let ctl : Bool := match decode (tableBytes nbits w) with
    | .ok (i, _) => (match coded i with | some (mj, _, _) => streamsOf mj == .control | none => false)
    | .error _ => false
  let mem := placeTables.foldl (fun m e => memWrite m e.1 (bytesOf 8 e.2)) s.mem
  let run : StepRun := { nodes := [{ record := 0, grid := 1, taken := [0], done := [] }], entries := [], ntok := 0
                         count := 0, since := some s.cycle, deadline := ~~~0#64, launch := 0, past := [], cellSeen := 0 }
  let ctx : Context := { Context.blank with asid := 1, cstate := 2, nslot := 1, clmask := 1, margin := 0xFFFFFFFF
                                            run := some run }
  let part : Partition := { Partition.blank with state := 2, nctx := 1, clmask := 1, ctxs := [(0, ctx)] }
  let id : WgId := { pid := 0, ctx := 0, node := 0, wgi := 0, core := 0, slot := 0, gnum := [0], nlane := 1, nreg := 64
                     scr := 1, wpri := 0, quartet := false, persist := false, slotv := 0, req := 0, qpos := 0
                     kvlen := 0, step := 0 }
  { s with mem := memWrite mem 0x5000 (tableBytes nbits w)
           parts := tabSet s.parts 0 part
           wgs := tabSet s.wgs 0 (Wg.start id 0 0 [])
           cur := some (if ctl then .ctrl 0 0 else .lanes 0 0 0 1)
           nxt := none, pairs := [] }

end Sys2Proof.Machine
end

