-- ==== Sys2Proof/Machine/Select.lean ====
section
/-! DEFINITION. The choice of what issues: paths of a group (R177 to R180), fused pairs and groups of a quarter (R181, R182), control threads
(R183). What is ready is what would issue: an instruction that its meaning holds is not. -/

namespace Sys2Proof.Machine

/-- What an issuer would do now: raise a cause, issue an instruction, or nothing while a wait holds it (R177, R183). -/
def State.ready (s : State) (r : ThreadRef) : Next :=
  match ({ s with cur := some r } : State).path? with
  | none => .wait
  | some (p, s1) =>
    match p.next s1 with
    | (.run i mj f, s2) =>
      match exec i (p.countIssue s2 mj f) with
      | .next t => if t.cur.isNone then .wait else .run i mj f
      | _ => .run i mj f
    | (x, _) => x

/-- A path of a group, as an issuer. -/
def Wg.lanesRef (w : Wg) (g : Nat) (m : LaneMask) : ThreadRef := .lanes w.id.core w.id.slot g m

/-- The issue of a group that begins, with its path p1. -/
def Wg.issueOf (w : Wg) (g : Nat) (a : Nat × LaneMask) (promoted : Bool) : Pair :=
  { core := w.id.core, slot := w.id.slot, grp := g, act := w.activeMask g, promoted := promoted, p1 := a.2
    pc1 := BitVec.ofNat 64 a.1, issued := 0 }

/-- R178 and R179: an issue of a group. `cur` and `nxt` become the paths that issue; a path that loses arbitration is
marked and takes the first slot next time. A path in p1 whose own needs exceed a port issues alone, whatever the other's PC; one
in p2 waits for p1 (log 133, DEDUCED). -/
def State.selectPaths (s : State) (w : Wg) (g : Nat) : State :=
  match w.slots g with
  | none => s
  | some (a, b?, promoted) =>
    let go := fun (m1 : LaneMask) (m2 : Option LaneMask) (lost : LaneMask) =>
      { s.setWg (w.setGroup g { w.group g with lost := lost, yielded := 0 }) with
        cur := some (w.lanesRef g m1), nxt := m2.map (w.lanesRef g), pairs := [w.issueOf g a promoted] }
    match b? with
    | none => go a.2 none 0
    | some b =>
      match s.ready (w.lanesRef g a.2), s.ready (w.lanesRef g b.2) with
      | .run i mi _, .run j mj _ =>
        if portsExceeded [(i, mi)] then go a.2 none b.2
        else if portsExceeded [(j, mj)] then go a.2 none b.2
        else if portsExceeded [(i, mi), (j, mj)] then
          (if promoted || decide (a.1 < b.1) then go a.2 none b.2 else go b.2 none a.2)
        else go a.2 (some b.2) 0
      | _, .wait => go a.2 none 0
      | .wait, _ => go b.2 none 0
      | _, _ => go a.2 (some b.2) 0

/-- Whether a group can issue: a path of its slots is ready. -/
def State.groupReady (s : State) (w : Wg) (g : Nat) : Bool :=
  match w.slots g with
  | none => false
  | some (a, b?, _) => s.ready (w.lanesRef g a.2) != .wait || b?.any fun b => s.ready (w.lanesRef g b.2) != .wait

/-- Notes since when each group of a quarter has been ready (R182). -/
def State.noteReady (s : State) (core q : Nat) : State :=
  s.wgs.foldl (fun s e =>
    if e.2.id.core != core then s
    else (List.range e.2.ngroups).foldl (fun s g =>
      if g % 4 != q then s
      else s.modWg core e.2.id.slot fun w =>
        let x := w.group g
        if s.groupReady w g then w.setGroup g { x with readySince := some (x.readySince.getD s.cycle) }
        else if x.readySince.isSome then w.setGroup g { x with readySince := none } else w) s) s

/-! ### Fusion (R181) -/

/-- The majors that no fused pair performs. -/
def neverFused (mj : Major) : Bool :=
  [.lxch, .gqry, .redg, .scang, .syncg, .dqpop, .atom, .cas, .scadd, .alb, .ale, .bkpt, .trap].contains mj

/-- The path in slot p1 and its instruction, if the group may be one of a fused pair now: the path is ready, and the group is
not promoted, has no losing path waiting and is not halted. A path that would raise a cause is not fused (log 107, DEDUCED). -/
def State.fusable (s : State) (w : Wg) (g : Nat) : Option ((Nat × LaneMask) × Instr) :=
  match w.slots g with
  | some (a, _, false) =>
    let x := w.group g
    if x.halted || (w.paths g).any (fun e => (e.2 &&& x.lost) != 0) then none
    else match s.ready (w.lanesRef g a.2) with
      | .run i mj _ => if neverFused mj then none else some (a, i)
      | _ => none
  | _ => none

/-- Whether two groups of a workgroup in one quarter can be fused for an issue now. -/
def State.canFuse (s : State) (w : Wg) (g h : Nat) : Bool :=
  match s.fusable w g, s.fusable w h with
  | some (a, i), some (b, j) => a.1 == b.1 && (a.2 &&& b.2) == 0 && i == j
  | _, _ => false

/-- The fused pairs of some groups of a workgroup in one quarter: the ones that were fused and still can be, then each further group
with one of those that it can be fused with, by choice (log 153, DESIGN CHOICE). -/
def State.fusedPairs (s : State) (w : Wg) (gs : List Nat) : List (Nat × Nat) × State :=
  let kept := gs.filterMap fun g => match (w.group g).fused with
    | some h => if g < h ∧ s.canFuse w g h then some (g, h) else none
    | none => none
  gs.foldl (fun (a : List (Nat × Nat) × State) g =>
    let free := fun (k : Nat) => !(a.1.any fun e => e.1 == k || e.2 == k)
    if !free g then a
    else match gs.filter fun h => decide (g < h) && free h && s.canFuse w g h with
      | [] => a
      | h :: hs =>
        let (n, t) := a.2.choose
        (a.1 ++ [(g, nthD h (h :: hs) (n % (hs.length + 1)))], t)) (kept, s)

/-- The groups of a quarter are paired anew, where a workgroup has several. -/
def State.noteFused (s : State) (core q : Nat) : State :=
  s.wgs.foldl (fun s e =>
    let gs := (List.range e.2.ngroups).filter fun g => g % 4 == q
    if e.2.id.core != core || gs.length < 2 then s
    else match s.wg? core e.2.id.slot with
      | none => s
      | some w =>
        let (ps, s) := s.fusedPairs w gs
        s.setWg (gs.foldl (fun w g => w.setGroup g { w.group g with
          fused := ps.findSome? fun x => if x.1 = g then some x.2 else if x.2 = g then some x.1 else none }) w)) s

/-- A fused issue of two groups: that instruction of both paths, in either order, and no p2. -/
def State.selectFused (s : State) (w : Wg) (g h : Nat) : State :=
  match w.slots g, w.slots h with
  | some (a, _, _), some (b, _, _) =>
    let clear := fun (w : Wg) (g : Nat) => w.setGroup g { w.group g with lost := 0, yielded := 0 }
    let (n, s) := s.choose
    let (one, two) := if n % 2 = 0 then (w.lanesRef g a.2, w.lanesRef h b.2) else (w.lanesRef h b.2, w.lanesRef g a.2)
    { s.setWg (clear (clear w g) h) with
      cur := some one, nxt := some two, pairs := [w.issueOf g a false, w.issueOf h b false] }
  | _, _ => s

/-- What a quarter can choose from: its ready groups, fused ones as one candidate. -/
def State.candidates (s : State) (core q : Nat) : List (Wg × List Nat) :=
  s.wgs.flatMap fun e =>
    if e.2.id.core = core ∧ !e.2.ended then
      ((List.range e.2.ngroups).filter fun g => g % 4 == q && s.groupReady e.2 g).filterMap fun g =>
        match (e.2.group g).fused with
        | some h => if g < h then some (e.2, [g, h]) else none
        | none => some (e.2, [g])
    else []

/-- An issue opportunity of a quarter (R182). -/
def State.selectQuarter (s : State) (core q : Nat) : State :=
  let s := (s.noteReady core q).noteFused core q
  let best := (s.candidates core q).foldl (fun (m : Option (Wg × List Nat)) c => match m with
    | none => some c
    | some b => if keyLt (s.quarterKey (s.core core) q c.1 c.2) (s.quarterKey (s.core core) q b.1 b.2) then some c
                else some b) none
  let note := fun (w : Wg) (g : Nat) =>
    s.modCore core fun c => { c with lastGroup := tabSet c.lastGroup q (nthD g w.id.gnum g) }
  match best with
  | some (w, [g]) => (note w g).selectPaths w g
  | some (w, g :: h :: _) => (note w (if nthD h w.id.gnum h < nthD g w.id.gnum g then h else g)).selectFused w g h
  | _ => s

/-- An issue opportunity of a core's scalar pipe: round-robin by slot after the one that issued last (R183). -/
def State.selectScalar (s : State) (core : Nat) : State :=
  let last := (s.core core).lastCtl
  let order := (List.range 8).map fun k => (last + 1 + k) % 8
  let can := fun slot => match s.wg? core slot with
    | some w => w.ctlCan && s.ready (.ctrl core slot) != .wait
    | none => false
  match order.find? can with
  | none => s
  | some slot => { (s.modCore core fun c => { c with lastCtl := slot }) with cur := some (.ctrl core slot) }

end Sys2Proof.Machine
end

