-- ==== Sys2Proof/Machine/Step.lean ====
section
/-! DEFINITION. One step of the machine. While a path or control thread is issuing, the step fetches its instruction,
checks it (R207) and executes it; otherwise the next turn of the agenda is taken: an agent's step, or an issue
opportunity, which chooses what issues. With nothing on the agenda the machine waits. -/

namespace Sys2Proof.Machine

/-- The step of what is issuing now. -/
def stepIssue (s : State) : Host.Outcome State Fault Refusal :=
  match s.path? with
  | none => .next s.shift
  | some (p, s1) =>
    match p.next s1 with
    | (.wait, s2) => .next s2.shift
    | (.raise c mem, s2) => .next ((p.raise s2 c mem).noteIssued p).shift
    | (.run i mj f, s2) =>
      match exec i (p.countIssue s2 mj f) with
      | .next s3 => if s3.cur.isNone then .next s2.shift else .next (s3.noteIssued p).shift
      | .fault r => .fault r
      | .refused r => .refused r

/-- Time passes before a turn; a reset that is due then comes first (R44), unless the turn is itself one. -/
def State.timePasses (s : State) (dc dn : Nat) (ch : List Nat) (isReset : Bool) : State :=
  if isReset then s.tick dc dn ch else (s.tick dc dn ch).dueReset

/-- Whether an event is the device's reset. -/
def isReset : Instr → Bool
  | .deviceReset _ => true
  | _ => false

/-- The step of a turn of the agenda. -/
def stepTurn (t : Turn) (s : State) : Host.Outcome State Fault Refusal :=
  match t with
  | .quarter dc dn ch core q => .next ((s.timePasses dc dn ch false).selectQuarter core q)
  | .scalar dc dn ch core => .next ((s.timePasses dc dn ch false).selectScalar core)
  | .event dc dn ch i =>
    if i.isCoded then .next (s.timePasses dc dn ch false) else exec i (s.timePasses dc dn ch (isReset i))

/-- The step of what is issuing, or of the next turn. -/
def stepCore (s : State) : Host.Outcome State Fault Refusal :=
  match s.cur with
  | some _ => stepIssue s
  | none =>
    match s.agenda with
    | [] => .next s
    | t :: ts => stepTurn t { s with agenda := ts }

/-- One step. Contexts keep what memory was before it (R208). -/
def step (s : State) : Host.Outcome State Fault Refusal :=
  match stepCore s with
  | .next t => .next (t.remember s)
  | x => x

/-- The instruction placed where `step` fetches next: see `State.place`. -/
def State.withFetchWord (s : State) (nbits w : Nat) : State := s.place nbits w

end Sys2Proof.Machine
end

