-- ==== Sys2Proof/Safety.lean ====
section
/-! DEFINITION. What a sound state is, and the words in which statements say what a step changes: the invariants that no
step breaks, the effect of an instruction on the threads that issue it, and the parts of a state that stay as they are. -/

namespace Sys2Proof
open Machine

/-! ### Invariants -/

/-- Main memory is in canonical form. -/
def MemInv (s : State) : Prop := Memory.wf s.mem = true

/-- Every workgroup stands in the place of its core and slot. -/
def WgsStand (s : State) : Prop := ∀ k w, tabGet s.wgs k = some w → k = w.id.core * 8 + w.id.slot

/-- A step keeps a property of states. -/
def KeptByStep (inv : State → Prop) : Prop := ∀ s s', inv s → step s = .next s' → inv s'

/-! ### What an instruction does to the threads that issue it -/

/-- One register write in a thread. A uniform register is not the thread's own (Table 7-2). -/
def put1 (t : Thread) : RegWrite → Thread
  | .v n x => { t with v := cellSet t.v n x }
  | .k n x => { t with k := cellSet t.k n x }
  | .p n x => { t with p := if n = 0 then t.p else if x then t.p ||| (1#16 <<< n) else t.p &&& ~~~(1#16 <<< n) }
  | .s _ _ => t

/-- A list of register writes in a thread, in order. -/
def put (t : Thread) (ws : List RegWrite) : Thread := ws.foldl put1 t

/-- The uniform registers after a list of register writes. -/
def putS (c : Cells 32) (ws : List RegWrite) : Cells 32 :=
  ws.foldl (fun c r => match r with | .s n x => cellSet c n x | _ => c) c

/-- A thread gone on by n bytes. -/
def Ahead (t : Thread) (n : Nat) : Thread := { t with pc := t.pc + BitVec.ofNat 64 n }

/-- The lanes on the path of `p` are changed by `go`, no other lane of the workgroup is, and `t` is what `fin` makes of the
workgroup so changed. -/
def LanesThen (p : Path) (t : State) (go : Nat → Thread → Thread) (fin : Wg → State) : Prop :=
  ∃ ls, t = fin { p.w with lanes := ls } ∧
    (∀ l, l < 32 → p.mask.getLsbD l = true → tabGet ls (32 * p.grp + l) = (p.w.lane? p.grp l).map (go l)) ∧
    ∀ k, (∀ l, l < 32 → p.mask.getLsbD l = true → k ≠ 32 * p.grp + l) → tabGet ls k = tabGet p.w.lanes k

/-- `t` is `s` but for the lanes of the path of `p`: the thread in each is changed by `go`, and nothing else is, neither
in the workgroup nor outside it. -/
def LanesBecome (p : Path) (s t : State) (go : Nat → Thread → Thread) : Prop := LanesThen p t go s.setWg

/-- `t` is `s` but for the control thread, which is `c` now, and the uniform registers, which are `u` (R184 keeps what they
held before in a log). -/
def CtlBecomes (p : Path) (s t : State) (c : Thread) (u : Cells 32) : Prop :=
  ∃ lg q, t = s.setWg { p.w with ctl := c, s := u, sLog := lg, sSeq := q }

/-- The whole effect of an instruction of n bytes under guard g: each lane for which the guard holds, or the control thread
if it does, takes the register writes `ws`; every thread of the path goes on by n bytes; nothing else changes. -/
def Effect (p : Path) (s t : State) (g : Guard) (n : Nat) (ws : Nat → Thread → List RegWrite) : Prop :=
  if p.ctl then
    CtlBecomes p s t (Ahead (if p.w.ctl.guard g then put p.w.ctl (ws 0 p.w.ctl) else p.w.ctl) n)
      (if p.w.ctl.guard g then putS p.w.s (ws 0 p.w.ctl) else p.w.s)
  else LanesBecome p s t fun l th => Ahead (if th.guard g then put th (ws l th) else th) n

/-- Whatever path or control thread issues it, the instruction completes with that effect. -/
def Completes (i : Instr) (g : Guard) (n : Nat) (ws : State → Path → Nat → Thread → List RegWrite) : Prop :=
  ∀ s p s', s.path? = some (p, s') → ∃ t, exec i s = .next t ∧ Effect p s' t g n (ws s' p)

/-- The same of an instruction that only lanes issue. -/
def LaneCompletes (i : Instr) (g : Guard) (n : Nat) (ws : State → Path → Nat → Thread → List RegWrite) : Prop :=
  ∀ s p s', s.path? = some (p, s') → p.ctl = false →
    ∃ t, exec i s = .next t ∧ LanesBecome p s' t fun l th => Ahead (if th.guard g then put th (ws s' p l th) else th) n

/-- The workgroup in a slot, which stands in its own place. -/
def Stands (s : State) (core slot : Nat) (w : Wg) : Prop :=
  s.wg? core slot = some w ∧ w.id.core = core ∧ w.id.slot = slot

end Sys2Proof
end

