-- ==== Sys2Proof/Certificates/Slice0/Obligations.lean ====
section
/-! DEFINITION. The statements for the provers, each a proposition named by what it states, with the words they share.
Their order is that of OBLIGATIONS.json. -/

namespace Sys2Proof.Claims
open Sys2Proof.Machine

/-! ### The words of the statements about integers -/

/-- The number whose bit i, for i below w, is b i. -/
def bitsOfFn (w : Nat) (b : Nat → Bool) : Nat := (List.range w).foldl (fun x i => x + b2n (b i) * 2 ^ i) 0

/-- The result of a 32-bit or 64-bit logical entry: g on the sources' low w bits. -/
def logic (mj : Major) (f : LForm) (g : Nat → Nat → Nat) (_ : State) (p : Path) (_ : Nat) (th : Thread) : List RegWrite :=
  p.wr f.d f.ty (g (p.opA th mj f % 2 ^ tyWidth f.ty) (p.opB th mj f % 2 ^ tyWidth f.ty) : Nat)

/-- The result of an arithmetic entry: g on val(T, a), val(T, b) and val(T, c), clamped when M = 1 (R231). -/
def exact (mj : Major) (f : LForm) (g : Int → Int → Int → Int) (_ : State) (p : Path) (_ : Nat) (th : Thread) :
    List RegWrite :=
  let x := g (val f.ty (p.opA th mj f)) (val f.ty (p.opB th mj f)) (val f.ty (p.opC th mj f))
  p.wr f.d f.ty (if f.m = 1 then clampTy x f.ty else x)

/-- The result of a shift: g on a, the width and n (R234). -/
def shift (mj : Major) (f : LForm) (g : Int → Nat → Nat → Int) (_ : State) (p : Path) (_ : Nat) (th : Thread) :
    List RegWrite :=
  let w := tyWidth f.ty
  let n := p.opB th mj f % 2 ^ 32
  p.wr f.d f.ty (g (val f.ty (p.opA th mj f)) w (if f.m = 1 then n % w else n))

/-- Position and length of a bit field, from Word 2 or a register, the length at most w (R235). -/
def fieldOf (f : LForm) (r : Nat) : Nat × Nat :=
  let x := if f.m = 1 then r else f.w2.toNat
  (x % 256, min (x / 256 % 256) (tyWidth f.ty))

/-- The result of BITC (R236). -/
def bitCount (f : LForm) (_ : State) (p : Path) (_ : Nat) (th : Thread) : List RegWrite :=
  let w := tyWidth f.ty
  let a := p.opA th .bitc f % 2 ^ w
  if f.f = 0 then p.wr32 f.d (((List.range w).find? fun i => bitAt a (w - 1 - i)).getD w)
  else if f.f = 1 then p.wr32 f.d (((List.range w).find? fun i => bitAt a i).getD w)
  else if f.f = 2 then p.wr32 f.d ((List.range w).filter fun i => bitAt a i).length
  else p.wr f.d f.ty (bitsOfFn w fun i => bitAt a (w - 1 - i) : Nat)

/-- The participants of a group operation with the values of their sources (R243). -/
def votes (p : Path) (g : Guard) (src : Thread → Nat) : List (Nat × Nat) := (p.active g).map fun e => (e.1, src e.2)

/-- The six combinations of R246, of patterns of w bits; .ADD wraps when it is written. -/
def comb (f : LForm) (x y : Int) : Int :=
  let bits := fun (g : Bool → Bool → Bool) =>
    ((bitsOfFn (tyWidth f.ty) fun i => g (bitAt (wrapN (tyWidth f.ty) x) i) (bitAt (wrapN (tyWidth f.ty) y) i) : Nat) : Int)
  if f.f = 0 then x + y else if f.f = 1 then min x y else if f.f = 2 then max x y
  else if f.f = 3 then bits and else if f.f = 4 then bits or else bits xor

/-- The combination of the values of some participants, in lane order; that of none is the identity of R246. -/
def combAll (f : LForm) : List (Nat × Nat) → Int
  | [] => if f.f = 1 then tyMax f.ty else if f.f = 2 then tyMin f.ty
          else if f.f = 3 then ((2 ^ tyWidth f.ty : Nat) : Int) - 1 else 0
  | v :: vs => vs.foldl (fun x e => comb f x (val f.ty e.2)) (val f.ty v.2)

/-- The value LXCH gives lane l (R244). -/
def exchanged (f : LForm) (p : Path) (l : Nat) (th : Thread) : Nat :=
  let b := p.opB th .lxch f
  let j : Int :=
    if f.f = 0 then (b % 32 : Nat) else if f.f = 1 then (Nat.xor l (b % 32) : Nat)
    else if f.f = 2 then ((l : Int) + sx 6 b) % 32 else (l : Int) + sx 6 b
  match (p.active f.g).find? fun e => (e.1 : Int) == j with
  | some e => p.opA e.2 .lxch f
  | none => p.opA th .lxch f

/-- The answer of GQRY (R245). -/
def query (f : LForm) (_ : State) (p : Path) (_ : Nat) (_ : Thread) : List RegWrite :=
  let set := (p.active f.g).map fun e => (e.1, e.2.pred f.a.toNat)
  if f.f = 0 then wrPred f.d (set.all fun e => e.2)
  else if f.f = 1 then wrPred f.d (set.any fun e => e.2)
  else if f.f = 2 then p.wr32 f.d (bitsOfFn 32 fun i => set.any fun e => e.1 == i && e.2)
  else if f.f = 3 then
    let vals := votes p f.g fun th => p.opA th .gqry f % 2 ^ tyWidth f.ty
    wrPred f.d (vals.all fun x => vals.all fun y => x.2 == y.2)
  else p.wr32 f.d (set.filter fun e => e.2).length

/-- The value of a special register for lane l of a path, or for a control thread (Table 8-5). -/
def special (s : State) (p : Path) (l k : Nat) : Nat :=
  let lane := fun (x : Nat) => if p.ctl then 0 else x
  [lane (32 * p.grp + l), lane l, lane p.grp, p.w.id.wgi, p.w.id.node, p.w.id.slotv.toNat, p.w.id.req.toNat,
   p.w.id.qpos.toNat, p.w.id.kvlen.toNat, p.w.id.step.toNat, p.w.id.core, p.w.id.core / 4, lane (p.grp % 4),
   lane (p.w.group p.grp).pend.toNat, s.cycle % 2 ^ 64, (s.domain (s.domOf p.w.id.pid)).e.toNat].getD k 0

/-! ### The words of the statements about control flow -/

/-- The lanes of a path for which a guard holds. -/
def held (p : Path) (g : Guard) : LaneMask := maskOfLanes ((p.active g).map (·.1))

/-- The effect of a branch of n bytes: a thread for which the guard holds takes the writes `link` and goes to `target`, the
others go on; nothing else changes (R222). -/
def Branches (i : Instr) (g : Guard) (n : Nat) (target : Path → Thread → DWord) (link : Path → List RegWrite) : Prop :=
  ∀ s p s', s.path? = some (p, s') → ∃ t, exec i s = .next t ∧
    let go := fun (th : Thread) => if th.guard g then { put th (link p) with pc := target p th } else Ahead th n
    if p.ctl then CtlBecomes p s' t (go p.w.ctl) (if p.w.ctl.guard g then putS p.w.s (link p) else p.w.s)
    else LanesBecome p s' t fun _ th => go th

/-- The link of a call of n bytes: bits [33:2] of PC + n to a v register, PC + n to a k or s register. -/
def linkTo (lane ctl : BitVec 6) (n : Nat) (p : Path) : List RegWrite :=
  if p.ctl then p.wr ctl .ui64 ((p.pc + BitVec.ofNat 64 n).toNat : Int)
  else [.v lane.toNat (BitVec.ofNat 32 ((p.pc + BitVec.ofNat 64 n).toNat / 4))]

/-- What a trap or breakpoint with a code asks of the handler (R228, R401). -/
def asks (cause : Nat) (p : Path) (g : Guard) (code : BitVec 32) : TrapReq :=
  { cause := cause, sub := 0, code := code, info := if p.ctl then 0 else (held p g).setWidth 64, pc := p.pc, acc := 0
    mask := held p g }

/-- A program trap of n bytes: with its guard held somewhere, every lane of the path or the control thread stands at the next
instruction and the cause is raised; held nowhere, the instruction does nothing (R228). -/
def Traps (i : Instr) (cause : Nat) (g : Guard) (n : Nat) (code : BitVec 32) (s : State) (p : Path) (s' : State) : Prop :=
  ∃ t, exec i s = .next t ∧
    if held p g = 0 then Effect p s' t g n fun _ _ => []
    else if p.ctl then t = s'.raiseCtl { p.w with ctl := Ahead p.w.ctl n } (asks cause p g code)
    else LanesThen p t (fun _ th => Ahead th n) fun w => s'.raiseLane w p.grp (asks cause p g code)

/-- A lane at a barrier goes past its SYNCG (R225). -/
def past (th : Thread) : Thread :=
  match th.wait with | .barrier n => { Ahead th n with wait := .none } | _ => th

/-! ### The words of the statements about vector arithmetic -/

/-- A source of type T as it is decoded; under .FTZ a subnormal, whose exponent field is 0 and fraction not, is a zero of its
sign (R337, R339). -/
def source (ty : Ty) (ftz : Bool) (x : Nat) : XVal :=
  let g := fmtOfTy ty
  let y := x % 2 ^ tyWidth ty
  if ftz && y / 2 ^ g.fb % 2 ^ g.eb == 0 && y % 2 ^ g.fb != 0 then .fin (bitAt y (g.eb + g.fb)) 0 1 else decodeF g y

/-- Operand k after modifiers: the magnitude if bit 2k + 1 of Word 2 is set, then the negation if bit 2k is (R338). -/
def operand (f : LForm) (k : Nat) (ftz : Bool) (x : Nat) : XVal :=
  let v := source f.ty ftz x
  let v := if f.w2.getLsbD (2 * k + 1) then v.abs else v
  if f.w2.getLsbD (2 * k) then v.neg else v

/-- .FTZ of the rounding entries, M[3] (R339). -/
def ftz (f : LForm) : Bool := f.m.getLsbD 3

/-- Encode(T, x, M[1:0], M[3], M[2]) (R339). -/
def rounded (f : LForm) (ty : Ty) (x : XVal) : Nat := (encodeF (fmtOfTy ty) x (f.m.toNat % 4) (f.m.getLsbD 3) (f.m.getLsbD 2)).1

/-- The class bit of a code of type T (Table 12-3). -/
def classOf (ty : Ty) (x : Nat) : Nat :=
  let g := fmtOfTy ty
  let y := x % 2 ^ tyWidth ty
  match decodeF g y with
  | .nan => 8
  | .inf s => if s then 0 else 7
  | .fin s _ _ =>
    if y % 2 ^ (g.eb + g.fb) = 0 then (if s then 3 else 4)
    else if y / 2 ^ g.fb % 2 ^ g.eb = 0 then (if s then 2 else 5)
    else if s then 1 else 6

/-- The value FMINMAX chooses, −0 below +0 (R342). -/
def chosen (k : Nat) (a b : XVal) : XVal :=
  let less := fun (x y : XVal) => xlt x y || (x.isZero && y.isZero && x.isNeg && !y.isNeg)
  match a.isNan, b.isNan with
  | true, true => .nan
  | true, false => if 2 ≤ k then .nan else b
  | false, true => if 2 ≤ k then .nan else a
  | false, false => if k % 2 = 0 then (if less b a then b else a) else (if less a b then b else a)

/-- The types into which PACK and UNPACK convert floating-point values. -/
def packFloat (ty : Ty) : Bool := [Ty.f16, .bf16, .f8e4m3, .f8e5m2, .f4e2m1].any (· == ty)

/-- A thread of whose outstanding instruction the result x has been written and the others are left: no load up to it can be
made again (R253). -/
def lessOne (th : Thread) (tag : Nat) (x : RegWrite) : Thread :=
  { th.bindBefore tag with outs := (th.bindBefore tag).outs.map fun y =>
      if y.tag == tag then { y with writes := y.writes.erase x, reissue := none } else y }

/-- The effect of a transcendental of n bytes: with LA = 0 the result is written; otherwise each active lane has one more
instruction outstanding, with its result, and LA instructions may still issue before it (R201, R202, log 15). -/
def LongCompletes (i : Instr) (f : LForm) (n : Nat) (r : Path → Thread → Nat) : Prop :=
  ∀ s p s', s.path? = some (p, s') → p.ctl = false → ∃ t, exec i s = .next t ∧
    let ws := fun (th : Thread) => [RegWrite.v f.d.toNat (BitVec.ofNat 32 (r p th))]
    if f.la = 0 then LanesBecome p s' t fun _ th => Ahead (if th.guard f.g then put th (ws th) else th) n
    else LanesThen p t (fun _ th => Ahead (if th.guard f.g then { th with outs := th.outs ++
          [{ tag := s'.tags, left := f.la.toNat, ready := true, writes := ws th, owes := .nothing, reissue := none }] } else th) n)
        fun w => State.setWg { s' with tags := s'.tags + 1 } w

/-! ### The words of the statements about memory -/

/-- The path or control thread `p` of `s`, whose workgroups stand in their places; `s'` is the state after its uniform reads. -/
def Issues (s : State) (p : Path) (s' : State) : Prop := s.path? = some (p, s') ∧ WgsStand s

/-- No access of the workgroup is watched (R399), and no active lane has an open region (R293). -/
def Plain (p : Path) (f : LForm) : Prop :=
  p.w.csrs.watchctl.getLsbD 0 = false ∧ ∀ e ∈ p.active f.g, e.2.region = none

/-- Lanes act one after the other, in lane order; none if one of them cannot. -/
def eachLane {α : Type} (act : State → LaneOp → Option (α × State)) : List LaneOp → State → Option (List (Nat × α) × State)
  | [], s => some ([], s)
  | o :: os, s =>
    match act s o with
    | none => none
    | some (a, s) => (eachLane act os s).map fun r => ((o.lane, a) :: r.1, r.2)

/-- Where an aligned access of n bytes of a lane goes, when it may be made (R211, R282). -/
def placed (p : Path) (space ea n : Nat) (acc : Acc) (s : State) (l : Nat) : Option (Spot × State) :=
  if ea % n = 0 then
    match p.spot s l space ea n acc false with
    | (.ok x, s) => some (x, s)
    | _ => none
  else none

/-- A load of n bytes of every lane. -/
def loadsOf (mj : Major) (f : LForm) (p : Path) (n : Nat) : List LaneOp → State → Option (List (Nat × Nat) × State) :=
  eachLane fun s o => (placed p f.space (eaOf mj f o.a.toNat) n .read s o.lane).map fun x => (x.2.spotNat x.1 n, x.2)

/-- A store of the low n bytes of B of every lane. -/
def storesOf (mj : Major) (f : LForm) (p : Path) (n : Nat) : List LaneOp → State → Option (List (Nat × Unit) × State) :=
  eachLane fun s o => (placed p f.space (eaOf mj f o.a.toNat) n .write s o.lane).map fun x =>
    ((), x.2.spotWrite x.1 (bytesOf n o.b.toNat))

/-- Lanes act location by location, in the order of the lowest lane that names it; those of one location in lane order (R287). -/
def eachPlace {α : Type} (ea : LaneOp → Nat) (act : State → LaneOp → Option (α × State)) (os : List LaneOp) :
    State → Option (List (Nat × α) × State) :=
  eachLane act ((os.map ea).eraseDups.flatMap fun a => os.filter fun o => ea o == a)

/-- An atomic update of n bytes of every lane, `new` from the old value; the old values. -/
def updatesOf (mj : Major) (f : LForm) (p : Path) (n : Nat) (new : LaneOp → Nat → Nat) :
    List LaneOp → State → Option (List (Nat × Nat) × State) :=
  eachPlace (fun o => eaOf mj f o.a.toNat) fun s o => (placed p f.space (eaOf mj f o.a.toNat) n .atomic s o.lane).map fun x =>
    (x.2.spotNat x.1 n, x.2.spotWrite x.1 (bytesOf n (new o (x.2.spotNat x.1 n))))

/-- A compare and swap of n bytes of every lane; one that fails, though it must be allowed what an atomic is, makes a read only
(R257, R287). The old values. -/
def swapsOf (f : LForm) (p : Path) (n : Nat) : List LaneOp → State → Option (List (Nat × Nat) × State) :=
  eachPlace (fun o => eaOf .cas f o.a.toNat) fun s o =>
    (placed p f.space (eaOf .cas f o.a.toNat) n .atomic s o.lane).map fun x =>
      let m := x.2.spotNat x.1 n
      if m = o.b.toNat % 2 ^ tyWidth f.ty then (m, x.2.spotWrite x.1 (bytesOf n (o.c.toNat % 2 ^ tyWidth f.ty)))
      else (m, (p.spot s o.lane f.space (eaOf .cas f o.a.toNat) n .read false).2)

/-- The location of an address of SCADD after the addends of its lanes: their sum, taken in lane order, is added to the old value once
(R289). -/
def summed (ty : Ty) (m : Nat) : List Nat → Nat
  | [] => m
  | x :: xs => if ty = .f32 then fadd32 m (xs.foldl fadd32 x) else (m + (x :: xs).sum) % 2 ^ 32

/-- A thread that takes the results of a memory instruction: at once when LA = 0, otherwise when it completes (R201, log 15). -/
def gets (la tag : Nat) (again : Option MemReq) (ws : List RegWrite) (th : Thread) : Thread :=
  if la = 0 then put th ws
  else { th with outs := th.outs ++ [{ tag := tag, left := la, ready := true, writes := ws, owes := .nothing, reissue := again }] }

/-- A group whose accesses have all been performed waits for none of them (R79, R84). -/
def settled (w : Wg) (g : Nat) : Wg :=
  let x := w.group g
  if x.susp = .none ∨ x.susp = .replay then w.setGroup g { x with susp := .none, replay := none, pend := 0 } else w

/-- The end of a memory instruction whose every active lane has performed its access, which led to state `s`: each takes its
results `res`, every thread of the path goes on, and what `fin` makes of the state and the workgroup so changed is left; nothing else
changes. `bound` says that the loads which a thread has outstanding can no longer be made again (R253); `again` is the load that may
be. -/
def PerformedThen (p : Path) (s t : State) (f : LForm) (la : Nat) (bound : Bool) (again : Option MemReq)
    (res : List (Nat × List RegWrite)) (fin : State → Wg → State) : Prop :=
  let q := p.reload s
  let s1 := if la = 0 then s else { s with tags := s.tags + 1 }
  let got := fun (l : Nat) (th : Thread) =>
    match res.find? fun e => e.1 == l with | some e => gets la s.tags again e.2 (if bound then th.bindLoads else th) | none => th
  if p.ctl then
    ∃ lg n, t = fin s1 { q.w with
      ctl := Ahead (got 0 q.w.ctl) (codedLen false f), ctlSusp := .none, ctlReplay := none, sLog := lg, sSeq := n
      s := if la = 0 then putS q.w.s (res.flatMap (·.2)) else q.w.s }
  else LanesThen q t (fun l th => Ahead (got l th) (codedLen false f)) fun w => fin s1 (settled w p.grp)

/-- The same where nothing is left but that. -/
def Performed (p : Path) (s t : State) (f : LForm) (la : Nat) (bound : Bool) (again : Option MemReq)
    (res : List (Nat × List RegWrite)) : Prop := PerformedThen p s t f la bound again res State.setWg

/-- An access of n bytes at an address is watched, by the enable bit of its kind (R399, Table 14-7). -/
def watched (w : Wg) (kind ea n : Nat) : Prop :=
  let size := 2 ^ min (w.csrs.watchctl.toNat / 2 ^ 8 % 2 ^ 8) 40
  let lo := w.csrs.watcha.toNat % 2 ^ 57 / size * size
  w.csrs.watchctl.getLsbD 0 = true ∧ w.csrs.watchctl.getLsbD kind = true ∧ ∃ x, ea ≤ x ∧ x < ea + n ∧ lo ≤ x ∧ x < lo + size

/-- What WATCH does once the access has performed: with a debugger attached a lane path's group halts, otherwise the handler cause is
raised (R399). -/
def watchRaised (p : Path) (r : TrapReq) (s : State) (w : Wg) : State :=
  let x : Group := w.group p.grp
  if p.ctl then s.raiseCtl w r
  else if w.csrs.att then s.setWg (w.setGroup p.grp { x with halted := true, stepping := false })
  else s.raiseLane w p.grp r

/-- What the lanes of a plain access come to, one after the other: a value, or the cause that the lane meets. -/
def outcomesOf (p : Path) (mj : Major) (f : LForm) (n : Nat) (acc : Acc) (act : State → Spot → LaneOp → Nat × State) :
    List LaneOp → State → Option (List (LaneOp × Except Cause Nat) × State)
  | [], s => some ([], s)
  | o :: os, s =>
    let ea := eaOf mj f o.a.toNat
    let next := fun (x : Except Cause Nat) (s : State) => (outcomesOf p mj f n acc act os s).map fun r => ((o, x) :: r.1, r.2)
    if ea % n ≠ 0 then next (.error { code := 0x03, sub := 0, va := ea, lvl := 0, acc := acc.code }) s
    else match p.spot s o.lane f.space ea n acc false with
      | (.ok x, s) => let v := act s x o; next (.ok v.1) v.2
      | (.error (.cause c), s) => next (.error c) s
      | _ => none

/-- The results of lanes from their values. -/
def results {α : Type} (vs : List (Nat × α)) (g : α → List RegWrite) : List (Nat × List RegWrite) :=
  vs.map fun e => (e.1, g e.2)

/-- The level object's next value after an arrival of n (R299): FILL counts up, and each time it reaches TARGET a phase ends and PHC
counts. -/
def arrivedBy (v n : Nat) : Nat :=
  lvTarget v + (lvFill v + n) % lvTarget v * 2 ^ 32 + (lvPhc v + (lvFill v + n) / lvTarget v) % 2 ^ 32 * 2 ^ 64 + v / 2 ^ 96 * 2 ^ 96

/-- The level object's next value after one arrival more (R299): FILL counts up, and at TARGET becomes 0 while PHC counts. -/
def arrived (v : Nat) : Nat :=
  if lvFill v + 1 = lvTarget v then
    lvTarget v + (lvPhc v + 1) % 2 ^ 32 * 2 ^ 64 + v / 2 ^ 96 * 2 ^ 96
  else lvTarget v + (lvFill v + 1) * 2 ^ 32 + lvPhc v * 2 ^ 64 + v / 2 ^ 96 * 2 ^ 96

/-! ### The words of the statements about the matrix unit -/

/-- The rows of the matrix and attention instructions, with their majors. -/
def matrixRows (f : LForm) : List (Instr × Major) :=
  [(.mxzero f, .mxzero), (.plane f, .plane), (.mxmul f, .mxmul), (.mxspm f, .mxspm), (.mxepi f, .mxepi), (.mxstore f, .mxstore),
   (.mxldacc f, .mxldacc), (.mxscaleAlpha f, .mxscale), (.mxscaleFinal f, .mxscale), (.clmerge f, .clmerge), (.slope f, .slope)]

/-- An offset lies in the segment of FIFO k, which is enabled (R170). -/
def inSegment (w : Wg) (k x : Nat) : Prop :=
  w.csrs.fifocfg.getLsbD (16 * k + 15) = true ∧ w.csrs.fifocfg.toNat / 2 ^ (16 * k) % 2 ^ 6 = x / 65536

/-- An offset lies in the segment of an enabled FIFO. -/
def inFifo (w : Wg) (x : Nat) : Prop := inSegment w 0 x ∨ inSegment w 1 x

/-- A range lies in the workgroup's allocation and touches no enabled FIFO segment (R363 item 4). -/
def freeRange (w : Wg) (off n : Nat) : Prop := off + n ≤ 4096 * w.id.scr ∧ ∀ x, off ≤ x → x < off + n → ¬ inFifo w x

/-- The conditions that R310, R312 and R318 put on a descriptor's format. -/
def formatGood (d : Desc) : Prop :=
  (d.fmt ≤ 0x0A ∨ 0x10 ≤ d.fmt ∧ d.fmt ≤ 0x14 ∨ 0x20 ≤ d.fmt ∧ d.fmt ≤ 0x2F) ∧ (d.ew = 4 → d.ext 0 % 2 = 0) ∧
  (0x10 ≤ d.fmt → d.fmt ≤ 0x14 → d.ext 0 % 8 = 0 ∧ (8 ≤ d.ew → d.str 0 = (d.ew / 8 : Nat)) ∧
    ∀ j, 1 ≤ j → j < 8 → d.str j % (d.ew : Int) = 0)

/-- The bits of an address in a descriptor's space, and its BASE and LIMIT in them. -/
def spaceBits (d : Desc) : Nat := if d.sp then 32 else 64

/-- A coordinate after WRAP (R286). -/
def wrapped (d : Desc) (c : Nat → Int) (j : Nat) : Int := if d.wrap j then c j % (d.ext j : Int) else c j

/-- The byte offset of an element from BASE, 4-bit elements two to a byte along dimension 0 (R286, R312). -/
def elementOff (d : Desc) (x : Nat → Int) : Int :=
  ((List.range d.ndim).map fun j => if j = 0 ∧ d.ew = 4 then x 0 / 2 else x j * d.str j).sum

/-- The address of an element, modulo the space (R286). -/
def elementAt (d : Desc) (c : Nat → Int) : Nat :=
  (((d.base : Int) + elementOff d (wrapped d c)) % (2 ^ spaceBits d : Nat)).toNat

/-- The address of the scale byte of an element's block (R318). -/
def scaleAt (d : Desc) (c : Nat → Int) : Nat :=
  let first := fun (j : Nat) => if j = 0 then wrapped d c 0 / 8 * 8 else wrapped d c j
  (d.scaleb + (elementOff d first % (2 ^ spaceBits d : Nat)).toNat / d.ew) % 2 ^ spaceBits d

/-- Coordinates over a descriptor's dimensions, after WRAP, are in bounds and address an element within BASE to LIMIT (R286). -/
def elementIn (d : Desc) (c : Nat → Int) : Prop :=
  (∀ j, j < d.ndim → 0 ≤ wrapped d c j ∧ wrapped d c j < (d.ext j : Int)) ∧
  d.base % 2 ^ spaceBits d ≤ elementAt d c ∧ elementAt d c + max 1 (d.ew / 8) ≤ d.limit % 2 ^ spaceBits d

/-- Element (u, v) of a matrix operation's box, its other coordinates 0, is in bounds (R363 item 3). -/
def boxElement (d : Desc) (u v : Int) : Prop :=
  (d.ndim = 1 → v = 0) ∧ elementIn d fun j => if j = 0 then u else if j = 1 then v else 0

/-- The workgroup holds the tiles that an instruction names, and a CLMERGE's PM the issuer's core (R363 item 1). -/
def tilesHeld (w : Wg) (mj : Major) (f : LForm) (a : Nat) : Prop :=
  let holds := fun (t : Nat) => w.csrs.accmask.getLsbD (16 * (f.f.toNat % 4) + t) = true
  (mj = .mxzero → ∀ t, t < 16 → f.w2.getLsbD t = true → holds t) ∧
  (mj ∈ [.mxmul, .mxspm, .mxepi, .mxstore, .mxldacc, .mxscale, .clmerge] → holds (f.w2.toNat % 16)) ∧
  (mj = .clmerge → a.testBit (32 + w.id.core % 4) = true)

/-- An instruction reads its descriptor: MXSTORE and MXLDACC of an empty box do not (R366). -/
def readsIt (mj : Major) (a : Nat) : Prop :=
  mj ∈ [.plane, .mxmul, .mxspm] ∨ mj ∈ [.mxstore, .mxldacc] ∧ a % 2 ^ 7 ≠ 0 ∧ a / 2 ^ 8 % 2 ^ 7 ≠ 0

/-- A descriptor has the right, the format and the form that an instruction asks (R363 item 2, R366, R368, R369). -/
def rightsHeld (mj : Major) (d : Desc) : Prop :=
  formatGood d ∧ (if mj = .mxstore then d.wr else d.rd) = true ∧
  (mj ∈ [.plane, .mxmul, .mxspm] → d.fmt ≠ 0x0A ∧ d.fmt < 0x20) ∧
  (mj ∈ [.mxstore, .mxldacc] → d.fmt ≤ 7 ∨ d.fmt = 9 ∨ 0x10 ≤ d.fmt ∧ d.fmt ≤ 0x14 ∨ mj = .mxldacc ∧ d.fmt = 8)

/-- The shape fields are those of Table 13-3. -/
def shapeGood (mj : Major) (a : Nat) : Prop :=
  let (kl, n) := (a / 2 ^ 32 % 2 ^ 16, a / 2 ^ 48 % 2 ^ 7)
  (mj = .plane → kl % 8 = 0 ∧ 8 ≤ kl ∧ kl ≤ 16384 ∧ 1 ≤ n ∧ n ≤ 64) ∧
  (mj ∈ [.mxmul, .mxspm] → kl % 64 = 0 ∧ 64 ≤ kl ∧ kl ≤ 16384 ∧ 1 ≤ n ∧ n ≤ 64) ∧
  (mj = .mxepi → a / 2 ^ 32 % 2 ^ 7 ≤ 64) ∧
  (mj ∈ [.mxstore, .mxldacc] → a % 2 ^ 7 ≤ 64 ∧ a / 2 ^ 8 % 2 ^ 7 ≤ 64)

/-- Every element of an operation's box is in bounds; of an MXSTORE to a block-scaled format the first column and the columns are
multiples of 8 (R363 item 3, R366, R370). -/
def boxGood (mj : Major) (f : LForm) (d : Desc) (a b : Nat) : Prop :=
  let kl := a / 2 ^ 32 % 2 ^ 16
  let moved := mj = .mxstore ∨ mj = .mxldacc
  let cols := if moved then a / 2 ^ 8 % 2 ^ 7 else if mj = .mxspm then kl / 64 * (if f.f.getLsbD 2 then 16 else 32) else kl
  let rows := if moved then a % 2 ^ 7 else a / 2 ^ 48 % 2 ^ 7
  (∀ r k : Nat, r < rows → k < cols → boxElement d (sx 32 b + k) (sx 32 (b / 2 ^ 32) + r)) ∧
  (mj = .mxstore → 0x10 ≤ d.fmt → d.fmt ≤ 0x14 → sx 32 b % 8 = 0 ∧ cols % 8 = 0)

/-- A number of n bytes in a scratchpad. -/
def spNat (c : Cells 8) (off n : Nat) : Nat := ofBytes ((List.range n).map fun i => cellGet c (off + i))

/-- The reader counter that an operation of the control thread holds (R116). -/
def parityOf (p : Path) : Option Nat := if p.w.ctl.rdepth = 0 then none else some p.w.ctl.rpar

/-- The workgroup of a control thread that has issued an instruction of n bytes and has one engine operation more in flight. -/
def oneMoreOp (p : Path) (n : Nat) : Wg := { p.w with ctl := Ahead p.w.ctl n, engOps := p.w.engOps + 1 }

/-- The reader counts of core `c` are those of `s`, one higher where the operation holds one (R116). -/
def countHeld (p : Path) (s t : State) : Prop :=
  let a := s.core p.w.id.core
  let b := t.core p.w.id.core
  match parityOf p with
  | none => b.c0 = a.c0 ∧ b.c1 = a.c1
  | some q => if q = 0 then b.c0 = a.c0 + 1 ∧ b.c1 = a.c1 else b.c0 = a.c0 ∧ b.c1 = a.c1 + 1

/-- Element (r, c) of tile t of a quarter of a core (R356). -/
def tileAt (s : State) (core q t r c : Nat) : Nat := (s.core core).tile q t r c

/-- The oldest operation of a quarter is `op`, of a workgroup that stands, nothing stops it, and the rest of the queue is `ops`. -/
def Oldest (s : State) (core q : Nat) (op : MxOp) (ops : List MxOp) (w : Wg) : Prop :=
  s.queue core q = op :: ops ∧ Stands s core op.slot w ∧ WgsStand s ∧ op.stop = .none ∧ op.joined = false ∧ op.next = 0

/-- The operation has left the quarter's queue, and the workgroup has one operation less in flight. -/
def Ended (s t : State) (core q : Nat) (op : MxOp) (ops : List MxOp) (w : Wg) : Prop :=
  t.queue core q = ops ∧ (∃ w', t.wg? core op.slot = some w' ∧ w'.engOps = w.engOps - 1 ∧ w'.lanes = w.lanes ∧ w'.ctl = w.ctl) ∧
  t.parts = s.parts

/-- The same of an operation that changes no memory. -/
def Finished (s t : State) (core q : Nat) (op : MxOp) (ops : List MxOp) (w : Wg) : Prop := Ended s t core q op ops w ∧ t.mem = s.mem

/-- Tile t of quarter q of a core is `g`, and every other tile of it as before. -/
def TileBecomes (s t : State) (core q j : Nat) (g : Nat → Nat → Nat) : Prop :=
  ∀ k i r c, k < 4 → i < 16 → r < 64 → c < 64 → tileAt t core k i r c = if k = q ∧ i = j then g r c else tileAt s core k i r c

/-- The scratchpad bytes from `lo` to `hi` apart, a scratchpad is as another. -/
def KeptOutside (a b : Cells 8) (lo hi : Nat) : Prop := ∀ x, x < lo ∨ hi ≤ x → cellGet b x = cellGet a x

/-- Elements x to x + n − 1 of row r of an operation's box (R363). -/
def boxRow (op : MxOp) (n x r : Nat) : List (List Nat) :=
  (List.range n).filterMap fun i => op.desc.boxAt (sx 32 op.b.toNat + ((x + i : Nat) : Int)) (sx 32 (op.b.toNat / 2 ^ 32) + ((r : Nat) : Int))

/-- The elements of a descriptor can be read, as `vs`, and it changes nothing, whatever the cores hold and whatever the workgroup's
scratchpad holds but for the bytes named. -/
def Readable (s : State) (core slot : Nat) (w : Wg) (same : Nat → Prop) (d : Desc) (cs : List (List Nat)) (vs : List XVal) : Prop :=
  ∀ ks ws w', let x := { s with cores := ks, wgs := ws }
    x.wg? core slot = some w' → w'.id = w.id → w'.csrs = w.csrs → (∀ a, same a → cellGet w'.scratch a = cellGet w.scratch a) →
    x.elementVals w.id d cs = (.ok vs, x)

/-- Counting an encode on behalf of a descriptor writes no statistics block to memory (R334). -/
def NoFlush (w : Wg) (d : Desc) : Prop :=
  d.stata = 0 ∨ w.stats.length < 16 ∧ ∀ x ∈ w.stats, x.id = d.id → x.addr = BitVec.ofNat 64 d.stata

/-- Row r of K-block j of a panel at PO of precision p holds a block: its header, and bit k of element i in plane k (R362). -/
def panelHolds (c : Cells 8) (po p j r : Nat) (b : PlaneBlock) : Prop :=
  let base := po + j * (256 + 64 * p)
  spNat c (base + 4 * r) 4 = b.header % 2 ^ 32 ∧
  ∀ k i, k < p → i < 8 → (cellGet c (base + 256 + 64 * k + r)).getLsbD i = bitAt (wrapN 16 (nthD 0 b.ms i)) k

/-- The codes, the scale bytes with the place of each block, and the counts of a row of values in a descriptor's format (R327,
R329, R333). -/
def rowCodes (d : Desc) (vs : List XVal) : List Nat × List (Nat × Nat) × Counts :=
  if fmtBlock d.fmt then
    let bs := (List.range (vs.length / 8)).map fun k => (8 * k, encodeBlock d.fmt ((vs.drop (8 * k)).take 8) d.rm d.ftz d.satm)
    (bs.flatMap (·.2.2.1), bs.map fun b => (b.1, b.2.1), (bs.map (·.2.2.2)).foldl Counts.add .zero)
  else
    let es := vs.map fun v => encodeEl d.fmt v d.rm d.ftz d.satm
    (es.map (·.1), [], (es.map (·.2)).foldl Counts.add .zero)

/-- A row of elements is written, scale bytes first; none where an access stops. -/
def rowWritten (s : State) (core slot : Nat) (w : WgId) (d : Desc) (cs : List (List Nat)) (vs : List XVal) : Option State :=
  match (rowCodes d vs).2.1.foldl (fun a e => a.bind fun s =>
      match s.engWrite w d.sp (d.scaleAddr (nthD [] cs e.1)) [BitVec.ofNat 8 e.2] with | (.ok _, s) => some s | _ => none) (some s) with
  | none => none
  | some s => match s.setElements w d (cs.zip (rowCodes d vs).1) with
    | (.ok _, s) => some (s.countStats core slot d (rowCodes d vs).2.2)
    | _ => none

/-- 2 to an integer power. -/
def twoPow (k : Int) : Rat := if 0 ≤ k then ((2 ^ k.toNat : Nat) : Rat) else 1 / ((2 ^ (-k).toNat : Nat) : Rat)

/-- The number that a finite value is. -/
def ratOf : XVal → Rat
  | .fin s n d => (if s then -1 else 1) * ((n : Rat) / (d : Rat))
  | _ => 0

/-- A value is written with a denominator that is not 0. -/
def Proper (v : XVal) : Prop := ∀ s n d, v = .fin s n d → 0 < d

/-- The integer nearest to a number, the even one of two (R326). -/
def nearestEven (x : Rat) (m : Int) : Prop :=
  -1 ≤ 2 * (x - m) ∧ 2 * (x - m) ≤ 1 ∧ (2 * (x - m) = 1 ∨ 2 * (x - m) = -1 → m % 2 = 0)

/-- floor(log2) of the greatest magnitude of the finite values. -/
def topExp (vs : List XVal) (e : Int) : Prop :=
  let mag := fun (v : XVal) => if ratOf v < 0 then -ratOf v else ratOf v
  (∃ v ∈ vs, v.isFin = true ∧ twoPow e ≤ mag v) ∧ ∀ v ∈ vs, v.isFin = true → mag v < twoPow (e + 1)

/-- Every finite value is 0. -/
def allZero (vs : List XVal) : Prop := ∀ v ∈ vs, v.isFin = true → ratOf v = 0

/-- Some finite value times 2^k rounds to m. -/
def someRounds (vs : List XVal) (k : Int) (m : Int) : Prop := ∃ v ∈ vs, v.isFin = true ∧ nearestEven (ratOf v * twoPow k) m

/-- The greatest of F32 codes. -/
def greatest (m : Nat) (xs : List Nat) : Prop := m ∈ xs ∧ ∀ x ∈ xs, xlt (dec32 m) (dec32 x) = false

/-- 2 to the difference of two codes as R373 and R375 encode it, 0 of −∞. -/
def expTo (x m : Nat) : Nat := if x = 0xFF800000 then 0 else enc32 (exp2Val (xadd 0 (dec32 x) (dec32 m).neg))

/-- What MXEPI makes of a row's old M and L and its scores z: the new M, L, ALPHA and probabilities. Of an old M of +∞ the
exponentials are open (R373; log 20). -/
def epiRowIs (mo lo : Nat) (masked : Nat → Prop) (z : Nat → Nat) (m l al : Nat) (ps : Nat → Nat) : Prop :=
  let bad := (dec32 mo).isNan = true ∨ ∃ c, c < 64 ∧ ¬ masked c ∧ ((dec32 (z c)).isNan = true ∨ z c = 0x7F800000)
  (bad → m = 0x7FC00000 ∧ l = 0x7FC00000 ∧ al = 0x7FC00000 ∧ ∀ c, c < 64 → ps c = 0x7FC00000) ∧
  (¬ bad → greatest m (mo :: (List.range 64).map z) ∧
    (m = 0xFF800000 → l = (if (dec32 lo).isNan then 0x7FC00000 else lo) ∧ al = 0x3F800000 ∧ ∀ c, c < 64 → ps c = 0) ∧
    (m ≠ 0xFF800000 → m ≠ 0x7F800000 → al = expTo mo m ∧ (∀ c, c < 64 → ps c = expTo (z c) m) ∧
      l = enc32 (xadd 0 (xmul (dec32 lo) (dec32 al)) (xsum 0 ((List.range 64).map fun c => dec32 (ps c))))))

/-- What CLMERGE makes of the participants' M, L and rows: the merged M, L, ALPHA and row. Of a greatest M of +∞ the
exponentials are open (R375; log 20). -/
def mergeRowIs (ms : List (Nat × Nat × (Nat → Nat))) (m l al : Nat) (o : Nat → Nat) : Prop :=
  let sum := fun (g : Nat × Nat × (Nat → Nat) → Nat) => enc32 (xsum 0 (ms.map fun e => xmul (dec32 (expTo e.1 m)) (dec32 (g e))))
  ((∃ e ∈ ms, (dec32 e.1).isNan = true) →
    m = 0x7FC00000 ∧ l = 0x7FC00000 ∧ al = 0x7FC00000 ∧ ∀ c, c < 64 → o c = 0x7FC00000) ∧
  ((∀ e ∈ ms, (dec32 e.1).isNan = false) → greatest m (0xFF800000 :: ms.map (·.1)) ∧ al = 0x3F800000 ∧
    (m = 0xFF800000 → l = 0 ∧ ∀ c, c < 64 → o c = 0) ∧
    (m ≠ 0xFF800000 → m ≠ 0x7F800000 → l = sum (fun e => e.2.1) ∧ ∀ c, c < 64 → o c = sum fun e => e.2.2 c))

/-! ### The words of the statements about the engines -/

/-- Bytes that an access of n bytes takes. -/
def elBytes (d : Desc) : Nat := d.ew / 8

/-- The source bits of element e of a copy within a scratchpad of `scr` blocks whose bytes are `c`: none where an address lies
outside, `some none` for the absent row of a gather (R384). -/
def copySource (op : CopyOp) (scr : Nat) (c : Cells 8) (e : Nat) : Option (Option Nat) :=
  let at_ := cmIdxa op.cmd + 4 * cmCoord op.cmd e (cmIdim op.cmd)
  let ix := spNat c at_ 4
  if op.gather = true ∧ 4096 * scr < at_ + 4 then none
  else if op.gather = true ∧ ix = 0xFFFFFFFF then some none
  else
    ((op.src.coords (cmSrc op.cmd op.gather e (if op.gather then sx 32 ix else 0))).bind (op.src.addrOf true)).bind fun ea =>
      if ea + elBytes op.src ≤ 4096 * scr then some (some (spNat c ea (elBytes op.src))) else none

/-- The code written for an element: its own bits when both formats agree, otherwise its value encoded (R384). -/
def copyCode (op : CopyOp) (x : Option Nat) : Nat :=
  if op.src.fmt = op.dst.fmt then x.getD (encodeEl (fmtBase op.dst.fmt) xzero 0 false false).1
  else (encodeEl op.dst.fmt ((x.map (op.src.decode 127)).getD xzero) op.dst.rm op.dst.ftz op.dst.satm).1

/-- The scratchpad after the first n elements, element e going to `dst e`. -/
def copiedUpTo (op : CopyOp) (w : Wg) (dst : Nat → Nat) : Nat → Cells 8
  | 0 => w.scratch
  | e + 1 =>
    let c := copiedUpTo op w dst e
    scratchWrite c (dst e) (bytesOf (elBytes op.dst) (copyCode op ((copySource op w.id.scr c e).getD none)))

/-- The box of a copy command (Table 14-4), 1 on the dimensions at or above its NDIM, and its origins, 0 there. -/
def boxOf (c : BitVec 1024) (j : Nat) : Nat := if j < c.toNat / 2 ^ 32 % 2 ^ 4 then c.toNat / 2 ^ (32 * j + 640) % 2 ^ 32 else 1
def originOf (c : BitVec 1024) (lo j : Nat) : Int :=
  if j < c.toNat / 2 ^ 32 % 2 ^ 4 then sx 32 (c.toNat / 2 ^ (32 * j + lo)) else 0

/-- Coordinates lie in the box. -/
def inBox (c : BitVec 1024) (k : Nat → Nat) : Prop := ∀ j, j < 8 → k j < boxOf c j

/-- The coordinates of a place of the box in the source (lo = 128) or the destination (lo = 384). -/
def placeOf (c : BitVec 1024) (lo : Nat) (k : Nat → Nat) (j : Nat) : Int := originOf c lo j + (k j : Int)

/-- R383 item 1. -/
def commandGood (w : Wg) (c : BitVec 1024) : Prop :=
  c.toNat / 2 ^ 960 = 0 ∧ c.toNat / 2 ^ 47 % 2 ^ 17 = 0 ∧ c.getLsbD 43 = false ∧ 1 ≤ c.toNat / 2 ^ 32 % 2 ^ 4 ∧
  c.toNat / 2 ^ 32 % 2 ^ 4 ≤ 8 ∧ (c.getLsbD 41 = true → w.id.quartet = true ∧ c.toNat / 2 ^ 36 % 2 ^ 4 ≠ 0)

/-- R383 item 2. -/
def copyAllowed (c : BitVec 1024) (sd dd : Desc) : Prop :=
  sd.rd = true ∧ dd.wr = true ∧ sd.fmt < 0x20 ∧ dd.fmt < 0x20 ∧ formatGood sd ∧ formatGood dd ∧
  (sd.fmt ≠ dd.fmt → sd.fmt ≠ 0x0A ∧ dd.fmt ≠ 0x0A ∧ dd.fmt ≠ 0x08) ∧ (c.getLsbD 41 = true → dd.sp = true)

/-- A gather's index decides the source address. -/
def byIndex (c : BitVec 1024) (gather : Bool) (sd : Desc) : Prop := gather = true ∧ c.toNat / 2 ^ 44 % 2 ^ 3 < sd.ndim

/-- The multiple that a descriptor's format asks of BOX0 and its origin (log 42). -/
def grainOf (d : Desc) : Nat := if 0x10 ≤ d.fmt ∧ d.fmt ≤ 0x14 then 8 else if d.ew = 4 then 2 else 1

/-- R383 item 3. -/
def copyInside (c : BitVec 1024) (gather : Bool) (sd dd : Desc) : Prop :=
  (∀ j, j < 8 → boxOf c j ≠ 0) ∧ ((List.range 8).map (boxOf c)).prod ≤ 2 ^ 40 ∧
  boxOf c 0 % grainOf sd = 0 ∧ boxOf c 0 % grainOf dd = 0 ∧
  originOf c 128 0 % (grainOf sd : Int) = 0 ∧ originOf c 384 0 % (grainOf dd : Int) = 0 ∧
  ∀ k, inBox c k → elementIn dd (placeOf c 384 k) ∧
    (¬ byIndex c gather sd → elementIn sd (placeOf c 128 k)) ∧
    (byIndex c gather sd → ∀ j, j < sd.ndim → j ≠ c.toNat / 2 ^ 44 % 2 ^ 3 →
      0 ≤ wrapped sd (placeOf c 128 k) j ∧ wrapped sd (placeOf c 128 k) j < (sd.ext j : Int))

/-- Some source element of a scratchpad, or its scale byte, may not be read (R383 item 4). -/
def sourceBad (w : Wg) (c : BitVec 1024) (gather : Bool) (sd : Desc) : Prop :=
  sd.sp = true ∧ ¬ byIndex c gather sd ∧ ∃ k, inBox c k ∧
    (¬ freeRange w (elementAt sd (placeOf c 128 k)) (max 1 (sd.ew / 8)) ∨
      0x10 ≤ sd.fmt ∧ sd.fmt ≤ 0x14 ∧ ¬ freeRange w (scaleAt sd (placeOf c 128 k)) 1)

/-- Some destination element of a scratchpad, or its scale byte, may not be written: an element may lie in a FIFO segment, as a whole
(R172, R383 item 4; for scale bytes log 110). -/
def targetBad (w : Wg) (c : BitVec 1024) (dd : Desc) : Prop :=
  dd.sp = true ∧ ∃ k, inBox c k ∧
    let (ea, n) := (elementAt dd (placeOf c 384 k), max 1 (dd.ew / 8))
    (4096 * w.id.scr < ea + n ∨ (∃ q x y, q < 2 ∧ ea ≤ x ∧ x < ea + n ∧ ea ≤ y ∧ y < ea + n ∧ inSegment w q x ∧ ¬ inSegment w q y) ∨
      0x10 ≤ dd.fmt ∧ dd.fmt ≤ 0x14 ∧ ¬ freeRange w (scaleAt dd (placeOf c 384 k)) 1)

/-- The bits and the scale byte of source element e of a copy within a scratchpad of `scr` blocks whose bytes are `c`, in any format:
none where an address lies outside, `some none` for the absent row of a gather (R312, R318, R384). -/
def copyOrigin (op : CopyOp) (scr : Nat) (c : Cells 8) (e : Nat) : Option (Option (Nat × Nat)) :=
  let d := op.src
  let at_ := cmIdxa op.cmd + 4 * cmCoord op.cmd e (cmIdim op.cmd)
  let ix := spNat c at_ 4
  if op.gather = true ∧ 4096 * scr < at_ + 4 then none
  else if op.gather = true ∧ ix = 0xFFFFFFFF then some none
  else (d.coords (cmSrc op.cmd op.gather e (if op.gather then sx 32 ix else 0))).bind fun cs => (d.addrOf true cs).bind fun ea =>
    if 4096 * scr < ea + max 1 (d.ew / 8) ∨ (fmtBlock d.fmt = true ∧ 4096 * scr ≤ d.scaleAddr cs) then none
    else some (some (if d.ew = 4 then spNat c ea 1 / 16 ^ (nthD 0 cs 0 % 2) % 16 else spNat c ea (d.ew / 8),
      if fmtBlock d.fmt then spNat c (d.scaleAddr cs) 1 else 127))

/-- The elements of one transfer: a block into which the values are converted, else one (R329; log 110). -/
def transferOf (op : CopyOp) : Nat := if fmtBlock op.dst.fmt = true ∧ op.src.fmt ≠ op.dst.fmt then 8 else 1

/-- A scratchpad once the transfer that begins with element e is made (R312, R318, R327, R329, R384): a bit copy writes the element's
bits, and the scale byte with the first of a block or along a gathered dimension 0; a conversion its value's code, into a block
format eight codes and their scale byte; of an absent row +0. -/
def transferred (op : CopyOp) (scr : Nat) (c : Cells 8) (e : Nat) : Cells 8 :=
  let d := op.dst
  let cs := (d.coords (cmDst op.cmd e)).getD []
  let ea := (d.addrOf true cs).getD 0
  let x := fun (i : Nat) => (copyOrigin op scr c (e + i)).getD none
  let val := fun (i : Nat) => match x i with | some y => op.src.decode y.2 y.1 | none => xzero
  let scaled := fun (k : Nat) => scratchWrite c (d.scaleAddr cs) (bytesOf 1 k)
  let put := fun (code : Nat) (c : Cells 8) =>
    let old := spNat c ea 1
    if d.ew = 4 then scratchWrite c ea (bytesOf 1 (if nthD 0 cs 0 % 2 = 0 then old / 16 * 16 + code % 16 else old % 16 + code % 16 * 16))
    else scratchWrite c ea (bytesOf (d.ew / 8) code)
  let nought := (encodeEl (fmtBase d.fmt) xzero 0 false false).1
  if transferOf op = 8 then
    let b := encodeBlock d.fmt ((List.range 8).map val) d.rm d.ftz d.satm
    scratchWrite (scaled b.1) ea (bytesOf d.ew ((List.range 8).map fun i => nthD 0 b.2.1 i % 2 ^ d.ew * 2 ^ (d.ew * i)).sum)
  else match x 0 with
    | some y =>
      if op.src.fmt = d.fmt then
        put y.1 (if fmtBlock d.fmt = true ∧ (e % 8 = 0 ∨ op.gather = true ∧ cmIdim op.cmd = 0) then scaled y.2 else c)
      else put (encodeEl d.fmt (val 0) d.rm d.ftz d.satm).1 c
    | none => put nought (if fmtBlock d.fmt = true ∧ e % 8 = 0 then scaled (encodeBlock d.fmt (List.replicate 8 xzero) 0 false false).1 else c)

/-- The rows of the copy instructions, with their majors. -/
def copyRows (f : LForm) : List (Instr × Major × Bool) := [(.cpy f, .cpy, false), (.cpyg f, .cpyg, true)]

/-- The rows that ask a pool engine, and RETIRE. -/
def requestRows (f : LForm) : List (Instr × Major) :=
  [(.balloc f, .balloc), (.bfreeRel f, .bfree), (.bfreeAddref f, .bfree), (.sqopCreate f, .sqop), (.sqopAppend f, .sqop),
   (.sqopXlate f, .sqop), (.sqopFork f, .sqop), (.sqopTrim f, .sqop), (.sqopDrop f, .sqop), (.retire f, .retire)]

/-- The one request that an instance of the pool engines has is `r`, and its control thread, which waits for it, stands. -/
def Sole (s : State) (inst : Nat) (r : EngineReq) (w : Wg) : Prop :=
  (s.engines.filter fun x => isPoolReq x && s.instanceOf x == inst) = [r] ∧ Stands s r.core r.slot w ∧ WgsStand s ∧
  (w.ctl.outs.any fun o => o.tag == r.tag) = true

/-- A thread once the results of an outstanding instruction are known: none or one register is written at once, and more wait
for LONG_LATENCY_COMPLETE, which may write them one by one (R203). -/
def answered (th : Thread) (tag : Nat) (ws : List RegWrite) : Thread :=
  if ws.length ≤ 1 then put (th.dropOut tag) ws else th.hear tag ws

/-- The request `r` of `s` is answered in `t`: it is gone, its instruction has its results `ws`, written at once if they are no
more than one register's, its workgroup has one operation less in flight, and the reader count it held is given back. -/
def Answered (s t : State) (r : EngineReq) (w : Wg) (ws : List RegWrite) : Prop :=
  t.engines = s.engines.filter (fun x => x.tag != r.tag) ∧
  (∃ w', t.wg? r.core r.slot = some w' ∧ w'.engOps = w.engOps - 1 ∧ w'.lanes = w.lanes ∧ w'.groups = w.groups ∧
    w'.csrs = w.csrs ∧ w'.scratch = w.scratch ∧ w'.s = (if ws.length ≤ 1 then putS w.s ws else w.s) ∧
    w'.ctl = answered w.ctl r.tag ws) ∧
  match r.parity with
  | none => (t.core r.core).c0 = (s.core r.core).c0 ∧ (t.core r.core).c1 = (s.core r.core).c1
  | some q =>
    if q = 0 then (t.core r.core).c0 = (s.core r.core).c0 - 1 ∧ (t.core r.core).c1 = (s.core r.core).c1
    else (t.core r.core).c0 = (s.core r.core).c0 ∧ (t.core r.core).c1 = (s.core r.core).c1 - 1

/-- The pool operation that is the one request of an instance completes, answered with `ws`, and what holds then. -/
def PoolStep (s : State) (inst : Nat) (r : EngineReq) (w : Wg) (ws : List RegWrite) (post : State → Prop) : Prop :=
  ∃ t, exec (.poolEngineOperation inst) s = .next t ∧ Answered s t r w ws ∧ post t

/-- Block b of a pool has count n now; every other count is as in x. -/
def CountsWith (x y : Pool) (b n : Nat) : Prop := ∀ c, y.count c = if c = b then n else x.count c

/-- The table numbers of data block bi of a sequence, as a reading of a number gives them: the leaf, and the block. -/
def tableVia (rd : Nat → Nat) (mp : Pool) (e : Handle) (bi : Nat) : Nat × Nat :=
  let leaf := rd (mp.pbase + e.root * 2 ^ mp.bshift + 4 * (bi / 1024))
  (leaf, rd (mp.pbase + leaf * 2 ^ mp.bshift + 4 * (bi % 1024)))

/-- The table numbers that the engine reads: one that meets an uncorrectable error reads as 0xFFFF_FFFF (log 111). -/
def tableBlock (s : State) (mp : Pool) (e : Handle) (bi : Nat) : Nat × Nat :=
  tableVia (fun a => if (s.eccSub a 4 true).isSome then 0xFFFFFFFF else s.phys a 4) mp e bi

/-- The table numbers that stand in memory. -/
def tableStands (s : State) (mp : Pool) (e : Handle) (bi : Nat) : Nat × Nat := tableVia (fun a => s.phys a 4) mp e bi

/-- What every pool that R96 to R100 make keeps: its free blocks are distinct blocks of it with count 0. -/
def PoolKeeps (x : Pool) : Prop := x.nblk < 2 ^ 32 ∧ x.free.Nodup ∧ ∀ b ∈ x.free, b < x.nblk ∧ x.count b = 0

/-- Two pools do not share physical memory. -/
def PoolsApart (x y : Pool) : Prop :=
  x.pbase + x.nblk * 2 ^ x.bshift ≤ y.pbase ∨ y.pbase + y.nblk * 2 ^ y.bshift ≤ x.pbase

/-- A FORK to n positions of entry e (R107): the blocks it reads, in order, and how many of them it shares. -/
def forkBlocks (s : State) (x mp : Pool) (e : Handle) (n : Nat) : List (Nat × Nat) :=
  (List.range (ceilDiv n (2 ^ (x.bshift - e.tshift)))).map (tableBlock s mp e)
def forkShared (x : Pool) (e : Handle) (n : Nat) : Nat := n / 2 ^ (x.bshift - e.tshift)

/-- The count of data block b once the n positions are shared. -/
def forkCount (s : State) (x mp : Pool) (e : Handle) (n b : Nat) : Nat :=
  x.count b + ((forkBlocks s x mp e n).take (forkShared x e n)).countP fun z => z.2 == b

/-- The sequence that a FORK to n positions makes from entry e under handle h: LIVE, of length n, owned by the issuing context
(log 103); its first blocks those of e, each with its count one higher; the block that it has in part a copy in a block that
was free; entry e as it was. -/
def Forked (s t : State) (r : EngineReq) (x mp : Pool) (i : Nat) (e : Handle) (n h : Nat) : Prop :=
  ∃ j e' y, t.handleEntry r.pid h = some (j, e') ∧ j ≠ i ∧ t.handle? r.pid i = some e ∧ e'.state = 1 ∧ e'.len = n ∧
    e'.nsb = (forkBlocks s x mp e n).length ∧ e'.rsv = 0 ∧ e'.rsvM = 0 ∧ e'.tshift = e.tshift ∧ e'.pool = e.pool ∧
    e'.owner = r.ctx ∧ t.pool? r.pid e.pool = some y ∧
    (∀ z ∈ forkBlocks s x mp e n, y.count z.2 = forkCount s x mp e n z.2) ∧
    (∀ bi, bi < forkShared x e n → (tableStands t mp e' bi).2 = (tableBlock s mp e bi).2) ∧
    (∀ bi, forkShared x e n ≤ bi → bi < (forkBlocks s x mp e n).length → ∃ b, (tableStands t mp e' bi).2 = b ∧
      b ∈ x.free ∧ b ∉ y.free ∧ y.count b = 1 ∧ ∀ k, k < 2 ^ x.bshift →
        t.phys (x.pbase + b * 2 ^ x.bshift + k) 1 = s.phys (x.pbase + (tableBlock s mp e bi).2 * 2 ^ x.bshift + k) 1)

/-! ### The words of the statements about epochs and control registers -/

/-- `t` is `s` but for the threads of the path of `p`: `go` changes each, with the workgroup it is in and its lane. -/
def PathBecomes (p : Path) (s t : State) (go : Nat → Thread → Thread) : Prop :=
  if p.ctl then t = s.setWg { p.w with ctl := go 0 p.w.ctl } else LanesBecome p s t go

/-- The reader counter of a parity, raised by n. -/
def Raised (a b : Core) (par n : Nat) : Prop :=
  b = if par = 0 then { a with c0 := a.c0 + n } else { a with c1 := a.c1 + n }

/-- Every term of a domain's sum of a parity is zero (R113). -/
def Quiescent (s : State) (dom par : Nat) : Prop :=
  (∀ c ∈ s.coresOf dom, (if par = 0 then (s.core c).c0 else (s.core c).c1) = 0) ∧
  ∀ p ∈ s.partsOf dom, (if par = 0 then p.2.held0 else p.2.held1) = 0

/-- Vector v is raised (R35, R42): masked by the Function Mask or by its entry it becomes pending, otherwise its message is sent
once more; the table and the other vectors stay. -/
def VectorRaised (m m' : Msix) (v : Nat) : Prop :=
  m'.table = m.table ∧ m'.fmask = m.fmask ∧
  if m.fmask = true ∨ (cellGet m.table (16 * v + 12)).toNat % 2 = 1 then m'.pend = m.pend ||| (1#64 <<< v) ∧ m'.sent = m.sent
  else m'.pend = m.pend ∧ ∀ k, (tabGet m'.sent k).getD 0 = (tabGet m.sent k).getD 0 + if k = v then 1 else 0

/-- The instance of a counter group that a partition reports to: a strict partition has its own (Table 2-9, R52). -/
def groupKey (P : Partition) (pid : Nat) : Nat := if P.strict then 65536 * (pid + 1) + P.fabgrp else P.fabgrp

/-- A fabric group after its reports: G moves on once every member has reported twice (R123). -/
def counted (x : FabGroup) (reports : Tab Nat) (members arrived : List Nat) : FabGroup :=
  if members ≠ [] ∧ ∀ d ∈ members, 2 ≤ (tabGet reports d).getD 0 then
    { x with members := members, arrived := arrived, reports := [], g := x.g + 1 }
  else { x with members := members, arrived := arrived, reports := reports }

/-- The control thread takes the results of an instruction of n bytes and goes on. -/
def CtlGets (p : Path) (s t : State) (la n : Nat) (ws : List RegWrite) : Prop :=
  ∃ lg q, t = (if la = 0 then s else { s with tags := s.tags + 1 }).setWg { p.w with
    ctl := Ahead (gets la s.tags none ws p.w.ctl) n, s := if la = 0 then putS p.w.s ws else p.w.s, sLog := lg, sSeq := q }

/-- A control-thread instruction of n bytes: with its guard not held it changes nothing but the PC; with its guard held, and
what `ok` asks, the workgroup becomes what `go` makes of it and the control thread goes on. -/
def CtlStep (i : Instr) (g : Guard) (n : Nat) (ok : State → Path → Prop) (go : State → Path → Wg) : Prop :=
  ∀ s p s', s.path? = some (p, s') → p.ctl = true →
    (p.w.ctl.guard g = false → ∃ t, exec i s = .next t ∧ Effect p s' t g n fun _ _ => []) ∧
    (p.w.ctl.guard g = true → ok s' p →
      exec i s = .next (s'.setWg { go s' p with ctl := Ahead (go s' p).ctl n }))

/-- What a control register reads as after v is written to register n, when it read as `old` (Tables 6-3, 6-7, 14-7). -/
def csrAfter (n m : Nat) (v : DWord) (old : Nat) : Nat :=
  if m ≠ n then old
  else match n with
    | 0x03 => (v &&& ~~~3#64).toNat
    | 0x05 | 0x08 | 0x09 => v.toNat
    | 0x07 => b2n (v.getLsbD 1) * 2 + old % 2
    | 0x10 => v.toNat % 4
    | 0x13 => v.toNat % 2 ^ 57
    | 0x14 => v.toNat % 8 + min (v.toNat / 256 % 256) 40 * 256
    | _ => old

/-- A group with a lane stopped at a BKPT goes past it (R186, R188). -/
def PastBreaks (w w' : Wg) (g : Nat) : Prop :=
  ∀ l, l < 32 → w'.lane? g l = if (w.group g).brk.getLsbD l then (w.lane? g l).map (Ahead · 4) else w.lane? g l

/-! ### The words of the statements about the fabric -/

/-- The rows of the remote instructions, with their majors and access kinds. -/
def remoteRows (f : LForm) : List (Instr × Major × Acc) := [(.rld f, .rld, .read), (.rst f, .rst, .write), (.ratom f, .ratom, .atomic)]

/-- The bytes a lane of a remote instruction accesses. -/
def remoteBytes (mj : Major) (f : LForm) : Nat := if mj = .ratom then tyWidth f.ty / 8 else 2 ^ f.size

/-- A remote instruction whose lanes' leaves all name this device, which accepts each access (R88): where each lane's location is,
and its old value. -/
def remotesHere (mj : Major) (acc : Acc) (f : LForm) (p : Path) :
    List LaneOp → State → Option (List (Nat × Nat × Nat) × State) :=
  let n := remoteBytes mj f
  eachLane fun s o =>
    if eaOf mj f o.a.toNat % n = 0 then
      match p.spot s o.lane 0 (eaOf mj f o.a.toNat) n acc true with
      | (.ok (.remote dev pa), s) =>
        if dev = s.fabric.devId ∧ s.targetStatus dev p.w.id.pid pa n (acc != .write) = 0 then
          let m := s.phys pa n
          some ((pa, m), if mj = .rst then s.targetWrite pa (bytesOf n o.b.toNat)
                   else if mj = .ratom then
                     s.targetWrite pa (bytesOf n (ratomNew (f.low5 % 16) f.ty m o.b.toNat o.c.toNat))
                   else s)
        else none
      | _ => none
    else none

/-- What a remote instruction gives a lane for an old value or loaded bytes. -/
def remoteGets (p : Path) (mj : Major) (f : LForm) (x : Nat) : List RegWrite :=
  if mj = .rld then p.wrLoad f.d (2 ^ f.size) (f.f.getLsbD 3) x
  else if mj = .ratom ∧ f.f.getLsbD 4 = false then p.wr f.d f.ty (x : Int) else []

/-- The request rows of remote devices: the message type, whether it reads, and the type of its response. -/
def servedRows : List (Instr × MsgType × Bool × MsgType) :=
  [(.rstRequest, .rst, false, .storeAck), (.copyWrite, .copyWrite, false, .copyCompletion), (.ratomRequest, .ratom, true, .atomicResult)]

/-- The bytes a request touches: its atomic's, or those between the first and last it names. -/
def served (m : Msg) : Nat × Nat := if m.type = .ratom then (m.addr, tyWidth (ratomTy m.opc.toNat) / 8) else msgRange m

/-- A message's SEQ is not before its source's LOW, and the message was not executed before (R93). -/
def fresh (s : State) (m : Msg) : Prop :=
  seqBefore m.seq.toNat ((tabGet (s.fabric.passLow m).lows m.src).getD 0) = false ∧
  ((tabGet (s.fabric.passLow m).executed m.src).getD []).contains m.seq.toNat = false

/-- A lane of a request outstanding: the thread that waits, whose instruction is outstanding under the request's tag. -/
def Waits (s : State) (r : Remote) (w : Wg) (o : LaneOp) (th : Thread) : Prop :=
  s.fabric.out = [r] ∧ r.sent = true ∧ r.copy = none ∧ r.lanes = [o] ∧ Stands s r.core r.slot w ∧ WgsStand s ∧
  (match r.group with | some g => w.lane? g o.lane = some th ∧ o.lane < 32 | none => w.ctl = th) ∧
  (th.outs.any fun x => x.tag == r.outTag) = true ∧ th.wait = .none

/-- The thread of a request's lane after it completes with some writes. -/
def nowLane (t : State) (r : Remote) (o : LaneOp) (th : Thread) : Prop :=
  ∃ w, t.wg? r.core r.slot = some w ∧ (match r.group with | some g => w.lane? g o.lane = some th | none => w.ctl = th)

/-- A message whose fields fit the header of Table 3-7, and whose data are the bytes from its address on (log 18). -/
def MsgFits (m : Msg) : Prop :=
  m.dst < 1024 ∧ m.src < 1024 ∧ m.spart < 16 ∧ m.len ≤ 224 ∧ m.addr < 2 ^ 46 ∧ m.data.length = (if m.type = .rld then 0 else m.len) ∧
  m.offs = (List.range m.len).map fun i => m.addr % 128 + i

/-! ### The words of the statements about translation and faults -/

/-- The index of an address in a table of level k (R63): nine bits. -/
def ix (va k : Nat) : Nat := va / (4096 * 512 ^ k) % 512

/-- An entry that points to a table: valid, no leaf, in a sector that can be read. -/
def pointsTo (s : State) (at_ tab : Nat) : Prop :=
  s.eccSub at_ 8 true = none ∧ ∃ e, s.phys at_ 8 = e ∧ e % 2 = 1 ∧ e / 2 ^ 7 % 2 = 0 ∧ e / 2 ^ 12 % 2 ^ 34 * 4096 = tab

/-- What a leaf allows (Table 3-2), for an access to memory or to the PCI Express tier that no page state turns away. -/
def leafAllows (l : Leaf) (acc : Acc) : Option Nat :=
  match acc with
  | .read => if l.rd then none else some 1
  | .write => if l.w then none else some 2
  | .atomic => if l.rd = false then some 1 else if l.w then none else some 2
  | .fetch => if l.x then none else some 3

/-- The reader's byte: memory reads the same outside n bytes at a. -/
def SameOutside (s t : State) (a n : Nat) : Prop :=
  ∀ x, x < a ∨ a + n ≤ x → cellGet (w := 8) t.mem x = cellGet (w := 8) s.mem x

/-- A group, or the control thread, has a load that a pre-emption abandoned and that has not been made again (R145). -/
def reloads (w : Wg) (ctl : Bool) (g : Nat) : Prop :=
  ∃ th, (if ctl then th = w.ctl else ∃ l, (l, th) ∈ w.groupLanes g) ∧ ∃ y ∈ th.outs, y.ready = false ∧ y.reissue ≠ none

/-- A group of lanes, or the control thread, of a workgroup slot. -/
def threadRef (core slot : Nat) (ctl : Bool) (g : Nat) (m : LaneMask) : ThreadRef :=
  if ctl then .ctrl core slot else .lanes core slot g m

/-- A record that is decided: OUTCOME and SUB as given, its other fields as they were. -/
def Decided (q q' : FaultRec) (oc sub : Nat) : Prop :=
  q'.outcome = some oc ∧ bitsAt q'.bits.toNat 24 23 = oc ∧ bitsAt q'.bits.toNat 71 64 = sub ∧
  bitsAt q'.bits.toNat 255 72 = bitsAt q.bits.toNat 255 72 ∧ bitsAt q'.bits.toNat 63 25 = bitsAt q.bits.toNat 63 25 ∧
  bitsAt q'.bits.toNat 22 0 = bitsAt q.bits.toNat 22 0 ∧ q'.pid = q.pid ∧ q'.core = q.core ∧ q'.slot = q.slot ∧ q'.source = q.source

/-! ### The words of the statements about workgroups and steps -/

/-- Where a node's threads start, its lanes, registers and scratch, from its record (Table 5-12). -/
def startsAs (w : Wg) (n : BitVec 1024) : Prop :=
  w.ctl = Thread.start (BitVec.ofNat 64 (n.toNat / 2 ^ 960 % 2 ^ 64)) ∧
  (∀ l, l < n.toNat / 2 ^ 457 % 2 ^ 11 → tabGet w.lanes l = some (Thread.start (BitVec.ofNat 64 (n.toNat / 2 ^ 896 % 2 ^ 64)))) ∧
  w.id.nlane = n.toNat / 2 ^ 457 % 2 ^ 11 ∧ w.id.nreg = n.toNat / 2 ^ 450 % 2 ^ 7 ∧ w.id.scr = n.toNat / 2 ^ 440 % 2 ^ 10 ∧
  w.csrs = Csrs.reset ∧ w.scratch = [] ∧ w.dq = [] ∧ w.engOps = 0 ∧ w.ended = false

/-- The slot, request and place of workgroup w, by the entry it is bound to (R155). -/
def boundAs (x : Wg) (n : BitVec 1024) (es : List Ragged) (w : Nat) : Prop :=
  match bindingOf n es w with
  | some (e, row) => x.id.slotv = BitVec.ofNat 32 (2 ^ 31 + e.slot) ∧ x.id.req = e.reqid ∧
      x.id.qpos = BitVec.ofNat 32 (e.qpos + row) ∧ x.id.kvlen = BitVec.ofNat 32 e.kvlen
  | none => x.id.slotv = 0 ∧ x.id.req = 0 ∧ x.id.qpos = 0 ∧ x.id.kvlen = 0

/-- The machine as a workgroup takes its scratchpad and its place in the grid, before its ARGS block is read. -/
def taking (s : State) (pid ctx i w core slot : Nat) (n : BitVec 1024) : State :=
  (s.modCore core fun k => k.takeScratch slot (ndScr n)).modRun pid ctx fun r =>
    r.modNode i fun x => { x with taken := x.taken ++ [w] }

/-- The images of a context's resident workgroups have room in shadow storage: on every die that they go to, the images of saved
contexts which have not been swapped leave enough of its 1,280 MiB (R20, R147). -/
def imagesFit (s : State) (pid ctx : Nat) : Prop :=
  ∀ d, d < 4 →
    let bytes := fun (ws : List Wg) => ((ws.filter fun w => w.id.core / 72 == d).map (·.imageLen)).sum
    let there := (s.parts.map fun p => (p.2.ctxs.map fun e => if e.2.swapped then 0 else bytes (e.2.saved.map (·.wg))).sum).sum
    bytes (s.ctxWgs pid ctx) = 0 ∨ there + bytes (s.ctxWgs pid ctx) ≤ 1280 * 2 ^ 20

/-- Every thread of a workgroup has ended and nothing of it is in flight (R157). -/
def isOver (w : Wg) : Prop :=
  w.ctl.ended = true ∧ (∀ e ∈ w.lanes, e.2.ended = true) ∧ w.engOps = 0 ∧ w.mailbox = none

/-- A context in state RUNNING with no step in progress, one request in slot n, nothing queued and no sequences. -/
def OneRequest (s : State) (pid ctx n : Nat) (c : Context) (r : Request) : Prop :=
  s.ctx? pid ctx = some c ∧ c.run = none ∧ c.cstate = 2 ∧ s.dev.linkLost = false ∧ c.adm.slots = [(n, r)] ∧ c.adm.queue = [] ∧
  c.adm.evicted = [] ∧ r.kv = List.replicate 8 0 ∧ r.held = none ∧ r.owait = false ∧ r.crm = 0

/-- The register writes of a thread's outstanding instructions whose results have returned and are not to be read again. -/
def returned (th : Thread) : List (List RegWrite) := (th.outs.filter fun o => o.ready && o.reissue.isNone).map (·.writes)

/-- A thread as it is saved (R145, Table 5-8): what has returned is in its registers, and an open region is back at its ALB. -/
def threadSaved (th th' : Thread) : Prop :=
  let r := (returned th).foldl put th
  th'.v = r.v ∧ th'.k = r.k ∧ th'.p = r.p ∧ th'.ended = th.ended ∧
  th'.pc = (match th.region with | some r => r.alb | none => th.pc)

/-- A workgroup as it is saved (R145, R146): its threads, its uniform and control registers, its scratchpad and its decision queue. -/
def wgSaved (w v : Wg) : Prop :=
  v.id = w.id ∧ v.scratch = w.scratch ∧ v.csrs = w.csrs ∧ v.dq = w.dq ∧ threadSaved w.ctl v.ctl ∧
  (∀ g l th, g < w.ngroups → l < 32 → w.lane? g l = some th → ∃ th', v.lane? g l = some th' ∧ threadSaved th th') ∧
  ((∀ e ∈ w.lanes, ∀ o ∈ e.2.outs, ∀ n x, RegWrite.s n x ∉ o.writes) → v.s = (returned w.ctl).foldl putS w.s)

/-- The machine as the context's workgroups come back to it: the context RUNNING, its step counting again. -/
def restoring (s : State) (pid ctx : Nat) : State :=
  s.modCtx pid ctx fun c => { c with
    cstate := 2, haltrsn := 0, saved := [], swapped := false, run := c.run.map fun r => { r with since := some s.cycle } }

/-- A thread has the registers and the place of another. -/
def sameThread (th th' : Thread) : Prop :=
  th'.v = th.v ∧ th'.k = th.k ∧ th'.p = th.p ∧ th'.ended = th.ended ∧ th'.pc = th.pc

/-- The tokens of a request's next step: one that decodes takes one, a prefill what CHUNK and the budget leave (R134). -/
def share (chunk budget : Nat) (r : Request) : Nat := if r.prem = 1 then 1 else min (min r.prem chunk) budget

/-- The slots that take part in the step, in increasing order. -/
def activeSlots (c : Context) : List (Nat × Request) := c.adm.slots.filter fun e => e.2.q != 0

/-- The rows of the step: the sum of Q. -/
def rowsOf (c : Context) : Nat := ((activeSlots c).map (·.2.q)).sum

/-- The first packed row of a slot: the rows of the active slots before it. -/
def rowOf (c : Context) (n : Nat) : Nat := (((activeSlots c).takeWhile fun e => e.1 != n).map (·.2.q)).sum

/-- The entry of a bound slot (Table 5-7). -/
def slotEntry (c : Context) (n : Nat) (r : Request) : Nat :=
  r.reqid.toNat * 2 ^ 96 + r.pos * 2 ^ 72 + (r.pos + r.q) * 2 ^ 48 + r.q * 2 ^ 32 +
    (if r.q = 0 then 0 else rowOf c n * 2 ^ 16 + 2 ^ 15 + if r.q = r.prem then 2 ^ 14 else 0) + c.classOf r * 2 ^ 11 + n

/-- The former's own copy of an active slot's entry. -/
def boundEntry (c : Context) (e : Nat × Request) : Ragged :=
  { slot := e.1, reqid := e.2.reqid, qpos := e.2.pos, kvlen := e.2.pos + e.2.q, q := e.2.q,
    row0 := (((activeSlots c).takeWhile fun x => x.1 != e.1).map (·.2.q)).sum }

/-- The grid of a node (R155). -/
def gridFor (c : Context) (n : BitVec 1024) : Nat :=
  let gx := n.toNat / 2 ^ 488 % 2 ^ 24
  let tile := n.toNat / 2 ^ 473 % 2 ^ 15
  (if n.getLsbD 469 then 4 else 1) *
    if n.toNat / 2 ^ 470 % 8 = 0 then gx
    else if n.toNat / 2 ^ 470 % 8 = 1 then (activeSlots c).length * gx
    else if n.toNat / 2 ^ 470 % 8 = 2 then gx * ((activeSlots c).map fun e => ceilDiv e.2.q tile).sum
    else gx * ceilDiv (rowsOf c) tile

/-- The limits of node i's record (R154, Tables 5-12 and 5-13). A workgroup within them fits an empty core. -/
def NodeGood (i : Nat) (n : BitVec 1024) : Prop :=
  let at_ := fun (lo w : Nat) => n.toNat / 2 ^ lo % 2 ^ w
  at_ 960 64 % 4 = 0 ∧ at_ 896 64 % 4 = 0 ∧ at_ 768 64 % 64 = 0 ∧ 1 ≤ at_ 488 24 ∧ at_ 488 24 ≤ 65536 ∧ 1 ≤ at_ 473 15 ∧
  at_ 473 15 ≤ 16384 ∧ at_ 470 3 ≤ 3 ∧ 1 ≤ at_ 457 11 ∧ at_ 457 11 ≤ 1024 ∧ 8 ≤ at_ 450 7 ∧ at_ 450 7 ≤ 64 ∧ at_ 450 7 % 8 = 0 ∧
  at_ 440 10 ≤ 768 ∧
  ∀ j, j < 4 → let d := at_ (64 * j + 512) 64
    d / 2 ^ 50 % 4 ≠ 0 → d / 2 ^ 52 < i ∧ (d / 2 ^ 50 % 4 = 2 → d / 2 ^ 34 % 2 ^ 16 ≠ 0 ∧ d / 2 ^ 18 % 2 ^ 16 ≠ 0)

/-- Bytes at each address are zeroed, one map after the other. -/
def MapsZeroed (who : Who) : State → List (Nat × Nat) → State → Prop
  | s, [], t => t = s
  | s, (va, n) :: ms, t => ∃ s', s.agentWriteMany who va (List.replicate n 0) = (.ok (), s') ∧ MapsZeroed who s' ms t

/-! ### The words of the statements about the host -/

/-- A mailbox holds an unanswered command with a code and bytes, and firmware runs (R40, R43). -/
def Commanded (s : State) (fn : Fn) (code : Nat) (cmd : List Byte) : Prop :=
  ∃ m, s.mbox? fn = some m ∧ m.busy = true ∧ m.issued = cmd ∧ cmdNat cmd 0 2 = code ∧ s.dev.boot = .ready

/-- The rows that answer commands: the mailbox, the code and the bytes that have a meaning (Table 2-5). -/
def commandRows (pid : Nat) : List (Instr × Fn × Nat × List (Nat × Nat)) :=
  [(.ctxLoad pid, .vf pid, 1, [(8, 9), (64, 320)]), (.ctxUnload pid, .vf pid, 2, [(8, 9)]), (.ctxHalt pid, .vf pid, 3, [(8, 9)]),
   (.ctxResume pid, .vf pid, 4, [(8, 9)]), (.poolCreate pid, .vf pid, 5, [(8, 25)]), (.poolDestroy pid, .vf pid, 6, [(8, 9)]),
   (.attest pid, .vf pid, 7, [(8, 40)]), (.health (.vf pid), .vf pid, 8, []), (.health .pf0, .pf0, 8, []),
   (.partCreate, .pf0, 0x40, [(8, 9), (16, 144)]), (.partDestroy, .pf0, 0x41, [(8, 9)]), (.powerLimit, .pf0, 0x42, [(8, 12)]),
   (.fwChunk, .pf0, 0x43, [(8, 4096)]), (.fwCommit, .pf0, 0x44, []), (.devReset, .pf0, 0x45, [])]

/-- The command is carried out, which leads to a state of which `post` holds, and answered with a result and data. -/
def Answers (i : Instr) (fn : Fn) (code : Nat) (s : State) (result : Nat) (data : List Byte) (post : State → Prop) : Prop :=
  ∃ s1, exec i s = .next (s1.respond fn code result data) ∧ post s1

/-- A command is refused: nothing changes but its answer. -/
def Refuses (i : Instr) (fn : Fn) (code : Nat) (s : State) (result : Nat) : Prop :=
  exec i s = .next (s.respond fn code result [])

/-- A command of partition `pid` for context n, which no reserved byte spoils. -/
def ContextCommand (s : State) (pid code : Nat) (cmd : List Byte) (n : Nat) (named : List (Nat × Nat)) : Prop :=
  Commanded s (.vf pid) code cmd ∧ cmdZeroOk cmd named = true ∧ cmdNat cmd 8 1 = n ∧ n ≤ 31

/-- A partition that takes commands: neither FAILED nor CLEARING (Table 2-4, R423). -/
def Live (P : Partition) : Prop := P.state ≠ 4 ∧ P.state ≠ 5

/-- The virtual address that offset x of a partition's aperture reaches (R36). -/
def apertureVa (P : Partition) (x : Nat) : Nat := P.apbase.toNat / 2 ^ 25 % 2 ^ 32 * 2 ^ 25 + x % 2 ^ 25

/-- The context that APBASE of a partition names, in a function that answers the host. -/
def ApertureOf (s : State) (pid n : Nat) (P : Partition) (c : Context) : Prop :=
  s.vf? pid = some P ∧ (P.ctxs.find? fun e => e.2.asid == P.apbase.toNat % 2 ^ 16) = some (n, c)

/-- An aperture access that fails is noted in APERR and PSTAT. -/
def apertureFails (s : State) (pid : Nat) : State :=
  s.modPart pid fun P => { P with aperr := true, werr := (P.werr + 1) % 2 ^ 32 }

/-- Everything of the machine but its mailboxes, interrupts and what `keep` leaves out stays. -/
def SameMachine (s t : State) : Prop :=
  t.mem = s.mem ∧ t.wgs = s.wgs ∧ t.cores = s.cores ∧ t.domains = s.domains ∧ t.fabric = s.fabric ∧ t.frames = s.frames

/-! ### The words of the statements about the device -/

/-- The management mailbox holds an unanswered command with a code and bytes, and the ROM is in recovery mode (R55). -/
def InRecovery (s : State) (code : Nat) (cmd : List Byte) : Prop :=
  s.dev.mbox.busy = true ∧ s.dev.mbox.issued = cmd ∧ cmdNat cmd 0 2 = code ∧ s.dev.boot = .recovery

/-- The 32 far channels hold the same number of GiB, which is 16, 32, 48 or 64 (R23). -/
def FarAlike (chans : List Nat) : Prop := ∃ k ∈ [16, 32, 48, 64], chans = List.replicate 32 k

/-! ### The words of the statements about the whole machine -/

/-- A step from s that leads to what `o` says: a context whose step goes on keeps memory as it was before a write (R208). -/
def After (s : State) (o : Host.Outcome State Fault Refusal) : Host.Outcome State Fault Refusal :=
  match o with | .next t => .next (t.remember s) | x => x

/-- What a step makes of an instruction of a major and form that the path `p` runs in state `s2`: what the instruction does, then the
end of its issue; an instruction that waits does not count as issued. -/
def Ran (p : Path) (i : Instr) (mj : Major) (f : LForm) (s2 : State) : Host.Outcome State Fault Refusal :=
  match exec i (p.countIssue s2 mj f) with
  | .next s3 => if s3.cur = none then .next s2.shift else .next (s3.noteIssued p).shift
  | .fault r => .fault r
  | .refused r => .refused r

/-- A fault record on its way for the lanes `pend` of a group: its source, cause, subcode, address and PC (Table 3-4), undecided. -/
def RecordOf (r : FaultRec) (id : WgId) (pend : LaneMask) (c : Cause) (pc : DWord) : Prop :=
  r.pid = id.pid ∧ r.core = id.core ∧ r.slot = id.slot ∧ r.source = 0 ∧ r.outcome = none ∧
  bitsAt r.bits.toNat 79 72 = c.code % 256 ∧ bitsAt r.bits.toNat 71 64 = c.sub % 256 ∧ bitsAt r.bits.toNat 255 192 = c.va % 2 ^ 64 ∧
  bitsAt r.bits.toNat 191 128 = pc.toNat ∧ bitsAt r.bits.toNat 127 96 = pend.toNat ∧ bitsAt r.bits.toNat 24 23 = 0

/-- What of a lane a cause leaves: its place, its registers and that it runs. -/
def lanePart (t : Thread) : DWord × Cells 32 × BitVec 16 × Bool × Option Region := (t.pc, t.v, t.p, t.ended, t.region)

end Sys2Proof.Claims

section
open Sys2Proof Sys2Proof.Machine Sys2Proof.Claims

/-- R231, R232: ADD, SUB, MUL, MULH, MAD, MINMAX and ABSNEG, short and long, complete: every active thread takes
wr(T, x) of the exact result x, clamped when M = 1, its PC moves by the form's length, and nothing else in the machine
changes. -/
def Sys2Proof.Claims.IntegerArithmeticCompletes : Prop :=
  (∀ f : SForm,
    Completes (.addShort f) f.g 4 (exact .add (f.long .ui32) fun a b _ => a + b) ∧
    Completes (.subShort f) f.g 4 (exact .sub (f.long .ui32) fun a b _ => a - b) ∧
    Completes (.mulShort f) f.g 4 (exact .mul (f.long .ui32) fun a b _ => a * b) ∧
    Completes (.mulhShort f) f.g 4 (exact .mulh (f.long .ui32) fun a b _ => a * b / 2 ^ 32) ∧
    Completes (.minmaxShort f) f.g 4 (exact .minmax (f.long .ui32) fun a b _ => if a ≤ b then a else b) ∧
    Completes (.absnegShort f) f.g 4 (exact .absneg (f.long .si32) fun a _ _ => if a < 0 then -a else a)) ∧
  ∀ f : LForm,
    Completes (.add f) f.g (codedLen false f) (exact .add f fun a b _ => a + b) ∧
    Completes (.sub f) f.g (codedLen false f) (exact .sub f fun a b _ => a - b) ∧
    Completes (.mul f) f.g (codedLen false f) (exact .mul f fun a b _ => a * b) ∧
    Completes (.mulh f) f.g (codedLen false f) (exact .mulh f fun a b _ => a * b / 2 ^ tyWidth f.ty) ∧
    Completes (.mad f) f.g (codedLen false f) (exact .mad f fun a b c => a * b + c) ∧
    Completes (.minmax f) f.g (codedLen false f)
      (exact .minmax f fun a b _ => if f.f = 0 then (if a ≤ b then a else b) else (if a ≤ b then b else a)) ∧
    Completes (.absneg f) f.g (codedLen false f)
      (exact .absneg f fun a _ _ => if f.f = 0 then (if a < 0 then -a else a) else -a)

/-- R231, R233, R234, R237 in a lane stream: the short forms of ADD, SUB, MUL, AND, OR, XOR, SHL, SHR, SAR
and MOV are the operations of 32-bit words on v registers, a shift of 32 or more included. -/
def Sys2Proof.Claims.ShortFormsAreWordOperations : Prop :=
  ∀ f : SForm,
    let word := fun (g : Word → Word → Word) (_ : State) (_ : Path) (_ : Nat) (th : Thread) =>
      [RegWrite.v f.d.toNat (g (cellGet th.v f.a.toNat) (cellGet th.v f.b.toNat))]
    LaneCompletes (.addShort f) f.g 4 (word (· + ·)) ∧ LaneCompletes (.subShort f) f.g 4 (word (· - ·)) ∧
    LaneCompletes (.mulShort f) f.g 4 (word (· * ·)) ∧ LaneCompletes (.andShort f) f.g 4 (word (· &&& ·)) ∧
    LaneCompletes (.orShort f) f.g 4 (word (· ||| ·)) ∧ LaneCompletes (.xorShort f) f.g 4 (word (· ^^^ ·)) ∧
    LaneCompletes (.shlShort f) f.g 4 (word fun a b => a <<< b) ∧ LaneCompletes (.shrShort f) f.g 4 (word fun a b => a >>> b) ∧
    LaneCompletes (.sarShort f) f.g 4 (word fun a b => a.sshiftRight b.toNat) ∧
    LaneCompletes (.movShort f) f.g 4 (word fun _ b => b)

/-- Integer arithmetic completes with the exact result wrapped or clamped, and changes nothing else. -/
def Obligations.IntegerOperationsComplete : Prop := IntegerArithmeticCompletes ∧ ShortFormsAreWordOperations

/-- R233: AND, OR, XOR and TERN complete: bit i of the result is the operation on bits i of the sources, for TERN bit
a[i] + 2·b[i] + 4·c[i] of the table F; nothing else changes. -/
def Sys2Proof.Claims.BitwiseCompletes : Prop :=
  (∀ f : SForm,
    Completes (.andShort f) f.g 4 (logic .and_ (f.long .ui32) fun a b => bitsOfFn 32 fun i => bitAt a i && bitAt b i) ∧
    Completes (.orShort f) f.g 4 (logic .or_ (f.long .ui32) fun a b => bitsOfFn 32 fun i => bitAt a i || bitAt b i) ∧
    Completes (.xorShort f) f.g 4 (logic .xor_ (f.long .ui32) fun a b => bitsOfFn 32 fun i => bitAt a i != bitAt b i)) ∧
  ∀ f : LForm,
    let w := tyWidth f.ty
    Completes (.and_ f) f.g (codedLen false f) (logic .and_ f fun a b => bitsOfFn w fun i => bitAt a i && bitAt b i) ∧
    Completes (.or_ f) f.g (codedLen false f) (logic .or_ f fun a b => bitsOfFn w fun i => bitAt a i || bitAt b i) ∧
    Completes (.xor_ f) f.g (codedLen false f) (logic .xor_ f fun a b => bitsOfFn w fun i => bitAt a i != bitAt b i) ∧
    Completes (.tern f) f.g (codedLen false f) fun _ p _ th =>
      p.wr f.d f.ty (bitsOfFn w fun i => bitAt f.f.toNat (b2n (bitAt (p.opA th .tern f) i)
        + 2 * b2n (bitAt (p.opB th .tern f) i) + 4 * b2n (bitAt (p.opC th .tern f) i)) : Nat)

/-- R234: the shifts complete. With n = b[31:0], taken mod w under .MOD, SHL gives val(T, a)·2^n mod 2^w and 0 from w on,
SHR floor(a / 2^n), SAR floor(val(T, a) / 2^n); nothing else changes. SHR's a is unsigned, as its types are. -/
def Sys2Proof.Claims.ShiftsComplete : Prop :=
  let shl := fun (a : Int) (w n : Nat) => if w ≤ n then 0 else a * 2 ^ n
  let shr := fun (a : Int) (w n : Nat) => if w ≤ n then 0 else a % 2 ^ w / 2 ^ n
  let sar := fun (a : Int) (_ n : Nat) => a / 2 ^ n
  (∀ f : SForm,
    Completes (.shlShort f) f.g 4 (shift .shl (f.long .ui32) shl) ∧
    Completes (.shrShort f) f.g 4 (shift .shr (f.long .ui32) shr) ∧
    Completes (.sarShort f) f.g 4 (shift .sar (f.long .si32) sar)) ∧
  ∀ f : LForm,
    Completes (.shl f) f.g (codedLen false f) (shift .shl f shl) ∧
    Completes (.shr f) f.g (codedLen false f) (shift .shr f shr) ∧
    Completes (.sar f) f.g (codedLen false f) (shift .sar f sar)

/-- R235, R236: BFE, BFI and BITC complete. Bit i of BFE's field is a[p + i], past the width 0 or the sign; BFI replaces
a's bits p .. p + n - 1 by b's low n; .CLZ, .CTZ and .POPC count, .BREV reverses; nothing else changes. -/
def Sys2Proof.Claims.BitFieldsComplete : Prop :=
  (∀ f : SForm, Completes (.bitcShort f) f.g 4 (bitCount (f.long .ui32))) ∧
  ∀ f : LForm,
    let w := tyWidth f.ty
    Completes (.bitc f) f.g (codedLen false f) (bitCount f) ∧
    Completes (.bfe f) f.g (codedLen false f) (fun _ p _ th =>
      let a := p.opA th .bfe f % 2 ^ w
      let q := fieldOf f (p.opB th .bfe f)
      let x := bitsOfFn q.2 fun i => if q.1 + i < w then bitAt a (q.1 + i) else tySigned f.ty && bitAt a (w - 1)
      p.wr f.d f.ty (if tySigned f.ty ∧ q.2 ≠ 0 then sx q.2 x else (x : Int))) ∧
    Completes (.bfi f) f.g (codedLen false f) fun _ p _ th =>
      let a := p.opA th .bfi f
      let b := p.opB th .bfi f
      let q := fieldOf f (p.opC th .bfi f)
      p.wr f.d f.ty (bitsOfFn w fun i => if q.1 ≤ i ∧ i < q.1 + q.2 then bitAt b (i - q.1) else bitAt a i : Nat)

/-- Logical operations, TERN, shifts, bit fields and bit counts complete. -/
def Obligations.BitOperationsComplete : Prop := BitwiseCompletes ∧ ShiftsComplete ∧ BitFieldsComplete

/-- R237 to R240: MOV, MOVI, SEL, CVTI and LEA complete with the values of those rules; nothing else changes. -/
def Sys2Proof.Claims.MovesComplete : Prop :=
  let lea := fun (f : LForm) (_ : State) (p : Path) (_ : Nat) (th : Thread) =>
    let b : Nat := p.opB th .lea f % 2 ^ 32
    let i : Int := if 8 ≤ f.m.toNat ∧ 2 ^ 31 ≤ b then (b : Int) - 2 ^ 32 else b
    p.wr f.d .ui64 ((p.opA th .lea f : Int) + i * 2 ^ (f.m.toNat % 8))
  (∀ f : SForm,
    Completes (.movShort f) f.g 4 (fun _ p _ th => p.wr f.d .ui32 (p.opB th .mov (f.long .ui32) : Nat)) ∧
    Completes (.leaShort f) f.g 4 (lea (f.long .ui64))) ∧
  (∀ g d n, Completes (.moviShort g d n) g 4 fun _ p _ _ => p.wr d .ui32 n.toInt) ∧
  ∀ f : LForm,
    Completes (.mov f) f.g (codedLen false f) (fun _ p _ th => p.wr f.d f.ty (p.opB th .mov f : Nat)) ∧
    Completes (.movi f) f.g (codedLen false f) (fun _ p _ _ => p.wr f.d f.ty (f.n12.toInt + 2 ^ 12 * f.w2.toInt)) ∧
    Completes (.sel f) f.g (codedLen false f) (fun _ p _ th =>
      p.wr f.d f.ty (if th.pred f.c.toNat then p.opA th .sel f else p.opB th .sel f : Nat)) ∧
    Completes (.cvti f) f.g (codedLen false f) (fun _ p _ th =>
      let x := val (tyOfCode f.f.toNat) (p.opA th .cvti f)
      p.wr f.d f.ty (if f.m = 1 then clampTy x f.ty else x)) ∧
    Completes (.lea f) f.g (codedLen false f) (lea f)

/-- R241, R242: ICMP, PLOP and PMOV complete: predicates, or a register of predicates, take the values of those rules, a
write of p0 or q0 is discarded, and nothing else changes. -/
def Sys2Proof.Claims.PredicatesComplete : Prop :=
  let plop := fun (f : LForm) (_ : State) (_ : Path) (_ : Nat) (th : Thread) =>
    let a := th.pred f.a.toNat
    let b := th.pred f.b.toNat
    let r := [a && b, a || b, xor a b, a && !b, a || !b, !a].getD f.f.toNat (!a)
    if f.d = 0 then [] else [RegWrite.p f.d.toNat r]
  let get := fun (d : BitVec 6) (_ : State) (p : Path) (_ : Nat) (th : Thread) =>
    p.wr d .ui32 (bitsOfFn (if p.ctl then 8 else 16) th.pred : Nat)
  (∀ f : SForm,
    Completes (.plopShort f) f.g 4 (plop (f.long .ui32)) ∧ Completes (.pmovGetShort f) f.g 4 (get f.d)) ∧
  ∀ f : LForm,
    Completes (.icmp f) f.g (codedLen false f) (fun _ p _ th =>
      let x := val f.ty (p.opA th .icmp f)
      let y := val f.ty (p.opB th .icmp f)
      let k := [decide (x = y), decide (x ≠ y), decide (x < y), decide (x ≤ y), decide (x > y)].getD f.f.toNat (decide (x ≥ y))
      let c := th.pred f.c.toNat
      let r := [k, k && c, k || c].getD f.m.toNat (xor k c)
      if f.d = 0 then [] else [RegWrite.p f.d.toNat r]) ∧
    Completes (.plop f) f.g (codedLen false f) (plop f) ∧
    Completes (.pmovGet f) f.g (codedLen false f) (get f.d) ∧
    Completes (.pmovSet f) f.g (codedLen false f) fun _ p _ th =>
      (List.range' 1 (if p.ctl then 7 else 15)).map fun i => RegWrite.p i (bitAt (p.opA th .pmov f) i)

/-- R247: SRD completes with the value that Table 8-5 gives the special register F, in the short form %tid, at the moment of
issue; nothing else changes. -/
def Sys2Proof.Claims.SpecialRegistersComplete : Prop :=
  (∀ f : SForm, Completes (.srdShort f) f.g 4 fun s p l _ => p.wr f.d .ui32 (special s p l 0 : Nat)) ∧
  ∀ f : LForm, f.f.toNat < 16 → Completes (.srd f) f.g (codedLen false f) fun s p l _ =>
    p.wr f.d (if f.f = 9 ∨ f.f = 14 ∨ f.f = 15 then .ui64 else .ui32) (special s p l f.f.toNat : Nat)

/-- Moves, selections, conversions, compares, predicate operations and SRD complete. -/
def Obligations.MovesAndPredicatesComplete : Prop := MovesComplete ∧ PredicatesComplete ∧ SpecialRegistersComplete

/-- R243 to R246: LXCH, GQRY, REDG and SCANG complete, every source read before any result is written; nothing else
changes. -/
def Obligations.GroupOperationsComplete : Prop :=
  let lxch := fun (f : LForm) (_ : State) (p : Path) (l : Nat) (th : Thread) => p.wr f.d f.ty (exchanged f p l th : Nat)
  let redg := fun (f : LForm) (_ : State) (p : Path) (_ : Nat) (_ : Thread) =>
    p.wr f.d f.ty (combAll f (votes p f.g fun th => p.opA th .redg f))
  let scang := fun (f : LForm) (_ : State) (p : Path) (l : Nat) (_ : Thread) =>
    p.wr f.d f.ty (combAll f ((votes p f.g fun th => p.opA th .scang f).filter fun e =>
      if f.m = 1 then decide (e.1 < l) else decide (e.1 ≤ l)))
  (∀ f : SForm,
    LaneCompletes (.lxchShort f) f.g 4 (lxch (f.long .ui32)) ∧ LaneCompletes (.gqryShort f) f.g 4 (query (f.long .ui32)) ∧
    LaneCompletes (.redgShort f) f.g 4 (redg (f.long .ui32)) ∧ LaneCompletes (.scangShort f) f.g 4 (scang (f.long .ui32))) ∧
  ∀ f : LForm,
    LaneCompletes (.lxch f) f.g (codedLen false f) (lxch f) ∧ LaneCompletes (.gqry f) f.g (codedLen false f) (query f) ∧
    LaneCompletes (.redg f) f.g (codedLen false f) (redg f) ∧ LaneCompletes (.scang f) f.g (codedLen false f) (scang f)

/-- R221, R222: the branches and calls complete: active threads write their link and go to the target, the others go to the
next instruction, and nothing else changes. -/
def Obligations.BranchesComplete : Prop :=
  let disp := fun (n : BitVec 18) (imm : Word) (_ : Path) (th : Thread) =>
    th.pc + BitVec.ofInt 64 (4 * (n.toInt + 2 ^ 18 * imm.toInt))
  let reg := fun (mj : Major) (f : LForm) (p : Path) (th : Thread) =>
    BitVec.ofNat 64 (p.opA th mj f) + BitVec.ofInt 64 f.w2.toInt
  let ret := fun (f : LForm) (p : Path) (th : Thread) =>
    if p.ctl then BitVec.ofNat 64 (p.reg th .r64 f.a false)
    else BitVec.ofNat 64 (bitsAt th.pc.toNat 56 34 * 2 ^ 34 + p.opA th .ret f % 2 ^ 32 * 4)
  (∀ g n, Branches (.braShort g n) g 4 (disp n 0) (fun _ => []) ∧
    Branches (.callShort g n) g 4 (disp n 0) (linkTo 62 31 4)) ∧
  (∀ f : SForm,
    Branches (.brxShort f) f.g 4 (reg .brx (f.long .ui32)) (fun _ => []) ∧
    Branches (.callxShort f) f.g 4 (reg .callx (f.long .ui32)) (linkTo f.d f.d 4) ∧
    Branches (.ret f) f.g 4 (ret (f.long .ui32)) (fun _ => [])) ∧
  ∀ f : LForm,
    Branches (.bra f) f.g 12 (disp f.n18 f.w2) (fun _ => []) ∧
    Branches (.call f) f.g 12 (disp f.n18 f.w2) (linkTo 62 31 12) ∧
    Branches (.brx f) f.g 12 (reg .brx f) (fun _ => []) ∧
    Branches (.callx f) f.g 12 (reg .callx f) (linkTo f.d f.d 12)

/-- R224: EXIT completes: each active lane, or the control thread, has ended, has given up its region, and has left its
reader count; the other lanes of the path go on; no other lane, no other workgroup and no byte of memory changes.
Inside an atomic region the step raises ILLEGAL_INSTR instead (log 29). -/
def Sys2Proof.Claims.ExitEndsThreads : Prop :=
  ∀ (f : SForm) s p s', s.path? = some (p, s') → ∃ t w,
    exec (.exit f) s = .next t ∧ t.wg? p.w.id.core p.w.id.slot = some w ∧
    (let off := fun (th : Thread) => ({ th with ended := true, rdepth := 0, region := none, wait := .none, outs := [], last := none } : Thread)
     if p.ctl then w.lanes = p.w.lanes ∧ w.ctl = if p.w.ctl.guard f.g then off p.w.ctl else Ahead p.w.ctl 4
     else w.ctl = p.w.ctl ∧
      (∀ l, l < 32 → p.mask.getLsbD l = true →
        w.lane? p.grp l = (p.w.lane? p.grp l).map fun th => if th.guard f.g then off th else Ahead th 4) ∧
      ∀ k, (∀ l, l < 32 → p.mask.getLsbD l = true → k ≠ 32 * p.grp + l) → tabGet w.lanes k = tabGet p.w.lanes k) ∧
    (let left := fun (par : Nat → Bool) => ((p.active f.g).filter fun e => e.2.rdepth != 0 && par e.2.rpar).length
     (t.core p.w.id.core).c0 = (s.core p.w.id.core).c0 - left (· == 0) ∧
     (t.core p.w.id.core).c1 = (s.core p.w.id.core).c1 - left (· != 0) ∧
     ∀ c, c ≠ p.w.id.core → t.core c = s.core c) ∧
    w.id = p.w.id ∧ w.groups = p.w.groups ∧ w.s = p.w.s ∧ w.csrs = p.w.csrs ∧
    (∀ k, k ≠ p.w.id.core * 8 + p.w.id.slot → tabGet t.wgs k = tabGet s.wgs k) ∧
    t.mem = s.mem ∧ t.parts = s.parts ∧ t.dev = s.dev ∧ t.fabric = s.fabric

/-- R225: SYNCG and SYNCG.GRP complete: each active lane has arrived at its barrier and waits at the instruction, a
guarded-off lane goes on, nothing else changes; and SYNCG_COMPLETE, once the arrivals are all the lanes that have not exited,
moves every waiting lane to the instruction after its SYNCG and begins a new generation. -/
def Sys2Proof.Claims.BarriersComplete : Prop :=
  let arrives := fun (i : Instr) (g : Guard) (n : Nat) (grpOnly : Bool) =>
    ∀ s p s', s.path? = some (p, s') → p.ctl = false → ∃ t, exec i s = .next t ∧
      LanesThen p t (fun _ th => if th.guard g then { th with wait := .barrier n } else Ahead th n) fun w =>
        let x := p.w.group p.grp
        s'.setWg (w.setGroup p.grp
          (if grpOnly then { x with waitGrp := x.waitGrp ||| held p g } else { x with waitAll := x.waitAll ||| held p g }))
  (∀ f : SForm, arrives (.syncgShort f) f.g 4 false) ∧
  (∀ f : LForm, arrives (.syncg f) f.g 12 false ∧ arrives (.syncgGrp f) f.g 12 true) ∧
  (∀ s core slot w g, Stands s core slot w → (w.group g).waitGrp ≠ 0 → (w.group g).waitGrp = w.living g →
    ∃ t w', exec (.syncgComplete core slot (some g)) s = .next t ∧ t = s.setWg w' ∧ (w'.group g).waitGrp = 0 ∧
      w'.ctl = w.ctl ∧ w'.s = w.s ∧ w'.csrs = w.csrs ∧
      (∀ l, l < 32 → w'.lane? g l = if (w.group g).waitGrp.getLsbD l then (w.lane? g l).map past else w.lane? g l) ∧
      ∀ h l, h ≠ g → l < 32 → w'.lane? h l = w.lane? h l) ∧
  ∀ s core slot w, Stands s core slot w → (∃ g, g < w.ngroups ∧ (w.group g).waitAll ≠ 0) →
    (∀ g, g < w.ngroups → (w.group g).waitAll = w.living g) →
    ∃ t w', exec (.syncgComplete core slot none) s = .next t ∧ t = s.setWg w' ∧
      w'.ctl = w.ctl ∧ w'.s = w.s ∧ w'.csrs = w.csrs ∧
      ∀ g, g < w.ngroups → (w'.group g).waitAll = 0 ∧
        ∀ l, l < 32 → w'.lane? g l = if (w.group g).waitAll.getLsbD l then (w.lane? g l).map past else w.lane? g l

/-- R227, R230: NOP completes and changes no more than the PC; YIELD too, but for the mark that keeps the path out of slot p1
at the group's next issue, made if the guard holds for some lane. -/
def Sys2Proof.Claims.NopAndYieldComplete : Prop :=
  (∀ f : SForm, Completes (.nopShort f) f.g 4 fun _ _ _ _ => []) ∧
  (∀ f : LForm, Completes (.nop f) f.g 12 fun _ _ _ _ => []) ∧
  ∀ (f : SForm) s p s', s.path? = some (p, s') → p.ctl = false → ∃ t, exec (.yield f) s = .next t ∧
    LanesThen p t (fun _ th => Ahead th 4) fun w =>
      s'.setWg (if held p f.g = 0 then w
        else w.setGroup p.grp { p.w.group p.grp with yielded := (p.w.group p.grp).yielded ||| p.mask })

/-- EXIT ends threads and returns their reader counts; SYNCG barriers gather and release; NOP and YIELD go on. -/
def Obligations.ThreadsEndMeetAndYield : Prop := ExitEndsThreads ∧ BarriersComplete ∧ NopAndYieldComplete

/-- R228: TRAP and, with no debugger attached or in a control thread (which has no BKPT in its stream, Table 8-1), BKPT complete:
with the guard held for some thread, every lane of the path stands at the next instruction and TRAP_INSTR or BREAKPOINT is raised
with the 32-bit code; otherwise nothing happens. -/
def Sys2Proof.Claims.TrapsAreRaised : Prop :=
  ∀ s p s', s.path? = some (p, s') →
    (∀ g (n : BitVec 18), Traps (.trapShort g n) 0x0F g 4 (n.setWidth 32) s p s') ∧
    (∀ f : LForm, Traps (.trap f) 0x0F f.g 12 (BitVec.ofNat 14 f.w2.toNat ++ f.n18) s p s') ∧
    (p.w.csrs.att = false ∨ p.ctl = true → ∀ g (n : BitVec 18), Traps (.bkpt g n) 0x0D g 4 (n.setWidth 32) s p s')

/-- R186: with ATT = 1, BKPT with its guard held for some lane halts its group; the breaking lanes stay at the BKPT, the
others of the path go on, and nothing else changes; with its guard held for no lane it does nothing (R228). -/
def Sys2Proof.Claims.BreakpointHaltsGroup : Prop :=
  ∀ g n s p s', s.path? = some (p, s') → p.ctl = false → p.w.csrs.att = true →
    (held p g = 0 → ∃ t, exec (.bkpt g n) s = .next t ∧ Effect p s' t g 4 fun _ _ => []) ∧
    (held p g ≠ 0 → ∃ t, exec (.bkpt g n) s = .next t ∧
      LanesThen p t (fun _ th => if th.guard g then th else Ahead th 4) fun w =>
        let x : Group := p.w.group p.grp
        s'.setWg (w.setGroup p.grp { x with halted := true, stepping := false, brk := x.brk ||| held p g }))

/-- TRAP and BKPT raise their causes, or halt the group with a debugger attached. -/
def Obligations.TrapsAndBreakpointsComplete : Prop := TrapsAreRaised ∧ BreakpointHaltsGroup

/-- R401, R402, Table 14-10: with HM = 0 and nothing outstanding of the control thread or of the trapped lanes, TRAP_ENTRY
takes the first cause of the lowest waiting group: TRAPPC is the control thread's PC, TRAPCAUSE and TRAPINFO give the cause,
HM is set and the control thread goes to TRAPVEC, what it waited for kept aside; nothing else changes. ERET with KILL = 0
goes back to TRAPPC, clears HM and lets the trapped group go on. ERET outside the handler raises ILLEGAL_INSTR, and with its guard not
held it does nothing. ERET with KILL = 1 ends the workgroup with TRAPCAUSE's cause (R85): with SV = 1 its threads have ended, HM and
KILL are clear and its running request is FAULTED; with SV = 0 every context of the fault domain halts with reason 4, once their
operations are settled, and until then it waits. That a wait goes on where the handler left TRAPPC is log 55, and that such a halt is
one step once nothing is in flight log 54. -/
def Sys2Proof.Claims.HandlerEntryAndReturn : Prop :=
  (∀ s core slot w g r, Stands s core slot w → w.ended = false → w.csrs.hm = false → w.ctl.outs = [] → w.ctlSusp = .none →
    w.ctlTrap = none → w.ctl.ended = false → w.csrs.trapvec ≠ 0 → g < w.ngroups → (w.group g).traps.head? = some r →
    (∀ h, h < g → (w.group h).traps = []) →
    (∀ l th, l < 32 → r.mask.getLsbD l = true → w.lane? g l = some th → th.outs = []) →
    exec (.trapEntry core slot) s = .next (s.setWg { w with
      csrs := { w.csrs with
        trappc := w.ctl.pc
        trapcause := BitVec.ofNat 64 (r.cause + r.sub * 2 ^ 8 + g % 32 * 2 ^ 21 + 2 ^ 26 + r.code.toNat * 2 ^ 32)
        trapinfo := r.info, hm := true }
      ctlHeld := if w.ctl.wait = .none then none else some (w.ctl.pc, w.ctl.wait)
      ctl := { w.ctl with pc := w.csrs.trapvec &&& ~~~3#64, wait := .none } })) ∧
  (∀ (f : SForm) s p s', s.path? = some (p, s') → p.ctl = true →
    (p.w.ctl.guard f.g = false → ∃ t, exec (.eret f) s = .next t ∧ Effect p s' t f.g 4 fun _ _ => []) ∧
    (p.w.ctl.guard f.g = true → p.w.csrs.hm = false → exec (.eret f) s = .next (p.raise s' (.plain 0x01) false))) ∧
  (∀ (f : SForm) s p s', Issues s p s' → p.ctl = true → p.w.ctl.guard f.g = true → p.w.csrs.hm = true → p.w.csrs.kill = true →
    let (pid, ctx) := (p.w.id.pid, p.w.id.ctx)
    (p.w.id.slotv.getLsbD 31 = true → ∀ c r, s'.ctx? pid ctx = some c → c.slot? (p.w.id.slotv.toNat % 1024) = some r → r.state = rqRunning →
      ∃ t w' c', exec (.eret f) s = .next t ∧ t.wg? p.w.id.core p.w.id.slot = some w' ∧ w'.ended = true ∧ w'.ctl.ended = true ∧
        (∀ e ∈ w'.lanes, e.2.ended = true) ∧ w'.csrs.hm = false ∧ w'.csrs.kill = false ∧ (∀ e ∈ w'.groups, e.2.susp = .none) ∧
        t.ctx? pid ctx = some c' ∧ c'.cstate = c.cstate ∧ c'.run = c.run ∧ c'.slot? (p.w.id.slotv.toNat % 1024) =
          some { r with state := rqFaulted, fcause := bitsAt p.w.csrs.trapcause.toNat 7 0, fsub := bitsAt p.w.csrs.trapcause.toNat 15 8 }) ∧
    (p.w.id.slotv.getLsbD 31 = false → ∀ P, s'.part? pid = some P →
      ((∃ e ∈ P.ctxs, s'.inDomain pid ctx e = true ∧ s'.quiet true pid e.1 = false) → exec (.eret f) s = .next { s' with cur := none }) ∧
      ((∀ e ∈ P.ctxs, s'.inDomain pid ctx e = true → s'.quiet true pid e.1 = true) →
        ∃ t, exec (.eret f) s = .next t ∧ ∀ e ∈ P.ctxs, s'.inDomain pid ctx e = true →
          ∃ c', t.ctx? pid e.1 = some c' ∧ c'.cstate = 4 ∧ c'.haltrsn = 4 ∧ c'.run = none ∧ c'.saved = [] ∧ t.ctxWgs pid e.1 = []))) ∧
  ∀ (f : SForm) s p s', s.path? = some (p, s') → p.ctl = true → p.w.ctl.guard f.g = true → p.w.csrs.hm = true →
    p.w.csrs.kill = false →
    ∃ gs, exec (.eret f) s = .next (s'.setWg { p.w with
        csrs := { p.w.csrs with hm := false }, ctlHeld := none, groups := gs
        ctl := { p.w.ctl with
          pc := p.w.csrs.trappc
          wait := match p.w.ctlHeld with
            | some (pc, x) => if pc = p.w.csrs.trappc then x else .none
            | none => .none } }) ∧
      if p.w.csrs.trapcause.getLsbD 26 then
        let g := bitsAt p.w.csrs.trapcause.toNat 25 21
        tabGet gs g = some { p.w.group g with traps := (p.w.group g).traps.drop 1 } ∧ ∀ h, h ≠ g → tabGet gs h = tabGet p.w.groups h
      else gs = p.w.groups

/-- R400: a handler cause of a lane path with no handler (TRAPVEC = 0, HM = 0) takes the fatal treatment: TRAPCAUSE and
TRAPINFO are written, HM, TRAPPC and the control thread's PC are not, and a fault record is on its way; the group waits for
it, also where it is suspended already by its other path.
A record's fields for it are those of log 30. -/
def Sys2Proof.Claims.UnhandledCauseIsFatal : Prop :=
  ∀ (s : State) (w : Wg) g r, w.csrs.trapvec = 0 → w.csrs.hm = false →
    let t := s.raiseLane w g r
    ∃ w' q, t.wg? w.id.core w.id.slot = some w' ∧ tabGet t.frecs s.tags = some q ∧
      w'.csrs = { w.csrs with
        trapcause := BitVec.ofNat 64 (r.cause + r.sub * 2 ^ 8 + g % 32 * 2 ^ 21 + 2 ^ 26 + r.code.toNat * 2 ^ 32)
        trapinfo := r.info } ∧
      w'.ctl = w.ctl ∧ w'.lanes = w.lanes ∧
      (if (w.group g).susp = .none then (w'.group g).susp = .fault s.tags ∧ w'.fails = w.fails
       else w'.groups = w.groups ∧ w'.fails = w.fails ++ [(s.tags, some g)]) ∧
      q.pid = w.id.pid ∧ q.core = w.id.core ∧ q.slot = w.id.slot ∧ q.source = 0 ∧ q.outcome = none ∧
      bitsAt q.bits.toNat 79 72 = r.cause % 256 ∧ bitsAt q.bits.toNat 71 64 = r.sub % 256 ∧
      bitsAt q.bits.toNat 191 128 = r.pc.toNat ∧ bitsAt q.bits.toNat 127 96 = r.mask.toNat ∧
      (r.cause ≠ 0x0E → bitsAt q.bits.toNat 255 192 = r.code.toNat) ∧ t.mem = s.mem

/-- Entry to the handler, the return by ERET, and the fatal treatment of an unhandled cause. -/
def Obligations.HandlersAreEnteredAndLeft : Prop := HandlerEntryAndReturn ∧ UnhandledCauseIsFatal

/-- R185, R229: DQPOP of a path with an active lane writes the value at the group's read position to the pair of every active
lane and moves the position by one; DQPUSH of a control thread whose guard holds appends its value. Each waits, changing
nothing but that it does not issue, while the queue is empty or holds 16 entries, and DQPOP of an empty queue raises
ILLEGAL_INSTR once the control thread has exited; the other lanes, the control thread's or the
lanes' state, the groups' other marks and memory do not change.
That an instruction with no active lane does not wait is log 36. -/
def Sys2Proof.Claims.DecisionQueue : Prop :=
  (∀ (f : SForm) s p s', s.path? = some (p, s') → p.ctl = false → held p f.g ≠ 0 → p.w.dqBase ≤ (p.w.group p.grp).dqPos →
    match p.w.dq[(p.w.group p.grp).dqPos - p.w.dqBase]? with
    | none => exec (.dqpop f) s = .next (if p.w.ctl.ended then p.raise s' (.plain 0x01) false else { s' with cur := none })
    | some e => ∃ t, exec (.dqpop f) s = .next t ∧
        LanesThen p t (fun _ th => Ahead (if th.guard f.g then put th (p.wr f.d .ui64 (e.value.toNat : Int)) else th) 4)
          fun w =>
            let x := p.w.group p.grp
            s'.setWg (w.setGroup p.grp { x with dqPos := x.dqPos + 1, sFloor := max x.sFloor e.seq }).trimQueue) ∧
  ∀ i f n, (i = .dqpush f ∧ n = codedLen false f) ∨ (∃ q : SForm, i = .dqpushShort q ∧ f = q.long .ui64 ∧ n = 4) →
    ∀ s p s', s.path? = some (p, s') → p.ctl = true → p.w.ctl.guard f.g = true →
      if 16 ≤ p.w.dq.length then exec i s = .next { s' with cur := none }
      else exec i s = .next (s'.setWg (Wg.trimQueue { p.w with
        dq := p.w.dq ++ [{ value := BitVec.ofNat 64 (p.opB p.w.ctl .dqpush f), seq := p.w.sSeq }]
        ctl := Ahead p.w.ctl n }))

/-- R185: freeing the entries that every group not wholly exited has popped keeps every entry that some such group has still
to pop at its position: a group finds there what it would have found. -/
def Sys2Proof.Claims.QueueTrimKeepsEntries : Prop :=
  ∀ (w : Wg) g, g < w.ngroups → w.living g ≠ 0 → w.dqBase ≤ (w.group g).dqPos →
    w.trimQueue.dqBase ≤ (w.group g).dqPos ∧
    ∀ k, w.trimQueue.dq[(w.group g).dqPos + k - w.trimQueue.dqBase]? = w.dq[(w.group g).dqPos + k - w.dqBase]?

/-- DQPUSH and DQPOP pass values in order, wait when full or empty, and freeing keeps what is still to be popped. -/
def Obligations.DecisionQueuePassesValues : Prop := DecisionQueue ∧ QueueTrimKeepsEntries

/-- R338 to R342, R348: FADD, FMUL, FFMA, FMINMAX and FDOT2 complete: operands decoded, flushed and modified, one exact
computation, one Encode under M; nothing else changes. -/
def Obligations.FloatArithmeticCompletes : Prop :=
  let fadd := fun (f : LForm) (_ : State) (p : Path) (_ : Nat) (th : Thread) =>
    p.wr32 f.d (rounded f f.ty (xadd (f.m.toNat % 4) (operand f 0 (ftz f) (p.opA th .fadd f)) (operand f 1 (ftz f) (p.opB th .fadd f))))
  let fmul := fun (f : LForm) (_ : State) (p : Path) (_ : Nat) (th : Thread) =>
    p.wr32 f.d (rounded f f.ty (xmul (operand f 0 (ftz f) (p.opA th .fmul f)) (operand f 1 (ftz f) (p.opB th .fmul f))))
  let fmm := fun (f : LForm) (_ : State) (p : Path) (_ : Nat) (th : Thread) =>
    p.wr32 f.d (encodeF (fmtOfTy f.ty)
      (chosen f.f.toNat (operand f 0 false (p.opA th .fminmax f)) (operand f 1 false (p.opB th .fminmax f))) 0 false false).1
  (∀ f : SForm,
    Completes (.faddShort f) f.g 4 (fadd (f.long .f32)) ∧ Completes (.fmulShort f) f.g 4 (fmul (f.long .f32)) ∧
    Completes (.fminmaxShort f) f.g 4 (fmm (f.long .f32))) ∧
  ∀ f : LForm,
    Completes (.fadd f) f.g (codedLen false f) (fadd f) ∧ Completes (.fmul f) f.g (codedLen false f) (fmul f) ∧
    Completes (.fminmax f) f.g (codedLen false f) (fmm f) ∧
    Completes (.ffma f) f.g (codedLen false f) (fun _ p _ th =>
      p.wr32 f.d (rounded f f.ty (xadd (f.m.toNat % 4)
        (xmul (operand f 0 (ftz f) (p.opA th .ffma f)) (operand f 1 (ftz f) (p.opB th .ffma f)))
        (operand f 2 (ftz f) (p.opC th .ffma f))))) ∧
    Completes (.fdot2 f) f.g 12 fun _ p _ th =>
      let a := p.opA th .fdot2 f
      let b := p.opB th .fdot2 f
      let el := source f.ty (ftz f)
      let rm := f.m.toNat % 4
      p.wr32 f.d (rounded f .f32 (xadd rm (xmul (el a) (el b)) (xadd rm (xmul (el (a / 2 ^ 16)) (el (b / 2 ^ 16)))
        (source .f32 (ftz f) (p.opC th .fdot2 f)))))

/-- R343, R344: FCMP and FCLASS complete: a relation with a NaN holds only as .NE and .NAN, −0 equals +0, the class of a is
looked up in Word 2; a write of p0 is discarded, and nothing else changes. -/
def Sys2Proof.Claims.FloatComparesComplete : Prop :=
  ∀ f : LForm,
    Completes (.fcmp f) f.g 12 (fun _ p _ th =>
      let x := operand f 0 false (p.opA th .fcmp f)
      let y := operand f 1 false (p.opB th .fcmp f)
      let num := !x.isNan && !y.isNan
      let lt := xlt x y
      let gt := xlt y x
      let k := [num && !lt && !gt, !(num && !lt && !gt), num && lt, num && !gt, num && gt, num && !lt, num].getD f.f.toNat (!num)
      let c := th.pred f.c.toNat
      let r := [k, k && c, k || c].getD f.m.toNat (xor k c)
      if f.d = 0 then [] else [RegWrite.p f.d.toNat r]) ∧
    Completes (.fclass f) f.g 12 fun _ p _ th =>
      if f.d = 0 then [] else [RegWrite.p f.d.toNat (f.w2.getLsbD (classOf f.ty (p.opA th .fclass f)))]

/-- R345 to R350: FCVT, FCVTI, ICVTF, PACK and UNPACK complete with the values of those rules; nothing else changes. -/
def Sys2Proof.Claims.ConversionsComplete : Prop :=
  ∀ f : LForm,
    let src := tyOfCode f.f.toNat
    let ew := tyWidth f.ty
    Completes (.fcvt f) f.g 12 (fun _ p _ th => p.wr32 f.d (rounded f f.ty (source src (ftz f) (p.opA th .fcvt f)))) ∧
    Completes (.fcvti f) f.g 12 (fun _ p _ th =>
      p.wr f.d f.ty (match source src false (p.opA th .fcvti f) with
        | .nan => 0
        | .inf s => if s then tyMin f.ty else tyMax f.ty
        | .fin s n d =>
          let m : Int := roundQ (f.m.toNat % 4) s n d
          clampTy (if s then -m else m) f.ty)) ∧
    Completes (.icvtf f) f.g 12 (fun _ p _ th =>
      let x := val src (p.opA th .icvtf f)
      p.wr32 f.d (rounded f f.ty (.fin (decide (x < 0)) x.natAbs 1))) ∧
    Completes (.pack f) f.g 12 (fun _ p _ th =>
      let conv := fun (x : Nat) =>
        if packFloat f.ty then rounded f f.ty (source .f32 (ftz f) x) else wrapN ew (clampTy (sx 32 x) f.ty)
      let lo := 2 * ew * f.f.toNat
      p.wr32 f.d (bitsOfFn 32 fun i =>
        if lo ≤ i ∧ i < lo + ew then bitAt (conv (p.opA th .pack f)) (i - lo)
        else if lo + ew ≤ i ∧ i < lo + 2 * ew then bitAt (conv (p.opB th .pack f)) (i - lo - ew)
        else ew != 16 && bitAt (p.opC th .pack f) i)) ∧
    Completes (.unpack f) f.g 12 fun _ p _ th =>
      let x := p.opA th .unpack f / 2 ^ (ew * f.f.toNat) % 2 ^ ew
      p.wr32 f.d (if packFloat f.ty then enc32 (decodeF (fmtOfTy f.ty) x) else wrapN 32 (val f.ty x))

/-- R351: with the read right and the format CB4 in the core's copy of the descriptor, CBDEC completes: each active lane
takes the codebook's entry for its nibble as an F32 value, and but for the descriptor cache nothing else changes; held for no
lane, it reads no descriptor. -/
def Sys2Proof.Claims.CodebookDecodeCompletes : Prop :=
  ∀ (f : LForm) s p s', s.path? = some (p, s') → p.ctl = false →
    (held p f.g = 0 → ∃ t, exec (.cbdec f) s = .next t ∧ LanesBecome p s' t fun _ th => Ahead th 12) ∧
    ∀ d s2, held p f.g ≠ 0 → s'.descriptor p.w.id.core p.w.id.pid (f.w2.toNat / 2 ^ 16) = (some d, s2) → d.rd = true →
      d.fmt = 0x08 → d.fmtOk = true →
      s2 = { s' with cores := s2.cores } ∧ ∃ t, exec (.cbdec f) s = .next t ∧ LanesBecome p s2 t fun _ th => Ahead
        (if th.guard f.g then put th (p.wr32 f.d (enc32 (decodeF fBF16
          (d.bits.toNat / 2 ^ (1152 + 16 * (p.opA th .cbdec f / 2 ^ (4 * f.f.toNat) % 16)) % 2 ^ 16)))) else th) 12

/-- Floating-point compares, classes, conversions, packing and codebook decoding complete. -/
def Obligations.FloatComparesAndConversionsComplete : Prop := FloatComparesComplete ∧ ConversionsComplete ∧ CodebookDecodeCompletes

/-- R201, R352 to R354: EX2, LG2, RCP and RSQ complete with the result that Table 12-4 and the functions of R353 and R354 give
the operand after its modifiers, written at once or, with LA > 0, when the instruction completes. That LG2 and RSQ round the
exact value is the reading of log 12. -/
def Sys2Proof.Claims.TranscendentalsComplete1 : Prop :=
  let rows := fun (mj : Major) (g : XVal → XVal) (f : LForm) (p : Path) (th : Thread) =>
    (encodeF fF32 (g (operand f 0 (ftz f) (p.opA th mj f))) 0 (ftz f) false).1
  let ex2 := fun (x : XVal) => match x with
    | .nan => .nan | .inf s => if s then xzero else .inf false | y => exp2Val y
  let lg2 := fun (x : XVal) => match x with
    | .nan => .nan | .inf s => if s then .nan else .inf false
    | .fin s n d => if n = 0 then .inf true else if s then .nan else log2Val n d
  let rcp := fun (x : XVal) => xdiv (.fin false 1 1) x
  let rsq := fun (x : XVal) => match x with
    | .nan => .nan | .inf s => if s then .nan else xzero
    | .fin s n d => if n = 0 then .inf s else if s then .nan else rsqVal n d
  (∀ f : SForm,
    LongCompletes (.ex2Short f) (f.long .f32) 4 (rows .ex2 ex2 (f.long .f32)) ∧
    LongCompletes (.lg2Short f) (f.long .f32) 4 (rows .lg2 lg2 (f.long .f32)) ∧
    LongCompletes (.rcpShort f) (f.long .f32) 4 (rows .rcp rcp (f.long .f32)) ∧
    LongCompletes (.rsqShort f) (f.long .f32) 4 (rows .rsq rsq (f.long .f32))) ∧
  ∀ f : LForm,
    LongCompletes (.ex2 f) f 12 (rows .ex2 ex2 f) ∧ LongCompletes (.lg2 f) f 12 (rows .lg2 lg2 f) ∧
    LongCompletes (.rcp f) f 12 (rows .rcp rcp f) ∧ LongCompletes (.rsq f) f 12 (rows .rsq rsq f)

/-- R201, R203, R253: LONG_LATENCY_COMPLETE of a lane, or of the control thread, writes the results of the outstanding
instruction to its registers and takes it from what is outstanding; one with results for several registers may have one of them
written and the others left, as a choice has it, and then no load before it can be made again. The other lanes, and everything
else, stay. -/
def Sys2Proof.Claims.LongLatencyCompletes : Prop :=
  (∀ s core slot w g l th tag o, Stands s core slot w → l < 32 → w.lane? g l = some th →
    (th.outs.find? fun o => o.tag == tag && o.ready) = some o → (∀ n x, RegWrite.s n x ∉ o.writes) →
    (∀ e ∈ w.groupLanes g, ∀ y ∈ e.2.outs, y.ready = true ∨ y.reissue = none) →
    let becomes := fun (s1 : State) (th' : Thread) => ∃ ls,
      exec (.longLatencyComplete (.lanes core slot g (1#32 <<< l)) tag) s = .next (s1.setWg { w with lanes := ls }) ∧
      tabGet ls (32 * g + l) = some th' ∧ ∀ k, k ≠ 32 * g + l → tabGet ls k = tabGet w.lanes k
    (th.parts tag = false → becomes s (put (th.dropOut tag) o.writes)) ∧
    (1 < o.writes.length →
      let n := s.choose.1 % (o.writes.length + 1)
      (n = 0 → becomes s.choose.2 (put (th.dropOut tag) o.writes)) ∧
      ∀ x, 0 < n → o.writes[n - 1]? = some x → becomes s.choose.2 (put (lessOne th tag x) [x]))) ∧
  ∀ s core slot w tag o, Stands s core slot w → (w.ctl.outs.find? fun o => o.tag == tag && o.ready) = some o →
    (∀ y ∈ w.ctl.outs, y.ready = true ∨ y.reissue = none) →
    let becomes := fun (s1 : State) (th' : Thread) (ws : List RegWrite) => ∃ lg k,
      exec (.longLatencyComplete (.ctrl core slot) tag) s =
        .next (s1.setWg { w with ctl := put th' ws, s := putS w.s ws, sLog := lg, sSeq := k })
    (w.ctl.parts tag = false → becomes s (w.ctl.dropOut tag) o.writes) ∧
    (1 < o.writes.length →
      let n := s.choose.1 % (o.writes.length + 1)
      (n = 0 → becomes s.choose.2 (w.ctl.dropOut tag) o.writes) ∧
      ∀ x, 0 < n → o.writes[n - 1]? = some x → becomes s.choose.2 (lessOne w.ctl tag x) [x])

/-- EX2, LG2, RCP and RSQ complete with the correctly rounded result (log 12 for LG2 and RSQ), now or when their latency ends
(log 15). -/
def Obligations.TranscendentalsComplete : Prop := TranscendentalsComplete1 ∧ LongLatencyCompletes

/-- R314, R315, R326 to R328: in every floating-point format, whatever the rounding mode, encoding the decoded value of a
code that is not a NaN without flushing gives the code again: a value exact in the format is reproduced. -/
def Sys2Proof.Claims.EncodeDecodeIsExact : Prop :=
  ∀ g ∈ [fF32, fF16, fBF16, fE4M3, fE5M2, fE2M1], ∀ b rm satm, b < 2 ^ g.width → decodeF g b ≠ .nan →
    (encodeF g (decodeF g b) rm false satm).1 = b

/-- R326: rounding to nearest leaves no nearer code: for a positive fraction x = n / d that does not overflow, no code of the
format has a value nearer to x than the code that Encode gives under RNE. -/
def Sys2Proof.Claims.RoundingIsNearest : Prop :=
  ∀ g ∈ [fF32, fF16, fBF16, fE4M3, fE5M2, fE2M1], ∀ n d c, 0 < d → c ≤ g.top → roundCode g 0 false n d ≤ g.top →
    let off := fun (c : Nat) => match decodeF g c with | .fin _ m e => let x : Rat := m / e - n / d; if x < 0 then -x else x | _ => 0
    off (encodeF g (.fin false n d) 0 false false).1 ≤ off c

/-- Encoding a decoded value gives its code again, and encoding a fraction gives a nearest code. -/
def Obligations.EncodingRoundsToNearest : Prop := EncodeDecodeIsExact ∧ RoundingIsNearest

/-- R281, R284 (LD, ST, LDNR), R86 (the 0 and the false predicate of an LDNR that meets a cause), R391 (PUBLISH): LD, ST, LDNR and
PUBLISH complete when every active lane may make its access: LD gives each lane the bytes at its address, extended as the form
says; ST and PUBLISH write each lane's bytes, lane after lane; LDNR gives each lane its bytes and a true predicate, or 0 and a
false one; nothing else changes but what the translations do. Each access is performed whole at its step (log 3). -/
def Obligations.LoadsAndStoresComplete : Prop :=
  ∀ (f : LForm) s p s', Issues s p s' → Plain p f →
    (∀ vs s2, loadsOf .ld f p (2 ^ f.size) (p.gather (.ld f) .ld f).lanes s' = some (vs, s2) →
      ∃ t, exec (.ld f) s = .next t ∧ Performed p s2 t f f.la.toNat (f.la == 0) (some { p.gather (.ld f) .ld f with la := 0 })
        (results vs fun x => p.wrLoad f.d (2 ^ f.size) (f.f.getLsbD 3) x)) ∧
    (∀ vs s2, storesOf .st f p (2 ^ f.size) (p.gather (.st f) .st f).lanes s' = some (vs, s2) →
      ∃ t, exec (.st f) s = .next t ∧ Performed p s2 t f f.la.toNat false none (results vs fun _ => [])) ∧
    (∀ vs s2, storesOf .publish f p 8 (p.gather (.publish f) .publish f).lanes s' = some (vs, s2) →
      ∃ t, exec (.publish f) s = .next t ∧ Performed p s2 t f f.la.toNat false none (results vs fun _ => [])) ∧
    ∀ vs s2, eachLane (fun s o =>
        match placed p 0 (eaOf .ldnr f o.a.toNat) (2 ^ f.size) .read s o.lane with
        | some (.mem pa, s1) => some (some (s1.phys pa (2 ^ f.size)), s1)
        | some (_, s1) => some (none, s1)
        | none => some (none, s)) (p.gather (.ldnr f) .ldnr f).lanes s' = some (vs, s2) →
      ∃ t, exec (.ldnr f) s = .next t ∧ Performed p s2 t f f.la.toNat (f.la == 0) (some { p.gather (.ldnr f) .ldnr f with la := 0 })
        (results vs fun x => match x with
          | some v => p.wrLoad f.d (2 ^ f.size) (f.f.getLsbD 3) v ++ wrPred f.c true
          | none => p.wrLoad f.d (2 ^ f.size) false 0 ++ wrPred f.c false)

/-- R286: LDT and STT complete when every active lane's element lies inside its descriptor and may be accessed: LDT gives the
element zero-extended, STT writes its low bytes; nothing else changes but the descriptor cache and what the translations do. -/
def Sys2Proof.Claims.TensorAccessesComplete : Prop :=
  ∀ (f : LForm) s p s' d s1, Issues s p s' → Plain p f → s'.descriptor p.w.id.core p.w.id.pid (f.w2.toNat / 2 ^ 16) = (some d, s1) →
    held p f.g ≠ 0 →
    let at_ := fun (acc : Acc) (s : State) (o : LaneOp) =>
      match elementAddr (some d) (f.w2.toNat / 2 ^ 16) acc f.space (ldtCoord f o) with
      | .ok ea => placed p f.space ea (d.ew / 8) acc s o.lane
      | .error _ => none
    (∀ vs s2, eachLane (fun s o => (at_ .read s o).map fun x => (x.2.spotNat x.1 (d.ew / 8), x.2))
        (p.gather (.ldt f) .ldt f).lanes s1 = some (vs, s2) →
      ∃ t, exec (.ldt f) s = .next t ∧ Performed p s2 t f f.la.toNat (f.la == 0) (some { p.gather (.ldt f) .ldt f with la := 0 })
        (results vs fun x => p.wr32 f.d x)) ∧
    ∀ vs s2, eachLane (fun s o => (at_ .write s o).map fun x => ((), x.2.spotWrite x.1 (bytesOf (d.ew / 8) o.b.toNat)))
        (p.gather (.stt f) .stt f).lanes s1 = some (vs, s2) →
      ∃ t, exec (.stt f) s = .next t ∧ Performed p s2 t f f.la.toNat false none (results vs fun _ => [])

/-- R296, R303, R304, R308: FENCE, FENCE.ALIAS and PFETCH complete and write no register; WOPEN gives 2 for a bad offset, 1 for
an entry that another workgroup holds, and otherwise 0 with the entry held; WCLOSE frees an entry that the workgroup holds and
gives 0, or gives 1.
FENCE orders nothing in the model (log 3). -/
def Sys2Proof.Claims.FencesAndWindowsComplete : Prop :=
  (∀ f : LForm, Completes (.fence f) f.g 12 (fun _ _ _ _ => []) ∧ Completes (.fenceAlias f) f.g 12 (fun _ _ _ _ => [])) ∧
  (∀ (f : LForm) s p s', s.path? = some (p, s') → ∃ t s2, exec (.pfetch f) s = .next t ∧
    Effect p s2 t f.g (codedLen false f) (fun _ _ => []) ∧
    s2.wgs = s'.wgs ∧ s2.cores = s'.cores ∧ s2.parts = s'.parts ∧ s2.dev = s'.dev ∧ s2.fabric = s'.fabric) ∧
  ∀ (f : LForm) s p s', s.path? = some (p, s') → p.ctl = true → p.w.ctl.guard f.g = true →
    let k := f.w2.toNat % 128
    let o := p.opA p.w.ctl .wopen f % 2 ^ 32
    let mine := fun (x : Window) => x.pid = p.w.id.pid ∧ x.ctx = p.w.id.ctx ∧ x.wgs = p.w.id.slot
    let core := s'.core p.w.id.core
    let ends := fun (i : Instr) (s2 : State) (st : Nat) =>
      ∃ t, exec i s = .next t ∧ Effect p s2 t f.g 12 fun _ _ => p.wr f.d .ui64 (st : Int)
    (o % 128 ≠ 0 ∨ 4096 * p.w.id.scr < o + 128 ∨ p.w.fifoAt o ≠ none → ends (.wopen f) s' 2) ∧
    (o % 128 = 0 → o + 128 ≤ 4096 * p.w.id.scr → p.w.fifoAt o = none →
      (∀ x, tabGet core.windows k = some x → ¬ mine x → ends (.wopen f) s' 1) ∧
      ((∀ x, tabGet core.windows k = some x → mine x) → ends (.wopen f) (s'.setCore p.w.id.core { core with
        windows := tabSet core.windows k { ctx := p.w.id.ctx, pid := p.w.id.pid, wgs := p.w.id.slot, sw := f.w2.getLsbD 8
                                           wcore := f.w2.toNat / 2 ^ 9 % 4, offs := o / 128 } }) 0)) ∧
    (∀ x, tabGet core.windows k = some x → mine x →
      ends (.wclose f) (s'.setCore p.w.id.core { core with windows := tabDel core.windows k }) 0) ∧
    ((∀ x, tabGet core.windows k = some x → ¬ mine x) → ends (.wclose f) s' 1)

/-- R309: DISCARD of an aligned range completes with the count of pages that it newly discarded, once no page of the range
forbids it; SYS.TDSET writes the 256 bytes at its address as the descriptor it names, and every cached copy of it is gone. -/
def Sys2Proof.Claims.DiscardAndDescriptorWriteComplete : Prop :=
  ∀ (f : LForm) s p s' c, Issues s p s' → p.ctl = true → p.w.ctl.guard f.g = true → p.w.csrs.watchctl.getLsbD 0 = false →
    s'.ctx? p.w.id.pid p.w.id.ctx = some c →
    (let ea := eaOf .discard f (BitVec.ofNat 64 (p.opA p.w.ctl .discard f)).toNat
     let len := p.opB p.w.ctl .discard f % 2 ^ 64
     ∀ ds s2, ea % 4096 = 0 → len % 4096 = 0 → len < 2 ^ 57 →
       s'.discardFrom p.who c.l4base (len / 4096) 0 ea [] = (.ok ds, s2) →
       ∃ t, exec (.discard f) s = .next t ∧ Performed p s2 t f f.la.toNat false none [(0, p.wr f.d .ui64 (ds.length : Int))]) ∧
    let ea := (BitVec.ofNat 64 (p.opA p.w.ctl .sys f)).toNat
    ∀ bs s2, ea % 16 = 0 → p.readBytes s' ea 16 = (.ok bs, s2) → (∃ q, s2.part? p.w.id.pid = some q) →
      ∃ t q, exec (.sysTdset f) s = .next t ∧ t.part? p.w.id.pid = some q ∧ t.mem = s2.mem ∧
        tabGet q.descs (f.w2.toNat / 2 ^ 16) = some (BitVec.ofNat 2048 (ofBytes bs)) ∧
        ∀ e ∈ t.cores, ∀ d ∈ e.2.dcache, d.id ≠ p.w.id.pid * 65536 + f.w2.toNat / 2 ^ 16

/-- LDT, STT, FENCE, PFETCH, WOPEN, WCLOSE, DISCARD and SYS.TDSET complete. -/
def Obligations.TensorAndFenceAccessesComplete : Prop := TensorAccessesComplete ∧ FencesAndWindowsComplete ∧ DiscardAndDescriptorWriteComplete

/-- R287 to R289: ATOM, CAS and SCADD, on .G or .SP, complete when every active lane may make its access: ATOM and CAS
update location by location, the lanes that name one in lane order, each on the value the one before left, and a CAS that fails makes
a read only; ATOM without .NR and CAS give the old value;
SCADD sums the addends of each distinct effective address in lane order and adds the sum to its location once.
Each lane's update is performed at its step (log 3). -/
def Sys2Proof.Claims.AtomicUpdatesComplete : Prop :=
  ∀ (f : LForm) s p s', Issues s p s' → p.w.csrs.watchctl.getLsbD 0 = false →
    let n := tyWidth f.ty / 8
    (∀ vs s2, updatesOf .atom f p n (fun o m => atomNew (f.low5 % 16) f.ty m o.b.toNat) (p.gather (.atom f) .atom f).lanes s'
          = some (vs, s2) →
      ∃ t, exec (.atom f) s = .next t ∧ Performed p s2 t f f.la.toNat false none
        (results vs fun m => if f.f.getLsbD 4 then [] else p.wr f.d f.ty (m : Int))) ∧
    (∀ vs s2, swapsOf f p n (p.gather (.cas f) .cas f).lanes s' = some (vs, s2) →
      ∃ t, exec (.cas f) s = .next t ∧ Performed p s2 t f f.la.toNat false none (results vs fun m => p.wr f.d f.ty (m : Int))) ∧
    ∀ vs s2, eachLane (fun s o => placed p f.space (eaOf .scadd f o.a.toNat) 4 .atomic s o.lane)
        (p.gather (.scadd f) .scadd f).lanes s' = some (vs, s2) →
      let ea := fun (o : LaneOp) => eaOf .scadd f o.a.toNat
      let at_ := fun (a : Nat) => (vs.zip (p.gather (.scadd f) .scadd f).lanes).filter fun e => ea e.2 == a
      ∃ t, exec (.scadd f) s = .next t ∧ Performed p
        (((p.gather (.scadd f) .scadd f).lanes.map ea).eraseDups.foldl (fun s a =>
          match at_ a with
          | [] => s
          | e :: es => s.spotWrite e.1.2
              (bytesOf 4 (summed f.ty (s.spotNat e.1.2 4) ((e :: es).map fun y => y.2.b.toNat % 2 ^ 32)))) s2)
        t f f.la.toNat false none (results vs fun _ => [])

/-- R289: lanes of one SCADD on one location of the scratchpad that are added as integers leave there the sum of the old value
and every addend, mod 2^32. -/
def Sys2Proof.Claims.ScatterAddSums : Prop :=
  ∀ (f : LForm) s p s' ea, Issues s p s' → p.ctl = false → f.space = 1 → f.ty ≠ .f32 →
    p.w.csrs.watchctl.getLsbD 0 = false → cellsWf p.w.scratch = true → ea % 4 = 0 → ea + 4 ≤ 4096 * p.w.id.scr → p.w.fifoAt ea = none →
    held p f.g ≠ 0 → (∀ o ∈ (p.gather (.scadd f) .scadd f).lanes, eaOf .scadd f o.a.toNat = ea) →
    let word := fun (s : State) => s.spotNat (.sp p.w.id.core p.w.id.slot ea) 4
    ∃ t, exec (.scadd f) s = .next t ∧ t.mem = s.mem ∧
      word t = (word s + ((p.gather (.scadd f) .scadd f).lanes.map fun o => o.b.toNat % 2 ^ 32).sum) % 2 ^ 32

/-- R292 to R294: ALB opens a region of its line in every active lane; LD and ST inside a region read the held bytes or record
what they read, and hold what they write; ALE, once no byte of a region meets an uncorrectable error, closes every region,
writes the held bytes and gives true if nothing has touched what was recorded, and gives false otherwise, at once where an
invalidation has covered the line (a region LD then reads the line as it was at that time, log 154, DESIGN CHOICE). -/
def Sys2Proof.Claims.RegionsComplete : Prop :=
  ∀ (f : LForm) s p s', Issues s p s' → p.ctl = false → p.w.csrs.watchctl.getLsbD 0 = false →
    (∀ vs s2, eachLane (fun s o =>
        let line := eaOf .alb f o.a.toNat / 128 * 128
        match p.place s o.lane line .atomic false with
        | (.ok (.mem pa), s) => some ((), s.setRegion p o.lane (some
            { line := BitVec.ofNat 64 line, pa := pa, alb := p.pc, recs := [], held := [], accesses := 0, instrs := 0, stale := none }))
        | _ => none) (p.gather (.alb f) .alb f).lanes s' = some (vs, s2) →
      ∃ t, exec (.alb f) s = .next t ∧ Performed p s2 t f f.la.toNat false none (results vs fun _ => [])) ∧
    (∀ n, n = 2 ^ f.size → (∀ e ∈ p.active f.g, ∃ r, e.2.region = some r) →
      (∀ o ∈ (p.gather (.ld f) .ld f).lanes, ∀ r, p.region o.lane = some r →
        eaOf .ld f o.a.toNat % n = 0 ∧ r.bars (eaOf .ld f o.a.toNat) n = false ∧
        (r.stale = none → s'.eccSub (r.pa + (eaOf .ld f o.a.toNat - r.line.toNat)) n true = none)) →
      f.space = 0 → ∀ vs s2, eachLane (fun s o => ((p.reload s).region o.lane).map fun r =>
        let x := r.load s.mem (eaOf .ld f o.a.toNat) n
        (ofBytes x.1, s.setRegion p o.lane (some x.2))) (p.gather (.ld f) .ld f).lanes s' = some (vs, s2) →
      ∃ t, exec (.ld f) s = .next t ∧ t.mem = s.mem ∧ Performed p s2 t f f.la.toNat true none
        (results vs fun x => p.wrLoad f.d n (f.f.getLsbD 3) x)) ∧
    (∀ n, n = 2 ^ f.size → (∀ e ∈ p.active f.g, ∃ r, e.2.region = some r) →
      (∀ o ∈ (p.gather (.st f) .st f).lanes, ∀ r, p.region o.lane = some r →
        eaOf .st f o.a.toNat % n = 0 ∧ r.bars (eaOf .st f o.a.toNat) n = false) →
      f.space = 0 → ∀ vs s2, eachLane (fun s o => ((p.reload s).region o.lane).map fun r =>
        ((), s.setRegion p o.lane (some (r.store (eaOf .st f o.a.toNat) (bytesOf n o.b.toNat)))))
          (p.gather (.st f) .st f).lanes s' = some (vs, s2) →
      ∃ t, exec (.st f) s = .next t ∧ t.mem = s.mem ∧ Performed p s2 t f f.la.toNat false none (results vs fun _ => [])) ∧
    ((∀ e ∈ p.active f.g, ∃ r, e.2.region = some r) →
      ∀ vs s2, eachLane (fun s o => ((p.reload s).region o.lane).bind fun r =>
        let here := fun (a : Nat) => r.pa + (a - r.line.toNat)
        let good := r.stale.isNone && r.recs.all fun e => cellGet (w := 8) s.mem (here e.1) == e.2
        let mem := if good then r.held.foldl (fun (m : Memory) e => cellSet (w := 8) m (here e.1) e.2) s.mem else s.mem
        if r.stale.isSome ∨ (∀ e ∈ r.recs, s.eccSub (here e.1) 1 true = none) ∧ (∀ e ∈ r.held, s.eccSub (here e.1) 1 false = none) then
          some (good, { s with mem := mem }.setRegion p o.lane none) else none) (p.gather (.ale f) .ale f).lanes s' = some (vs, s2) →
      ∃ t, exec (.ale f) s = .next t ∧ Performed p s2 t f f.la.toNat false none (results vs fun good => wrPred f.d good))

/-- ATOM, CAS, SCADD and atomic regions complete, lane after lane. -/
def Obligations.AtomicsComplete : Prop := AtomicUpdatesComplete ∧ ScatterAddSums ∧ RegionsComplete

/-- R298 to R300: LVINIT writes TARGET, MODE and FILL 0 and keeps PHC; an LVARV on an object that may take it, in ARR and in BYTES
mode, counts FILL up by its operand, or ends as many phases as that fills, and gives the phase it found; LVWAIT of lanes whose
objects have all moved on passes, and otherwise every lane of it waits. -/
def Sys2Proof.Claims.LevelOperationsComplete : Prop :=
  ∀ (f : LForm) s p s', Issues s p s' → p.w.csrs.watchctl.getLsbD 0 = false →
    (∀ vs s2, (∀ o ∈ (p.gather (.lvinit f) .lvinit f).lanes, o.b.toNat % 2 ^ 32 ≠ 0) →
      eachLane (fun s o => (placed p 0 (eaOf .lvinit f o.a.toNat) 16 .write s o.lane).map fun x =>
        ((), x.2.spotWrite x.1 (bytesOf 16 (o.b.toNat % 2 ^ 32 + lvPhc (x.2.spotNat x.1 16) * 2 ^ 64 + f.f.toNat % 2 * 2 ^ 96))))
        (p.gather (.lvinit f) .lvinit f).lanes s' = some (vs, s2) →
      ∃ t, exec (.lvinit f) s = .next t ∧ Performed p s2 t f f.la.toNat false none (results vs fun _ => [])) ∧
    (∀ vs s2, eachPlace (fun o => eaOf .lvarv f o.a.toNat) (fun s o => (placed p 0 (eaOf .lvarv f o.a.toNat) 16 .atomic s o.lane).bind fun x =>
        let v := x.2.spotNat x.1 16
        if lvTarget v = 0 ∨ lvTarget v ≤ lvFill v then none
        else some (lvPhc v, x.2.spotWrite x.1 (bytesOf 16 (arrivedBy v (o.b.toNat % 2 ^ 32)))))
          (p.gather (.lvarv f) .lvarv f).lanes s' = some (vs, s2) →
      ∃ t, exec (.lvarv f) s = .next t ∧ Performed p s2 t f f.la.toNat false none (results vs fun x => p.wr32 f.d x)) ∧
    ∀ vs s2, eachLane (fun s o => (placed p 0 (eaOf .lvwait f o.a.toNat) 16 .read s o.lane).bind fun x =>
        let v := x.2.spotNat x.1 16
        if lvTarget v = 0 then none else some (lvPhc v != o.b.toNat % 2 ^ 32, x.2)) (p.gather (.lvwait f) .lvwait f).lanes s'
          = some (vs, s2) →
      (vs.all (·.2) = true → ∃ t, exec (.lvwait f) s = .next t ∧ Performed p s2 t f f.la.toNat true none (results vs fun _ => [])) ∧
      (vs.all (·.2) = false → ∃ t w, exec (.lvwait f) s = .next t ∧ t.wg? p.w.id.core p.w.id.slot = some w ∧ t.mem = s2.mem ∧
        ∀ o ∈ (p.gather (.lvwait f) .lvwait f).lanes, ∃ th0 th, p.thread o.lane = some th0 ∧
          (if p.ctl then some w.ctl else w.lane? p.grp o.lane) = some th ∧ th.pc = th0.pc ∧ th.wait = .level (BitVec.ofNat 64 (eaOf .lvwait f o.a.toNat)) (BitVec.ofNat 32 o.b.toNat)
            (maskOfLanes ((p.gather (.lvwait f) .lvwait f).lanes.map (·.lane))) (maskOfLanes p.lanes) (codedLen false f))

/-- R300: LVWAIT_COMPLETE ends the wait of a control thread whose object's PHC has changed: it goes past its LVWAIT. -/
def Sys2Proof.Claims.LevelWaitEnds : Prop :=
  ∀ s core slot w ea phc m path n bs s1, Stands s core slot w → w.ctl.wait = .level ea phc m path n →
    s.engRead w.id false ea.toNat 16 = (.ok bs, s1) → lvPhc (ofBytes bs) ≠ phc.toNat →
    w.watches .read ea.toNat 16 = false →
    exec (.lvwaitComplete (.ctrl core slot)) s = .next (s1.setWg { w with ctl := { Ahead w.ctl n with wait := .none } })

/-- R301, R302: once the control thread's engine operations have completed, SSTEP.DEV, and SSTEP.FAB in a partition of a fabric
group, arrive at a level object that may take an arrival: the last arrival of a device passes, or, on the fabric, goes to the
counter group; an earlier one waits for the phase to end. In a partition with FABRIC = 0, SSTEP.FAB of a control thread that waits
for nothing (a suspended one issues no instruction, R80) meets the cause REMOTE_DENIED at once, whatever is in flight, and changes
no memory. -/
def Sys2Proof.Claims.SuperstepArrives : Prop :=
  (∀ (f : LForm) s p s' q, Issues s p s' → p.ctl = true → p.w.ctlSusp = .none → p.w.ctl.guard f.g = true → f.s = 3 →
    s'.part? p.w.id.pid = some q → q.fabric = false →
    ∃ t w k r, exec (.sstepFab f) s = .next t ∧ t.mem = s'.mem ∧ t.wg? p.w.id.core p.w.id.slot = some w ∧
      w.ctl.pc = p.w.ctl.pc ∧ w.ctlSusp = .fault k ∧ tabGet t.frecs k = some r ∧ bitsAt r.bits.toNat 79 72 = 0x06 ∧
      bitsAt r.bits.toNat 71 64 = 6 ∧ bitsAt r.bits.toNat 191 128 = p.w.ctl.pc.toNat) ∧
  ∀ (f : LForm) s p s' x s2 q, Issues s p s' → p.ctl = true → p.w.ctl.guard f.g = true → p.w.engOps = 0 →
    p.w.csrs.watchctl.getLsbD 0 = false → s'.part? p.w.id.pid = some q →
    let ea := eaOf .sstep f (p.opA p.w.ctl .sstep f)
    let v := s2.spotNat x 16
    placed p 0 ea 16 .atomic s' 0 = some (x, s2) → lvMode v = false → lvTarget v ≠ 0 → lvFill v < lvTarget v →
    let waits := fun (t : State) => ∃ w, t.wg? p.w.id.core p.w.id.slot = some w ∧ w.ctl.pc = p.w.ctl.pc ∧
      w.ctl.wait = .sstep (BitVec.ofNat 64 ea) (BitVec.ofNat 32 (lvPhc v))
    (f.s ≠ 3 → ∃ t, exec (.sstepDev f) s = .next t ∧ t.mem = (s2.spotWrite x (bytesOf 16 (arrived v))).mem ∧
      if lvFill v + 1 = lvTarget v then Performed p (s2.spotWrite x (bytesOf 16 (arrived v))) t f f.la.toNat false none [(0, [])] else waits t) ∧
    (f.s = 3 → q.fabric = true → ∃ t, exec (.sstepFab f) s = .next t ∧ waits t ∧
      if lvFill v + 1 = lvTarget v then
        t.mem = (s2.spotWrite x (bytesOf 16 (lvTarget v + lvPhc v * 2 ^ 64 + v / 2 ^ 96 * 2 ^ 96))).mem ∧
        let g := if q.strict then 65536 * (p.w.id.pid + 1) + q.fabgrp else q.fabgrp
        t.fabric.counterTx = s.fabric.counterTx ++ [(g, s.fabric.devId)] ∧
        (t.fabGroup g).waiting = (s2.fabGroup g).waiting ++ [(p.w.id.pid, p.w.id.ctx, BitVec.ofNat 64 ea)]
      else t.mem = (s2.spotWrite x (bytesOf 16 (arrived v))).mem)

/-- Level objects are initialised, arrived at and waited for, and supersteps arrive. -/
def Obligations.LevelObjectsComplete : Prop := LevelOperationsComplete ∧ LevelWaitEnds ∧ SuperstepArrives

/-- R79, R81, R282: the one lane whose LD, or ST, meets a cause, an address that is not a multiple of the access size first, becomes
pending: its registers and PC stay, memory too, its group waits, and a record with the cause, the address, the PC and the lane is on
its way. -/
def Sys2Proof.Claims.OneLaneWaits : Prop :=
  ∀ (f : LForm) s p s' o, Issues s p s' → Plain p f → p.ctl = false → f.space = 0 → (p.w.group p.grp).susp = .none →
    let n := 2 ^ f.size
    let pends := fun (i : Instr) (c : Cause) (s2 : State) => ∃ t w k q, exec i s = .next t ∧
      t.wg? p.w.id.core p.w.id.slot = some w ∧ (w.group p.grp).susp = .fault k ∧ (w.group p.grp).pend = maskOfLanes [o.lane] ∧
      tabGet t.frecs k = some q ∧ RecordOf q p.w.id (maskOfLanes [o.lane]) c p.pc ∧ t.mem = s2.mem ∧
      (w.lane? p.grp o.lane).map lanePart = (p.w.lane? p.grp o.lane).map lanePart
    let stops := fun (i : Instr) (ea : Nat) (acc : Acc) =>
      (ea % n ≠ 0 → pends i { code := 0x03, sub := 0, va := ea, lvl := 0, acc := acc.code } s') ∧
      ∀ c s2, ea % n = 0 → p.spot s' o.lane 0 ea n acc false = (.error (.cause c), s2) → pends i c s2
    ((p.gather (.ld f) .ld f).lanes = [o] → stops (.ld f) (eaOf .ld f o.a.toNat) .read) ∧
    ((p.gather (.st f) .st f).lanes = [o] → stops (.st f) (eaOf .st f o.a.toNat) .write)

/-- R79, R81, R211, R212: of an LD or ST some of whose lanes meet a cause, the other lanes complete: they take their values or store
their bytes and go on; the lanes that meet one stay as they are and are the group's pending mask; and a record for the first of them
is on its way. -/
def Sys2Proof.Claims.OtherLanesComplete : Prop :=
  ∀ (f : LForm) s p s' xs s2 pre o0 c0 post, Issues s p s' → Plain p f → p.ctl = false → f.space = 0 → f.la = 0 →
    (p.w.group p.grp).susp = .none →
    let n := 2 ^ f.size
    let fails := xs.filter fun x => match x.2 with | .error _ => true | .ok _ => false
    let pend := maskOfLanes (fails.map fun x => x.1.lane)
    let ends := fun (i : Instr) (ws : Nat → List RegWrite) => ∃ t w k q, exec i s = .next t ∧
      t.wg? p.w.id.core p.w.id.slot = some w ∧ (w.group p.grp).susp = .fault k ∧ (w.group p.grp).pend = pend ∧
      tabGet t.frecs k = some q ∧ RecordOf q p.w.id pend c0 p.pc ∧ t.mem = s2.mem ∧
      ∀ l, l < 32 → p.mask.getLsbD l = true → (w.lane? p.grp l).map lanePart = (p.w.lane? p.grp l).map fun th =>
        match xs.find? fun x => x.1.lane == l with
        | some (_, .error _) => lanePart th
        | some (_, .ok v) => lanePart (Ahead (put th (ws v)) (codedLen false f))
        | none => lanePart (Ahead th (codedLen false f))
    xs = pre ++ (o0, .error c0) :: post → (∀ x ∈ pre, ∃ v, x.2 = .ok v) →
    (outcomesOf p .ld f n .read (fun s x _ => (s.spotNat x n, s)) (p.gather (.ld f) .ld f).lanes s' = some (xs, s2) →
      ends (.ld f) fun v => p.wrLoad f.d n (f.f.getLsbD 3) v) ∧
    (outcomesOf p .st f n .write (fun s x o => (0, s.spotWrite x (bytesOf n o.b.toNat))) (p.gather (.st f) .st f).lanes s' = some (xs, s2) →
      ends (.st f) fun _ => [])

/-- R399: of an LD or ST in global memory whose lanes can all make their accesses, each performs; if one is watched, WATCH is raised
then, past the instruction, with the address of the lowest watched lane, or, of a lane path with a debugger attached, the group halts. -/
def Sys2Proof.Claims.WatchesAreRaised : Prop :=
  ∀ (f : LForm) s p s', Issues s p s' → f.space = 0 → (∀ e ∈ p.active f.g, e.2.region = none) →
    let n := 2 ^ f.size
    let ends := fun (i : Instr) (mj : Major) (kind acc : Nat) (s2 : State) (bound : Bool) (again : Option MemReq)
        (res : List (Nat × List RegWrite)) =>
      let os := (p.gather i mj f).lanes
      let hit := fun (o : LaneOp) => watched p.w kind (eaOf mj f o.a.toNat) n
      ((∀ o ∈ os, ¬ hit o) → ∃ t, exec i s = .next t ∧ Performed p s2 t f f.la.toNat bound again res) ∧
      ∀ pre o post, os = pre ++ o :: post → (∀ x ∈ pre, ¬ hit x) → hit o →
        ∃ t, exec i s = .next t ∧ PerformedThen p s2 t f f.la.toNat bound again res (watchRaised p
          { cause := 0x0E, sub := 0, code := 0, info := BitVec.ofNat 64 (eaOf mj f o.a.toNat), pc := p.pc, acc := acc
            mask := maskOfLanes (os.map (·.lane)) })
    (∀ vs s2, loadsOf .ld f p n (p.gather (.ld f) .ld f).lanes s' = some (vs, s2) →
      ends (.ld f) .ld 1 0 s2 (f.la == 0) (some { p.gather (.ld f) .ld f with la := 0 })
        (results vs fun x => p.wrLoad f.d n (f.f.getLsbD 3) x)) ∧
    ∀ vs s2, storesOf .st f p n (p.gather (.st f) .st f).lanes s' = some (vs, s2) →
      ends (.st f) .st 2 1 s2 false none (results vs fun _ => [])

/-- A lane whose access meets a cause becomes pending with a record, the other lanes complete, and a watched access raises
WATCH. -/
def Obligations.LanesThatMeetACauseWait : Prop := OneLaneWaits ∧ OtherLanesComplete ∧ WatchesAreRaised

/-- R357, R363: a matrix or attention instruction whose checks hold, whose quarter's queue holds fewer than 16 operations and
whose section's reader count is not full issues: the operation, with its operands and its copy of the descriptor, is last in
the queue, the control thread goes on, the workgroup has one more operation in flight, and no memory changes; one whose checks
fail raises the first cause of R363; with its guard held not, it changes nothing. -/
def Sys2Proof.Claims.MatrixIssueCompletes : Prop :=
  ∀ (f : LForm) s p s', Issues s p s' → p.ctl = true → ∀ e ∈ matrixRows f,
    let (i, mj) := e
    let (a, b, c) := (p.opA p.w.ctl mj f, p.opB p.w.ctl mj f, p.opC p.w.ctl mj f)
    (p.w.ctl.guard f.g = false → ∃ t, exec i s = .next t ∧ Effect p s' t f.g (codedLen false f) fun _ _ => []) ∧
    (p.w.ctl.guard f.g = true → ∀ d s1,
      (if mxReadsDesc mj a then s'.descriptor p.w.id.core p.w.id.pid (f.w2.toNat / 2 ^ 16) else (none, s')) = (d, s1) →
      (∀ x, mxCheck p.w mj f d a b c = some x → exec i s = .next (p.raise s1 x false)) ∧
      (mxCheck p.w mj f d a b c = none → (s1.queue p.w.id.core (f.f.toNat % 4)).length < 16 → p.countFull s1 = false →
        ∃ t, exec i s = .next t ∧ t.wg? p.w.id.core p.w.id.slot = some (oneMoreOp p (codedLen false f)) ∧ countHeld p s t ∧
          t.queue p.w.id.core (f.f.toNat % 4) = s1.queue p.w.id.core (f.f.toNat % 4) ++
            [{ slot := p.w.id.slot, pc := p.w.ctl.pc, i := i, a := BitVec.ofNat 64 a, b := BitVec.ofNat 64 b, c := BitVec.ofNat 64 c
               desc := d.getD { id := 0, bits := 0 }, next := 0, held := []
               joined := false, stop := .none, parity := parityOf p }] ∧
          t.mem = s.mem ∧ t.parts = s.parts))

/-- R363, with R310, R312, R318, R366, R369, Tables 13-2 and 13-3: the checks of a matrix or attention instruction, in their order:
ILLEGAL_INSTR for a tile not held; DESC_RIGHTS for a descriptor that is not accepted, or lacks the right or the format; DESC_BOUNDS for
a shape field or an element out of bounds; PERMISSION for a scratchpad range outside the allocation or in an enabled FIFO segment,
NO_READ for one that is read and NO_WRITE for one that is only written; MISALIGNED for a panel, row state, metadata or level object
address; and none when all hold. -/
def Sys2Proof.Claims.MatrixChecksAreMade : Prop :=
  ∀ (f : LForm) (w : Wg) (d : Option Desc) (a b c : Nat), (∀ x, d = some x → ∀ j, j < x.ndim → x.ext j ≠ 0) → ∀ e ∈ matrixRows f,
    let mj := e.2
    let hi := f.f.toNat / 4
    let acc := if mj = .mxstore then 1 else 0
    let found := fun (x : Cause) => mxCheck w mj f d a b c = some x
    let perm := fun (sub va : Nat) => found { code := 0x06, sub := sub, va := va, lvl := 0, acc := sub - 1 }
    let mis := fun (va acc : Nat) => found { code := 0x03, sub := 0, va := va, lvl := 0, acc := acc }
    let fine := mxCheck w mj f d a b c = none
    let (po, row, size) := (a % 2 ^ 32, a % 2 ^ 32, a / 2 ^ 32 % 2 ^ 16 / 8 * (256 + 64 * (f.m.toNat + 1)))
    let rights := readsIt mj a → ∃ x, d = some x ∧ rightsHeld mj x
    let bounds := shapeGood mj a ∧ (readsIt mj a → ∀ x, d = some x → boxGood mj f x a b)
    (¬ tilesHeld w mj f a → found { code := 0x01, sub := 0, va := 0, lvl := 0, acc := 0 }) ∧
    (tilesHeld w mj f a → ¬ rights → found { code := 0x08, sub := 0, va := f.w2.toNat / 2 ^ 16, lvl := 0, acc := acc }) ∧
    (tilesHeld w mj f a → rights → ¬ bounds → found { code := 0x07, sub := 0, va := f.w2.toNat / 2 ^ 16, lvl := 0, acc := acc }) ∧
    (tilesHeld w mj f a → rights → bounds →
      (mj = .plane → (¬ freeRange w po size → perm 2 po) ∧ (freeRange w po size → if po % 64 = 0 then fine else mis po 1)) ∧
      (mj = .mxmul → (¬ freeRange w po size → perm 1 po) ∧ (freeRange w po size → if po % 64 = 0 then fine else mis po 0)) ∧
      (mj = .mxspm → (¬ freeRange w po size → perm 1 po) ∧
        (freeRange w po size → if po % 64 ≠ 0 then mis po 0 else if c % 8 ≠ 0 then mis c 0 else fine)) ∧
      (mj = .mxscale ∨ mj = .clmerge → (¬ freeRange w row 1024 → perm 1 row) ∧
        (freeRange w row 1024 → if row % 16 = 0 then fine else mis row 0)) ∧
      (mj = .mxepi →
        let rows := 16 * (a / 2 ^ 40 % 2 ^ 24)
        let out := 64 * (f.w2.toNat / 2 ^ 10)
        let m := if hi % 4 = 1 then 8192 else 8 * (256 + 64 * (f.m.toNat + 1))
        (¬ freeRange w rows 1024 → perm (if hi.testBit 4 then 2 else 1) rows) ∧
        (freeRange w rows 1024 → hi % 4 = 1 ∨ hi % 4 = 2 → ¬ freeRange w out m → perm 2 out) ∧
        (freeRange w rows 1024 → (hi % 4 = 1 ∨ hi % 4 = 2 → freeRange w out m) → fine)) ∧
      (mj = .mxstore → if hi = 1 ∧ c % 16 ≠ 0 then mis c 2 else fine) ∧
      (mj = .mxzero ∨ mj = .mxldacc ∨ mj = .slope → fine))

/-- Matrix and attention instructions issue into their quarter queue or raise their first failed check. -/
def Obligations.MatrixInstructionsIssue : Prop := MatrixIssueCompletes ∧ MatrixChecksAreMade

/-- R365, R374, R377: MATRIX_OPERATION of the oldest operation, run to its end: MXZERO sets its tiles to +0.0, SLOPE sets its
slope register, MXSCALE.ALPHA multiplies every element of its tile by its row's ALPHA and rounds once; the operation leaves
the queue, and every other tile stays. -/
def Sys2Proof.Claims.TileOperationsRun : Prop :=
  ∀ s core q op ops w (f : LForm), Oldest s core q op ops w → f.f.toNat % 4 = q → s.choice.headD 1 = 0 →
    (op.i = .mxzero f → ∃ t, exec (.matrixOperation core q) s = .next t ∧ Finished s t core q op ops w ∧
      ∀ k j r c, k < 4 → j < 16 → r < 64 → c < 64 →
        tileAt t core k j r c = if k = q ∧ f.w2.getLsbD j then 0 else tileAt s core k j r c) ∧
    (op.i = .slope f → cellsWf w.slopes = true →
      ∃ t w', exec (.matrixOperation core q) s = .next t ∧ Finished s t core q op ops w ∧
      t.wg? core op.slot = some w' ∧
      ∀ k, cellGet w'.slopes k = if k = q * 64 + f.w2.toNat % 64 then op.c.setWidth 32 else cellGet w.slopes k) ∧
    (op.i = .mxscaleAlpha f → mxHi f % 4 = 0 → cellsWf (s.core core).tiles = true →
      ∃ t, exec (.matrixOperation core q) s = .next t ∧ Finished s t core q op ops w ∧
      ∀ k j r c, k < 4 → j < 16 → r < 64 → c < 64 →
        tileAt t core k j r c = if k = q ∧ j = f.w2.toNat % 16
          then enc32 (xmul (dec32 (tileAt s core k j r c)) (dec32 (rowWord w.scratch (op.a.toNat % 2 ^ 32) r 2)))
          else tileAt s core k j r c)

/-- R366, R367: MATRIX_OPERATION of an MXLDACC whose elements can be read, run to its end, encodes them into its tile, +0.0 outside
the box; of an MXSTORE whose rows can be written, it writes each row's elements, scale bytes and counts in turn, and with .LV arrives
once on the level object, by the element bytes in BYTES mode; no tile changes by it. -/
def Sys2Proof.Claims.TilesAreLoadedAndStored : Prop :=
  ∀ s core q op ops w (f : LForm), Oldest s core q op ops w → f.f.toNat % 4 = q → s.choice.headD 1 = 0 →
    let (nr, nc) := (op.a.toNat % 2 ^ 7, op.a.toNat / 2 ^ 8 % 2 ^ 7)
    let j := f.w2.toNat % 16
    let s1 := (s.choose).2
    (op.i = .mxldacc f → nc ≤ 64 → cellsWf (s.core core).tiles = true → ∀ vs : Nat → List XVal,
      (∀ r, r < nr → (vs r).length = nc ∧ Readable s1 core op.slot w (fun _ => True) op.desc (boxRow op nc 0 r) (vs r)) →
      ∃ t, exec (.matrixOperation core q) s = .next t ∧ Finished s t core q op ops w ∧
        TileBecomes s t core q j fun r c => if r < nr ∧ c < nc then enc32 (nthD xzero (vs r) c) else 0) ∧
    (op.i = .mxstore f → (fmtBlock op.desc.fmt = true → nc % 8 = 0) → ∀ (m : Nat → Memory) (ws : Nat → Tab Wg),
      let n := if nc = 0 then 0 else nr
      let now := fun (r : Nat) (ks : Tab Core) => { s1 with mem := m r, wgs := ws r, cores := ks }
      m 0 = s1.mem → ws 0 = s1.wgs →
      (∀ r ks, r < n → rowWritten (now r ks) core op.slot w.id op.desc (boxRow op nc 0 r)
        ((List.range nc).map fun c => dec32 (tileAt s core q j r c)) = some (now (r + 1) ks)) →
      let ends := fun (mem : Memory) => ∃ t w' w0, exec (.matrixOperation core q) s = .next t ∧ Ended s t core q op ops w ∧
        t.mem = mem ∧ (t.core core).tiles = (s.core core).tiles ∧ t.wg? core op.slot = some w' ∧
        (now n []).wg? core op.slot = some w0 ∧ w'.scratch = w0.scratch
      (f.f.toNat / 4 ≠ 1 → ends (m n)) ∧
      (f.f.toNat / 4 = 1 → ∀ pa mem, (∀ ks, (now n ks).engSpot w.id false op.c.toNat 16 .atomic = (.ok (.mem pa), { now n ks with mem := mem })) →
        let v := ofBytes (memRead mem pa 16)
        lvTarget v ≠ 0 → lvFill v < lvTarget v → ends (memWrite mem pa (bytesOf 16
          (if lvMode v then lvArrive v (if nr = 0 then 0 else nr * ceilDiv (nc * op.desc.ew) 8) else arrived v)))))

/-- R368: MATRIX_OPERATION of a PLANE whose elements can be read, run to its end, writes each row's blocks, the rows at or above NR
as header 0x7F with zero planes, and nothing else of the scratchpad. -/
def Sys2Proof.Claims.PanelsAreMade : Prop :=
  ∀ s core q op ops w (f : LForm), Oldest s core q op ops w → f.f.toNat % 4 = q → s.choice.headD 1 = 0 → op.i = .plane f →
    cellsWf w.scratch = true → NoFlush w op.desc →
    let (po, kb, nr, p) := (op.a.toNat % 2 ^ 32, op.a.toNat / 2 ^ 32 % 2 ^ 16 / 8, op.a.toNat / 2 ^ 48 % 2 ^ 7, f.m.toNat + 1)
    let size := kb * (256 + 64 * p)
    ∀ vs : Nat → Nat → List XVal,
      (∀ b r, b < kb → r < 64 → r < nr →
        Readable (s.choose).2 core op.slot w (fun a => a < po ∨ po + size ≤ a) op.desc (boxRow op 8 (8 * b) r) (vs b r)) →
      ∃ t w', exec (.matrixOperation core q) s = .next t ∧ Finished s t core q op ops w ∧ t.wg? core op.slot = some w' ∧
        (∀ b r, b < kb → r < 64 → panelHolds w'.scratch po p b r
          (if r < nr then (encodePlane p (vs b r)).1 else { header := 0x7F, ms := [] })) ∧
        KeptOutside w.scratch w'.scratch po (po + size) ∧ (t.core core).tiles = (s.core core).tiles

/-- R322: Encode(PLANEp) of eight values below 2^128: X is 127 when every finite value is 0, otherwise floor(log2) of the greatest
magnitude plus 127, at least 0, and one more, below 254, when some mantissa rounds to 2^(p − 1); each finite value's mantissa is the
nearest to x · 2^(p − 2 − (X − 127)), ties to even, but 2^(p − 1) − 1 for one that reaches 2^(p − 1) at 254, which is counted; the
mantissas of NaNs and infinities are 0, and the header names them. -/
def Sys2Proof.Claims.PlaneBlocksAreEncoded : Prop :=
  ∀ (p : Nat) (xs : List XVal) (e0 : Int) (x0 x : Nat), 1 ≤ p → p ≤ 16 → xs.length = 8 → (∀ v ∈ xs, Proper v) →
    (∀ v ∈ xs, -twoPow 128 < ratOf v ∧ ratOf v < twoPow 128) → (¬ allZero xs → topExp xs e0) → (allZero xs → x0 = 127) →
    (¬ allZero xs → (x0 : Int) = max (e0 + 127) 0) →
    let up := fun (x : Nat) => (p : Int) - 2 - ((x : Int) - 127)
    let clips := fun (x : Nat) (v : XVal) => v.isFin = true ∧ nearestEven (ratOf v * twoPow (up x)) (2 ^ (p - 1) : Nat)
    ((∃ v ∈ xs, clips x0 v) ∧ x0 < 254 → x = x0 + 1) → (¬ ((∃ v ∈ xs, clips x0 v) ∧ x0 < 254) → x = x0) →
    let (b, c) := encodePlane p xs
    b.header % 256 = x ∧ b.header < 2 ^ 32 ∧ b.ms.length = 8 ∧ c.ftz = 0 ∧ c.nan = (xs.filter (·.isNan)).length ∧
    (∃ vs : List XVal, vs.length = c.sat ∧ vs.Sublist xs ∧ (∀ v ∈ vs, clips x v) ∧ ∀ ws : List XVal, ws.Sublist xs → (∀ v ∈ ws, clips x v) →
      ws.length ≤ vs.length) ∧
    ∀ i v, xs[i]? = some v →
      b.header.testBit (8 + i) = v.isNan ∧ b.header.testBit (16 + i) = (!v.isNan && !v.isFin) ∧
      b.header.testBit (24 + i) = (!v.isFin && v.isNeg) ∧
      (v.isFin = false → nthD 0 b.ms i = 0) ∧
      (clips x v → nthD 0 b.ms i = ((2 ^ (p - 1) : Nat) : Int) - 1) ∧
      (v.isFin = true → ¬ clips x v → nearestEven (ratOf v * twoPow (up x)) (nthD 0 b.ms i))

/-- R371 to R374: MATRIX_OPERATION of an MXEPI, run to its end, masks each row's scores, keeps M, L and ALPHA of its record by the
online rule, leaves the probabilities in the tile and, by its form, in the scratchpad; of an MXSCALE.FINAL, it divides each row by its
L and keeps LSE; nothing else changes. The open words are log 20. -/
def Sys2Proof.Claims.RowStateIsKept : Prop :=
  ∀ s core q op ops w (f : LForm), Oldest s core q op ops w → f.f.toNat % 4 = q → s.choice.headD 1 = 0 →
    cellsWf w.scratch = true → cellsWf (s.core core).tiles = true →
    let hi := f.f.toNat / 4
    (op.i = .mxepi f →
      let nr := op.a.toNat / 2 ^ 32 % 2 ^ 7
      let off := 16 * (op.a.toNat / 2 ^ 40 % 2 ^ 24)
      let kl := op.b.toNat / 2 ^ 32 % 2 ^ 32
      let j := f.w2.toNat % 16
      let p := f.m.toNat + 1
      let out := 64 * (f.w2.toNat / 2 ^ 10)
      let kp := op.b.toNat % 2 ^ 32
      let slope := (cellGet w.slopes (q * 64 + f.w2.toNat / 2 ^ 4 % 2 ^ 6)).toNat
      let size := if hi % 4 = 1 then 8192 else if hi % 4 = 2 then 8 * (256 + 64 * p) else 0
      let dist := fun (r c : Nat) => ((op.a.toNat % 2 ^ 32 + r : Nat) : Int) - ((kp + c : Nat) : Int)
      let masked := fun (r c : Nat) => nr ≤ r ∨ kl ≤ kp + c ∨ (hi.testBit 2 = true ∧ dist r c < 0) ∨ (hi.testBit 3 = true ∧ ((op.c.toNat % 2 ^ 32 : Nat) : Int) ≤ dist r c)
      (out + size ≤ off ∨ off + 1024 ≤ out ∨ size = 0) →
      ∃ (t : State) (w' : Wg) (z : Nat → Nat → Nat), exec (.matrixOperation core q) s = .next t ∧ Finished s t core q op ops w ∧ t.wg? core op.slot = some w' ∧
        (∀ r c, r < 64 → c < 64 → (masked r c → z r c = 0xFF800000) ∧ (¬ masked r c → z r c = enc32 (xadd 0
          (xmul (dec32 (op.c.toNat / 2 ^ 32 % 2 ^ 32)) (dec32 (tileAt s core q j r c))) (xmul (dec32 slope) (xint (dist r c)))))) ∧
        (∀ r, r < 64 → epiRowIs (if hi.testBit 4 then 0xFF800000 else rowWord w.scratch off r 0)
          (if hi.testBit 4 then 0 else rowWord w.scratch off r 1) (masked r) (z r) (rowWord w'.scratch off r 0)
          (rowWord w'.scratch off r 1) (rowWord w'.scratch off r 2) (fun c => tileAt t core q j r c) ∧
          rowWord w'.scratch off r 3 = rowWord w.scratch off r 3) ∧
        TileBecomes s t core q j (fun r c => tileAt t core q j r c) ∧
        (hi % 4 = 1 → ∀ r c, r < 64 → c < 64 →
          spNat w'.scratch (out + 128 * r + 2 * c) 2 = (encodeF fBF16 (dec32 (tileAt t core q j r c)) 0 false true).1) ∧
        (hi % 4 = 2 → ∀ b r, b < 8 → r < 64 → panelHolds w'.scratch out p b r
          (encodePlane p ((List.range 8).map fun i => dec32 (tileAt t core q j r (8 * b + i)))).1) ∧
        ∀ a, (a < off ∨ off + 1024 ≤ a) → (a < out ∨ out + size ≤ a) → cellGet w'.scratch a = cellGet w.scratch a) ∧
    (op.i = .mxscaleFinal f → hi % 4 = 1 →
      let (off, j) := (op.a.toNat % 2 ^ 32, f.w2.toNat % 16)
      ∃ t w', exec (.matrixOperation core q) s = .next t ∧ Finished s t core q op ops w ∧ t.wg? core op.slot = some w' ∧
        (∀ r, r < 64 → (∀ k, k < 3 → rowWord w'.scratch off r k = rowWord w.scratch off r k) ∧
          let (m, l, lse) := (dec32 (rowWord w.scratch off r 0), dec32 (rowWord w.scratch off r 1), rowWord w'.scratch off r 3)
          (l.isZero = true → lse = 0xFF800000) ∧ (l.isNan = true → lse = 0x7FC00000) ∧
          (∀ n d, 0 < n → l = .fin false n d → lse = enc32 (xadd 0 m (log2Val n d))) ∧
          (l = .inf false → lse = enc32 (xadd 0 m (.inf false)))) ∧
        TileBecomes s t core q j (fun r c =>
          let l := dec32 (rowWord w.scratch off r 1)
          if l.isZero then 0 else if l.isNan then 0x7FC00000 else enc32 (xdiv (dec32 (tileAt s core q j r c)) l)) ∧
        KeptOutside w.scratch w'.scratch off (off + 1024))

/-- MXZERO, SLOPE, MXSCALE, MXLDACC, MXSTORE, PLANE and MXEPI operations run to their end and change their targets alone. -/
def Obligations.MatrixOperationsComplete : Prop := TileOperationsRun ∧ TilesAreLoadedAndStored ∧ PanelsAreMade ∧ PlaneBlocksAreEncoded ∧ RowStateIsKept

/-- R332, R369, R370: MATRIX_OPERATION of an MXMUL or MXSPM whose weights can be read, run to its end, adds to each element (r, c) with
c below NC, by FAdd32 and chunk after chunk, the chunk sums of row r of the panel with the aligned weights of column c; the other
elements of every tile stay. The weights of MXSPM are the stored elements at the places that the metadata record gives them, a later
one over an earlier one, and +0.0 elsewhere. -/
def Sys2Proof.Claims.MultiplyRuns : Prop :=
  (∀ s core q op ops w (f : LForm) s1 g (bs : Nat → Nat → List XVal), Oldest s core q op ops w → f.f.toNat % 4 = q →
    s.choice.headD 1 = 0 → ∀ e ∈ [(Instr.mxmul f, Major.mxmul), (.mxspm f, .mxspm)],
    op.i = e.1 → bitsAt op.a.toNat 47 32 = 64 * g → 1 ≤ g → g ≤ 256 → bitsAt op.a.toNat 54 48 ≤ 64 →
    cellsWf (s.core core).tiles = true → s1 = (s.choose).2 →
    (∀ n j cs, n < bitsAt op.a.toNat 54 48 → j < 8 * g →
      weights { s1 with cores := cs } w.id e.2 f op n j = (.ok (bs n j), { s1 with cores := cs })) →
    ∃ t, exec (.matrixOperation core q) s = .next t ∧ Finished s t core q op ops w ∧
      ∀ k j r c, k < 4 → j < 16 → r < 64 → c < 64 →
        tileAt t core k j r c = if k = q ∧ j = f.w2.toNat % 16 ∧ c < bitsAt op.a.toNat 54 48
          then (List.range g).foldl (fun x i => fadd32 x
            (chunkSum ((List.range 8).flatMap fun b => readPanelRow w.scratch (op.a.toNat % 2 ^ 32) (f.m.toNat + 1) (8 * i + b) r)
              ((List.range 8).flatMap fun b => blockAlign (bs c (8 * i + b))))) (tileAt s core q j r c)
          else tileAt s core k j r c) ∧
  ∀ (s : State) (w : WgId) (f : LForm) op n j bs vs s1 s2,
    let (st, rb) := if f.f.toNat / 4 % 2 = 0 then (32, 24) else (16, 12)
    let g := j / 8
    s.engWords w (op.c.toNat + (n * (op.a.toNat / 2 ^ 32 % 2 ^ 16 / 64) + g) * rb) (rb / 4) = (.ok bs, s1) →
    let idx := fun (i : Nat) => ofBytes bs / 2 ^ (6 * i) % 2 ^ 6
    let mine := (List.range st).filter fun i => idx i / 8 == j % 8
    s1.elementVals w op.desc (mine.filterMap fun i => op.desc.boxAt (sx 32 op.b.toNat + ((st * g + i : Nat) : Int))
      (sx 32 (op.b.toNat / 2 ^ 32) + ((n : Nat) : Int))) = (.ok vs, s2) → vs.length = mine.length →
    ∃ ws, weights s w .mxspm f op n j = (.ok ws, s2) ∧ ws.length = 8 ∧
      ∀ k, k < 8 → nthD xzero ws k = match ((mine.zip vs).filter fun e => idx e.1 % 8 == k).getLast? with
        | some e => e.2
        | none => xzero

/-- R331: BlockAlign: with E = floor(log2) of the greatest finite magnitude of the weights, or 0 when every one is 0, and one more
when some weight times 2^(14 − E) rounds to 32,768, each finite weight stands for its nearest multiple of 2^(E − 14), ties to even; a NaN
and an infinity stay. -/
def Sys2Proof.Claims.WeightsAreAligned : Prop :=
  ∀ (vs : List XVal) (e0 : Int), (∀ v ∈ vs, Proper v) → (allZero vs → e0 = 0) → (¬ allZero vs → topExp vs e0) →
    (blockAlign vs).length = vs.length ∧
    ∀ e, (someRounds vs (14 - e0) 32768 → e = e0 + 1) → (¬ someRounds vs (14 - e0) 32768 → e = e0) →
      ∀ x ∈ vs.zip (blockAlign vs),
        (x.1.isFin = false → x.2 = x.1) ∧
        (x.1.isFin = true → x.2.isFin = true ∧ Proper x.2 ∧
          ∃ m : Int, nearestEven (ratOf x.1 * twoPow (14 - e)) m ∧ ratOf x.2 = m * twoPow (e - 14))

/-- R332: ChunkSum: NaN when a factor is a NaN, an infinity meets a zero, or infinities of both signs come together; an infinity when
one comes; and otherwise the exact sum of the products, rounded once to F32, +0.0 for a sum of 0. -/
def Sys2Proof.Claims.ChunksAreSummed : Prop :=
  ∀ (a b : List XVal), (∀ v ∈ a ++ b, Proper v) →
    let ps := a.zip b
    let inf := fun (v : XVal) => v = .inf true ∨ v = .inf false
    let bad := ∃ p ∈ ps, p.1.isNan = true ∨ p.2.isNan = true ∨ (inf p.1 ∧ p.2.isZero = true) ∨ (inf p.2 ∧ p.1.isZero = true)
    let some_ := fun (s : Bool) => ∃ p ∈ ps, (inf p.1 ∨ inf p.2) ∧ (p.1.isNeg != p.2.isNeg) = s
    (bad ∨ (some_ true ∧ some_ false) → chunkSum a b = 0x7FC00000) ∧
    (¬ bad → some_ false → ¬ some_ true → chunkSum a b = 0x7F800000) ∧
    (¬ bad → some_ true → ¬ some_ false → chunkSum a b = 0xFF800000) ∧
    (¬ bad → ¬ some_ true → ¬ some_ false →
      let sum := (ps.map fun p => ratOf p.1 * ratOf p.2).sum
      (sum = 0 → chunkSum a b = 0) ∧ (sum ≠ 0 → ∃ s n d, 0 < d ∧ ratOf (.fin s n d) = sum ∧ chunkSum a b = enc32 (.fin s n d)))

/-- An MXMUL or MXSPM aligns its weights and adds its exact chunk sums to the elements of its tile. -/
def Obligations.MatrixMultiplyCompletes : Prop := MultiplyRuns ∧ WeightsAreAligned ∧ ChunksAreSummed

/-- R375: a CLMERGE at the head of its queue arrives once at the merge of its slot, opening it if need be; and once every core of
the mask has arrived, it waits for the next merge, as one of a core that has arrived does, and CLMERGE_MERGE closes the merge,
every participant's operation has left its queue, and every participant has the merged M, L, ALPHA and tile rows, LSE and the rest
of its scratchpad and tiles as before. That every arrival takes part is log 39; the open words are log 20. -/
def Obligations.ClusterMergeCompletes : Prop :=
  (∀ s core q op ops w (f : LForm), Oldest s core q op ops w → op.i = .clmerge f →
    let key := (w.id.pid * 32 + w.id.ctx) * 8 + bitsAt op.a.toNat 38 36
    let m := (tabGet (s.cluster (core / 4)).merges key).getD { pm := bitsAt op.a.toNat 35 32, arrivals := [] }
    let full := m.arrivals ≠ [] ∧ ∀ c, c < 4 → m.pm.testBit c = true → ∃ a ∈ m.arrivals, a.1 = core / 4 * 4 + c
    ((full ∨ ∃ a ∈ m.arrivals, a.1 = core) → exec (.matrixOperation core q) s = .next s) ∧
    ((∀ a ∈ m.arrivals, a.1 ≠ core) → ¬ full →
    ∃ t, exec (.matrixOperation core q) s = .next t ∧ t.queue core q = { op with joined := true } :: ops ∧
      tabGet (t.cluster (core / 4)).merges key = some { m with arrivals := m.arrivals ++ [(core, q)] } ∧
      t.mem = s.mem ∧ t.wgs = s.wgs)) ∧
  (∀ s cl pid ctx slot m (ps : List ((Nat × Nat) × MxOp × LForm × Wg)), WgsStand s →
    tabGet (s.cluster cl).merges ((pid * 32 + ctx) * 8 + slot) = some m →
    (∀ c, c < 4 → m.pm.testBit c = true → ∃ a ∈ m.arrivals, a.1 = 4 * cl + c) →
    ps.map (·.1) = (List.range 4).filterMap (fun c => m.arrivals.find? fun a => a.1 == 4 * cl + c) →
    (∀ core q op f w, ((core, q), op, f, w) ∈ ps → (s.queue core q).head? = some op ∧ op.i = .clmerge f ∧ Stands s core op.slot w ∧
      q < 4 ∧ cellsWf w.scratch = true ∧ cellsWf (s.core core).tiles = true) →
    let off := fun (op : MxOp) => op.a.toNat % 2 ^ 32
    ∃ t, exec (.clmergeMerge cl pid ctx slot) s = .next t ∧ t.mem = s.mem ∧
      (∀ r, r < 64 → ∃ m l al o, mergeRowIs (ps.map fun x =>
          let (core, q, op, f, w) := (x.1.1, x.1.2, x.2.1, x.2.2.1, x.2.2.2)
          (rowWord w.scratch (off op) r 0, rowWord w.scratch (off op) r 1, fun c => tileAt s core q (f.w2.toNat % 16) r c)) m l al o ∧
        ∀ core q op f w, ((core, q), op, f, w) ∈ ps → ∃ w', t.wg? core op.slot = some w' ∧ rowWord w'.scratch (off op) r 0 = m ∧
          rowWord w'.scratch (off op) r 1 = l ∧ rowWord w'.scratch (off op) r 2 = al ∧
          rowWord w'.scratch (off op) r 3 = rowWord w.scratch (off op) r 3 ∧ ∀ c, c < 64 → tileAt t core q (f.w2.toNat % 16) r c = o c) ∧
      ∀ core q op f w, ((core, q), op, f, w) ∈ ps →
        TileBecomes s t core q (f.w2.toNat % 16) (fun r c => tileAt t core q (f.w2.toNat % 16) r c) ∧
        ∃ w', t.wg? core op.slot = some w' ∧ KeptOutside w.scratch w'.scratch (off op) (off op + 1024)) ∧
  ∀ s cl pid ctx slot m, tabGet (s.cluster cl).merges ((pid * 32 + ctx) * 8 + slot) = some m →
    (∀ c, c < 4 → m.pm.testBit c = true → ∃ a ∈ m.arrivals, a.1 = 4 * cl + c) →
    ∃ t, exec (.clmergeMerge cl pid ctx slot) s = .next t ∧ t.mem = s.mem ∧
      tabGet (t.cluster cl).merges ((pid * 32 + ctx) * 8 + slot) = none ∧
      ∀ c, c < 4 → ∀ a, (m.arrivals.find? fun a => a.1 == 4 * cl + c) = some a → ∀ op ops, s.queue a.1 a.2 = op :: ops →
        (coded op.i).isSome → t.queue a.1 a.2 = ops

/-- R382, R383, R387: CPY and CPYG complete: a command whose checks hold, with room in the core's engine and in the reader
count, becomes the engine's last operation, with its copies of the descriptors; the control thread goes on and no memory
changes. A command whose checks fail raises the first cause; a full engine waits; with its guard not held the instruction
changes nothing. What the checks are, the next statement says. -/
def Sys2Proof.Claims.CopiesIssue : Prop :=
  ∀ (f : LForm) s p s', Issues s p s' → p.ctl = true → ∀ e ∈ copyRows f,
    let (i, mj, gather) := e
    let off := wrapN 32 (((p.opA p.w.ctl mj f % 2 ^ 32 : Nat) : Int) + offOf mj f)
    (p.w.ctl.guard f.g = false → ∃ t, exec i s = .next t ∧ Effect p s' t f.g (codedLen false f) fun _ _ => []) ∧
    (p.w.ctl.guard f.g = true →
      (off % 16 ≠ 0 → exec i s = .next (p.raise s' { code := 0x03, sub := 0, va := off, lvl := 0, acc := 0 } false)) ∧
      (off % 16 = 0 → ¬ freeRange p.w off 128 →
        exec i s = .next (p.raise s' { code := 0x06, sub := 1, va := off, lvl := 0, acc := 0 } false)) ∧
      ∀ c, p.w.copyCommand off = .ok c → ∀ r s1, s'.copyCheck p.w c gather = (r, s1) →
        (∀ x, r = .error x → exec i s = .next ((p.reload s1).raise s1 x false)) ∧
        ∀ sd dd, r = .ok (sd, dd) →
          (32 ≤ (s1.core p.w.id.core).copies.length → exec i s = .next { s1 with cur := none }) ∧
          ((s1.core p.w.id.core).copies.length < 32 → p.countFull s1 = false →
            ∃ t, exec i s = .next t ∧ t.wg? p.w.id.core p.w.id.slot = some (oneMoreOp p (codedLen false f)) ∧ countHeld p s t ∧
              (t.core p.w.id.core).copies = (s1.core p.w.id.core).copies ++
                [{ tag := s1.tags, slot := p.w.id.slot, pc := p.pc, gather := gather, cmd := c, src := sd, dst := dd, next := 0
                   written := 0, arrived := 0, stop := .none, parity := parityOf p, half := 0, got := [] }] ∧
              t.mem = s.mem ∧ t.parts = s.parts))

/-- R382, R383, with R310 to R312 and R318: the checks of CPY and CPYG in their order: MISALIGNED for the command's offset and
PERMISSION NO_READ for its 128 bytes; ILLEGAL_INSTR for a reserved bit, NDIM or a multicast; DESC_RIGHTS for the descriptors' rights and
formats; DESC_BOUNDS for the box, its grain and its elements; PERMISSION for elements of a scratchpad, NO_READ before NO_WRITE, and for
the indices; MISALIGNED for LVA and for IDXA; and the two descriptors when all hold.
The grain of each descriptor is log 42. -/
def Sys2Proof.Claims.CopyChecksAreMade : Prop :=
  (∀ (w : Wg) off,
    (off % 16 ≠ 0 → w.copyCommand off = .error { code := 0x03, sub := 0, va := off, lvl := 0, acc := 0 }) ∧
    (off % 16 = 0 → ¬ freeRange w off 128 → w.copyCommand off = .error { code := 0x06, sub := 1, va := off, lvl := 0, acc := 0 }) ∧
    (off % 16 = 0 → freeRange w off 128 → w.copyCommand off = .ok (BitVec.ofNat 1024 (spNat w.scratch off 128)))) ∧
  ∀ (s : State) (w : Wg) (c : BitVec 1024) gather sd? s1 dd? s2,
    s.descriptor w.id.core w.id.pid (c.toNat % 2 ^ 16) = (sd?, s1) →
    s1.descriptor w.id.core w.id.pid (c.toNat / 2 ^ 16 % 2 ^ 16) = (dd?, s2) →
    let found := fun (code sub va acc : Nat) =>
      (s.copyCheck w c gather).1 = .error { code := code, sub := sub, va := va, lvl := 0, acc := acc }
    let (idxa, lva) := (c.toNat / 2 ^ 896 % 2 ^ 64, c.toNat / 2 ^ 64 % 2 ^ 64)
    let indices := 4 * boxOf c (c.toNat / 2 ^ 44 % 2 ^ 3)
    (¬ commandGood w c → found 0x01 0 0 0) ∧
    (commandGood w c → (¬ ∃ sd dd, sd? = some sd ∧ dd? = some dd ∧ copyAllowed c sd dd) → ∃ id, found 0x08 0 id 0) ∧
    ∀ sd dd, commandGood w c → sd? = some sd → dd? = some dd → copyAllowed c sd dd →
      (¬ copyInside c gather sd dd → ∃ id, found 0x07 0 id 0) ∧
      (copyInside c gather sd dd →
        (sourceBad w c gather sd → ∃ va, found 0x06 1 va 0) ∧
        (¬ sourceBad w c gather sd → targetBad w c dd → ∃ va, found 0x06 2 va 1) ∧
        (¬ sourceBad w c gather sd → ¬ targetBad w c dd →
          (gather = true → c.getLsbD 42 = true → ¬ freeRange w idxa indices → found 0x06 1 idxa 0) ∧
          ((gather = true → c.getLsbD 42 = true → freeRange w idxa indices) →
            if c.getLsbD 40 = true ∧ lva % 16 ≠ 0 then found 0x03 0 lva 2
            else if gather = true ∧ idxa % 4 ≠ 0 then found 0x03 0 idxa 0
            else (s.copyCheck w c gather).1 = .ok (sd, dd))))

/-- R384: the copy engine, run to the end of a copy within a scratchpad whose elements are whole bytes of formats without
block scales, writes each element in turn, the first dimension fastest: its own bits where the formats agree, otherwise its
value encoded in the destination's format, and +0 for an absent row of a gather; nothing else changes in the scratchpad. -/
def Sys2Proof.Claims.CopyEngineMovesElements : Prop :=
  ∀ s core op w dst, (s.core core).copies = [op] → Stands s core op.slot w → WgsStand s → op.stop = .none → op.next = 0 →
    cmLv op.cmd = false → cmMcast op.cmd = false → (op.gather = true → cmIdxsp op.cmd = true) → op.src.sp = true →
    op.dst.sp = true → op.dst.stata = 0 → s.choice.headD 1 = 0 →
    (∀ d, d = op.src ∨ d = op.dst → 8 ≤ d.ew ∧ fmtBlock d.fmt = false) →
    w.csrs.fifocfg.getLsbD 15 = false → w.csrs.fifocfg.getLsbD 31 = false → (∀ r ∈ s.fabric.out, r.copy ≠ some op.tag) →
    (∀ e, e < cmCount op.cmd → (op.dst.coords (cmDst op.cmd e)).bind (op.dst.addrOf true) = some (dst e) ∧
      dst e + elBytes op.dst ≤ 4096 * w.id.scr ∧ (copySource op w.id.scr (copiedUpTo op w dst e) e).isSome = true) →
    ∃ t w', exec (.copyEngineOperation core 0) s = .next t ∧ t.wg? core op.slot = some w' ∧
      w'.scratch = copiedUpTo op w dst (cmCount op.cmd) ∧ w'.lanes = w.lanes ∧ w'.ctl = w.ctl ∧ w'.engOps = w.engOps - 1 ∧
      (t.core core).copies = [] ∧ t.mem = s.mem ∧ t.parts = s.parts

/-- R312, R318, R329, R384: one transfer of the copy engine. Within a scratchpad, of elements of any format, it writes what
`transferred` says and nothing else; from global memory to global memory, of whole-byte elements without block scales, it writes the
element's bits, or its value in the destination's format, at the destination's frame.
The order of a transfer's writes is log 110. -/
def Sys2Proof.Claims.CopyEngineTransfers : Prop :=
  ∀ s core op w, (s.core core).copies = [op] → Stands s core op.slot w → WgsStand s → op.stop = .none → op.next < cmCount op.cmd →
    (s.choose).1 % (cmCount op.cmd - op.next + 1) = 1 → cmMcast op.cmd = false → op.dst.stata = 0 →
    (∀ r ∈ s.fabric.out, r.copy ≠ some op.tag) → (cmLv op.cmd = true ∨ op.next + transferOf op < cmCount op.cmd) →
    let d := op.dst
    let goes := fun (t : State) => exec (.copyEngineOperation core 0) s = .next t ∧ t.parts = s.parts ∧
      ∃ o, (t.core core).copies = [o] ∧ o.next = op.next + transferOf op ∧ o.cmd = op.cmd ∧ o.src = op.src ∧ o.dst = op.dst ∧ o.tag = op.tag
    (op.src.sp = true → d.sp = true → (op.gather = true → cmIdxsp op.cmd = true) → fmtListed op.src.fmt = true → op.src.fmt < 0x20 →
      fmtListed d.fmt = true → d.fmt < 0x20 → (op.gather = true → d.fmt ≠ 0x08) →
      w.csrs.fifocfg.getLsbD 15 = false → w.csrs.fifocfg.getLsbD 31 = false →
      (∀ i, i < transferOf op → (copyOrigin op w.id.scr w.scratch (op.next + i)).isSome = true) →
      ∀ cs ea, d.coords (cmDst op.cmd op.next) = some cs → d.addrOf true cs = some ea →
        ea + max 1 (transferOf op * d.ew / 8) ≤ 4096 * w.id.scr → (fmtBlock d.fmt = true → d.scaleAddr cs < 4096 * w.id.scr) →
        ∃ t w', goes t ∧ t.mem = s.mem ∧ t.wg? core op.slot = some w' ∧ w'.scratch = transferred op w.id.scr w.scratch op.next ∧
          w'.lanes = w.lanes ∧ w'.ctl = w.ctl) ∧
    (op.src.sp = false → d.sp = false → op.gather = false → 8 ≤ op.src.ew → fmtBlock op.src.fmt = false → 8 ≤ d.ew →
      fmtBlock d.fmt = false →
      ∀ cs sa cd da pa pb m1 m2, op.src.coords (cmSrc op.cmd false op.next 0) = some cs → op.src.addrOf false cs = some sa →
        d.coords (cmDst op.cmd op.next) = some cd → d.addrOf false cd = some da → sa % (op.src.ew / 8) = 0 → da % (d.ew / 8) = 0 →
        let now := fun (m : Memory) (ks : Tab Core) => { (s.choose).2 with cores := ks, mem := m }
        (∀ ks, (now s.mem ks).engSpot w.id false sa (op.src.ew / 8) .read = (.ok (.mem pa), now m1 ks)) →
        (∀ ks, (now m1 ks).engSpot w.id false da (d.ew / 8) .write = (.ok (.mem pb), now m2 ks)) →
        ∃ t, goes t ∧ t.wgs = s.wgs ∧
          t.mem = memWrite m2 pb (bytesOf (d.ew / 8) (copyCode op (some (ofBytes (memRead m1 pa (op.src.ew / 8)))))))

/-- R386, R299: once a copy with an LV object is done, COPY_ARRIVAL arrives on the object, once in ARR mode and with all the
bytes not yet counted in BYTES mode, and the copy leaves the engine. -/
def Sys2Proof.Claims.CopyArrives : Prop :=
  ∀ s core op w x s1 y s2, (s.core core).copies = [op] → Stands s core op.slot w → WgsStand s → op.stop = .none →
    cmLv op.cmd = true → cmCount op.cmd ≤ op.next → (∀ r ∈ s.fabric.out, r.copy ≠ some op.tag) → s.choice.headD 1 = 0 →
    s.engSpot w.id false (cmLva op.cmd) 16 .atomic = (.ok x, s1) →
    (s1.choose).2.engSpot w.id false (cmLva op.cmd) 16 .atomic = (.ok y, s2) →
    lvTarget (s2.spotNat y 16) ≠ 0 → lvFill (s2.spotNat y 16) < lvTarget (s2.spotNat y 16) →
    s1.spotNat x 16 = s2.spotNat y 16 →
    ∃ t, exec (.copyArrival core 0) s = .next t ∧
      t.mem = (s2.spotWrite y (bytesOf 16
        (if lvMode (s2.spotNat y 16) then lvArrive (s2.spotNat y 16) (op.written - op.arrived) else arrived (s2.spotNat y 16)))).mem ∧
      (t.core core).copies = []

/-- CPY and CPYG issue to the copy engine, which moves their elements and arrives on their level object. -/
def Obligations.CopiesComplete : Prop := CopiesIssue ∧ CopyChecksAreMade ∧ CopyEngineMovesElements ∧ CopyEngineTransfers ∧ CopyArrives

/-- R98, R118: BALLOC, BFREE, SQOP and an acceptable RETIRE complete: with the guard held and the section's reader count not
full, the request is the last on its way, the instruction is outstanding, and the control thread goes on; with the guard not
held they change nothing. -/
def Sys2Proof.Claims.EngineRequestsIssue : Prop :=
  ∀ (f : LForm) s p s', Issues s p s' → p.ctl = true → ∀ e ∈ requestRows f,
    let (i, mj) := e
    let (a, b, c) := (p.opA p.w.ctl mj f, p.opB p.w.ctl mj f, p.opC p.w.ctl mj f)
    (p.w.ctl.guard f.g = false → ∃ t, exec i s = .next t ∧ Effect p s' t f.g (codedLen false f) fun _ _ => []) ∧
    (p.w.ctl.guard f.g = true → (mj = .retire → s'.retireOk p.w.id.pid f a b c = true) →
      if p.countFull s' then exec i s = .next { s' with cur := none }
      else ∃ t, exec i s = .next t ∧ countHeld p s t ∧ t.mem = s.mem ∧ t.parts = s.parts ∧
        t.wg? p.w.id.core p.w.id.slot = some { oneMoreOp p (codedLen false f) with
          ctl := { Ahead p.w.ctl (codedLen false f) with
            outs := p.w.ctl.outs ++ [{ tag := s'.tags, left := f.la.toNat, ready := false, writes := [], owes := owesOf mj f,
                                         reissue := none }] } } ∧
        t.engines = s.engines ++
          [{ core := p.w.id.core, slot := p.w.id.slot, pid := p.w.id.pid, ctx := p.w.id.ctx, tag := s'.tags, pc := p.w.ctl.pc
             i := i, a := BitVec.ofNat 64 a, b := BitVec.ofNat 64 b, c := BitVec.ofNat 64 c, parity := parityOf p }])

/-- R99, R100, R388: POOL_ENGINE_OPERATION of a BALLOC answers BAD_POOL for a pool that is not there, EMPTY (counted) when no
unreserved block is free, and otherwise gives a block that was free: it is free no longer, has count 1, and its virtual
address is the answer. Of a BFREE it answers BAD_BLOCK for an address that is no block; ADDREF adds one to a live count below
65,535, RELEASE takes one from a live count and makes the block free at 0, and a count of 0 is NOT_LIVE. No other count
changes.
That ADDREF of a count of 0 is not counted in BADFREE is log 102. -/
def Sys2Proof.Claims.BlockOperations : Prop :=
  ∀ s inst r w (f : LForm), Sole s inst r w →
    let n := f.w2.toNat % 64
    (r.i = .balloc f → s.pool? r.pid n = none →
      PoolStep s inst r w (wrPair f.d 2 0) fun t => t.parts = s.parts) ∧
    (r.i = .bfreeRel f ∨ r.i = .bfreeAddref f → s.pool? r.pid n = none →
      PoolStep s inst r w (wrStatus f.d 2) fun t => t.parts = s.parts) ∧
    ∀ x, s.pool? r.pid n = some x →
      (r.i = .balloc f → x.free.length ≤ x.resv →
        PoolStep s inst r w (wrPair f.d 1 0) fun t => t.pool? r.pid n = some { x with emptyc := (x.emptyc + 1) % 2 ^ 32 }) ∧
      (r.i = .balloc f → x.resv < x.free.length →
        ∃ b, b ∈ x.free ∧ PoolStep s inst r w (wrPair f.d 0 (x.vbase.toNat + b * 2 ^ x.bshift)) fun t =>
          ∃ y, t.pool? r.pid n = some y ∧ CountsWith x y b 1 ∧ y.resv = x.resv ∧ y.free = x.free.erase b) ∧
      ((∀ b, b < x.nblk → r.a.toNat ≠ x.vbase.toNat + b * 2 ^ x.bshift) → r.i = .bfreeRel f ∨ r.i = .bfreeAddref f →
        PoolStep s inst r w (wrStatus f.d 3) fun t => t.parts = s.parts) ∧
      ∀ b, b < x.nblk → r.a.toNat = x.vbase.toNat + b * 2 ^ x.bshift →
        (x.count b = 0 → r.i = .bfreeAddref f → PoolStep s inst r w (wrStatus f.d 4) fun t => t.parts = s.parts) ∧
        (x.count b = 0 → r.i = .bfreeRel f → PoolStep s inst r w (wrStatus f.d 4) fun t =>
          t.pool? r.pid n = some { x with badfree := (x.badfree + 1) % 2 ^ 32 }) ∧
        (65535 ≤ x.count b → r.i = .bfreeAddref f → PoolStep s inst r w (wrStatus f.d 5) fun t => t.parts = s.parts) ∧
        (0 < x.count b → x.count b < 65535 → r.i = .bfreeAddref f → PoolStep s inst r w (wrStatus f.d 0) fun t =>
          ∃ y, t.pool? r.pid n = some y ∧ CountsWith x y b (x.count b + 1) ∧ y.free = x.free) ∧
        (0 < x.count b → r.i = .bfreeRel f → PoolStep s inst r w (wrStatus f.d 0) fun t =>
          ∃ y, t.pool? r.pid n = some y ∧ CountsWith x y b (x.count b - 1) ∧
            y.free = if x.count b = 1 then b :: x.free else x.free)

/-- Block and sequence instructions reach their engine, and BALLOC and BFREE answer with block and status. -/
def Obligations.BlockOperationsComplete : Prop := EngineRequestsIssue ∧ BlockOperations

/-- R103 to R107, R389, R425: POOL_ENGINE_OPERATION of an SQOP: CREATE makes a LIVE sequence of length 0 with an empty root table
and answers its handle; APPEND of 1 to 16,384 positions lengthens the sequence when its pools can supply the blocks; XLATE of a
position below LEN answers the address that the tables give, or BAD_TABLE; TRIM shortens; FORK makes a second sequence that
shares the first blocks, or answers the first of its statuses that applies; DROP frees the entry under the next generation; a
handle that names no such entry, or a position at or above LEN for XLATE, raises KV_HANDLE; and a sequence whose pool cannot be
reached answers BAD_POOL (R18).
CREATE, APPEND, XLATE and TRIM are said of pools of any BSHIFT, with blocks of 2^BSHIFT bytes: for a BSHIFT of 12 this is R106, for
another the model's choice (log 147). That a bad entry at the block FORK copies is BAD_TABLE is log 111, the owner of the new sequence
log 103. -/
def Obligations.SequenceOperationsComplete : Prop :=
  ∀ s inst r w (f : LForm), Sole s inst r w → MemInv s →
    (r.i = .sqopCreate f → r.pid < 16 → (∀ i e, s.handle? r.pid i = some e → e.gen < 2 ^ 20) →
      (∃ i, i < 262144 ∧ ∀ e, s.handle? r.pid i = some e → e.state = 0) →
      ∀ x mp, s.pool? r.pid (f.w2.toNat % 64) = some x → s.pool? r.pid x.mpool = some mp → mp.resv < mp.free.length →
        let ts := bitsAt f.w2.toNat 10 6
        4 ≤ ts → ts ≤ x.bshift →
        ∃ h i e mp', PoolStep s inst r w (wrPair f.d 0 h) fun t =>
          t.handleEntry r.pid h = some (i, e) ∧ e.state = 1 ∧ e.len = 0 ∧ e.nsb = 0 ∧ e.rsv = 0 ∧ e.tshift = ts ∧
          e.pool = f.w2.toNat % 64 ∧ e.owner = r.ctx ∧ t.pool? r.pid x.mpool = some mp' ∧ mp'.count e.root = 1 ∧
          ∀ k, k < 256 → t.phys (mp.pbase + e.root * 2 ^ mp.bshift + 4 * k) 4 = 0xFFFFFFFF) ∧
    (r.i = .sqopAppend f ∨ r.i = .sqopXlate f ∨ r.i = .sqopFork f ∨ r.i = .sqopTrim f ∨ r.i = .sqopDrop f →
      (s.handleEntry r.pid r.a.toNat = none ∨ ∃ i e, s.handleEntry r.pid r.a.toNat = some (i, e) ∧
        ((e.state ≠ 1 ∧ e.state ≠ 2 ∧ e.state ≠ 3) ∨ (e.state = 2 ∧ r.i ≠ .sqopDrop f) ∨
          (e.state = 1 ∧ r.i = .sqopXlate f ∧ e.len ≤ r.b.toNat))) →
      ∃ t w', exec (.poolEngineOperation inst) s = .next t ∧ t.wg? r.core r.slot = some w' ∧ w'.ctlSusp = .fault s.tags ∧
        (∃ q, tabGet t.frecs s.tags = some q ∧ bitsAt q.bits.toNat 79 72 = 0x09 ∧ bitsAt q.bits.toNat 255 192 = r.a.toNat) ∧
        w'.ctl = w.ctl.dropOut r.tag ∧ t.parts = s.parts ∧ t.mem = s.mem) ∧
    (∀ i e, s.handleEntry r.pid r.a.toNat = some (i, e) → e.state = 1 → s.pool? r.pid e.pool = none →
      (r.i = .sqopAppend f ∨ r.i = .sqopFork f ∨ r.i = .sqopTrim f ∨ r.i = .sqopDrop f ∨ r.i = .sqopXlate f ∧ r.b.toNat < e.len) →
        PoolStep s inst r w (wrPair f.d 2 0) fun t => t.parts = s.parts ∧ t.mem = s.mem) ∧
    ∀ i e x mp, s.handleEntry r.pid r.a.toNat = some (i, e) → e.state = 1 → s.pool? r.pid e.pool = some x →
      s.pool? r.pid x.mpool = some mp →
      let n := r.b.toNat
      let tpb := 2 ^ (x.bshift - e.tshift)
      (r.i = .sqopAppend f → n = 0 ∨ 16384 < n → PoolStep s inst r w (wrPair f.d 8 0) fun t => t.parts = s.parts) ∧
      (r.i = .sqopAppend f → 0 < n → n ≤ 16384 →
        let nsb := ceilDiv (e.len + n) tpb
        let data := nsb - e.nsb
        let leaves := ceilDiv nsb 1024 - ceilDiv e.nsb 1024
        nsb ≤ 262144 → e.len + n < 2 ^ 32 → (data ≠ 0 → e.nsb % 1024 ≠ 0 → (tableBlock s mp e e.nsb).1 < mp.nblk) →
        e.rsv = 0 → e.rsvM = 0 → x.resv + data + leaves ≤ x.free.length → mp.resv + data + leaves ≤ mp.free.length →
        PoolStep s inst r w (wrPair f.d 0 0) fun t => t.handle? r.pid i = some { e with len := e.len + n, nsb := nsb }) ∧
      (r.i = .sqopXlate f → n < e.len →
        let (leaf, b) := tableBlock s mp e (n / tpb)
        PoolStep s inst r w
          (if leaf < mp.nblk ∧ b < x.nblk then wrPair f.d 0 (x.vbase.toNat + b * 2 ^ x.bshift + n % tpb * 2 ^ e.tshift)
           else wrPair f.d 9 0) fun t => t.parts = s.parts ∧ t.mem = s.mem) ∧
      (r.i = .sqopFork f →
        let bs := forkBlocks s x mp e n
        let part := bs.length - forkShared x e n
        let tabs := 1 + ceilDiv bs.length 1024
        let same := fun (st : Nat) => PoolStep s inst r w (wrPair f.d st 0) fun t => t.parts = s.parts ∧ t.mem = s.mem
        let bad := ∃ z ∈ bs, ¬ (z.1 < mp.nblk ∧ z.2 < x.nblk)
        let full := ∀ j, j < 262144 → ∃ e', s.handle? r.pid j = some e' ∧ e'.state ≠ 0
        let many := ∃ z ∈ bs.take (forkShared x e n), 65535 < forkCount s x mp e n z.2
        let short := if e.pool = x.mpool then x.free.length - x.resv < part + tabs
          else x.free.length - x.resv < part ∨ mp.free.length - mp.resv < tabs
        (e.len < n → same 8) ∧ (n ≤ e.len → bad → same 9) ∧ (n ≤ e.len → ¬ bad → full → same 7) ∧
        (n ≤ e.len → ¬ bad → ¬ full → many → same 5) ∧
        (n ≤ e.len → ¬ bad → ¬ full → ¬ many → short → PoolStep s inst r w (wrPair f.d 1 0) fun t =>
          t.mem = s.mem ∧ ∀ j, t.handle? r.pid j = s.handle? r.pid j) ∧
        (n ≤ e.len → ¬ bad → ¬ full → ¬ many → ¬ short → r.pid < 16 →
          (∀ j e', s.handle? r.pid j = some e' → e'.gen < 2 ^ 20) → PoolKeeps x → PoolKeeps mp → mp.bshift = 12 →
          (e.pool ≠ x.mpool → PoolsApart x mp) → (∀ z ∈ bs, x.count z.2 ≠ 0) → e.nsb ≤ 262144 → bs.length ≤ e.nsb →
          ∃ h, PoolStep s inst r w (wrPair f.d 0 h) fun t => Forked s t r x mp i e n h)) ∧
      (r.i = .sqopTrim f → if e.len < n then PoolStep s inst r w (wrPair f.d 8 0) fun t => t.parts = s.parts
        else PoolStep s inst r w (wrPair f.d 0 0) fun t => t.handle? r.pid i = some { e with len := n, nsb := ceilDiv n tpb }) ∧
      (r.i = .sqopDrop f → PoolStep s inst r w (wrPair f.d 0 0) fun t => ∃ e', t.handle? r.pid i = some e' ∧
        e'.state = (if e.gen = 0xFFFFF then 7 else 0) ∧ (e.gen < 0xFFFFF → e'.gen = e.gen + 1) ∧ e'.nsb = 0 ∧ e'.len = 0)

/-- R112, R390: RSENTER completes when no active thread's depth is 15 and the counter of the epoch's parity stays within 4,095:
each active thread's depth rises by one, a thread that was outside takes the parity of the epoch its core last received, and
that counter rises by the threads that were outside. RSLEAVE completes when no active thread's depth is 0: each depth falls by
one, and each thread that leaves gives its count back. A path with a thread at the limit raises ILLEGAL_INSTR; a full counter
makes the path wait. -/
def Obligations.ReaderSectionsComplete : Prop :=
  ∀ (f : SForm) s p s', s.path? = some (p, s') →
    let c := p.w.id.core
    let act := p.active f.g
    let par := (s.core c).eSeen % 2
    let came := (act.filter fun e => e.2.rdepth == 0).length
    let left := fun (zero : Bool) => (act.filter fun e => e.2.rdepth == 1 && (e.2.rpar == 0) == zero).length
    ((∃ e ∈ act, e.2.rdepth = 15) → exec (.rsenter f) s = .next (p.raise s' (.plain 0x01) false)) ∧
    ((∃ e ∈ act, e.2.rdepth = 0) → exec (.rsleave f) s = .next (p.raise s' (.plain 0x01) false)) ∧
    ((∀ e ∈ act, e.2.rdepth ≠ 15) →
      if came ≠ 0 ∧ 4095 < (if par = 0 then (s.core c).c0 else (s.core c).c1) + came then
        exec (.rsenter f) s = .next { s' with cur := none }
      else ∃ t k, exec (.rsenter f) s = .next t ∧ Raised (s.core c) (t.core c) par came ∧
        (∀ d, d ≠ c → t.core d = s.core d) ∧
        PathBecomes p { s' with cores := k } t fun _ th => Ahead (if th.guard f.g then
          { th with rdepth := th.rdepth + 1, rpar := if th.rdepth = 0 then par else th.rpar } else th) 4) ∧
    ((∀ e ∈ act, e.2.rdepth ≠ 0) →
      ∃ t k, exec (.rsleave f) s = .next t ∧
        t.core c = { s.core c with c0 := (s.core c).c0 - left true, c1 := (s.core c).c1 - left false } ∧
        (∀ d, d ≠ c → t.core d = s.core d) ∧
        PathBecomes p { s' with cores := k } t fun _ th =>
          Ahead (if th.guard f.g then { th with rdepth := th.rdepth - 1 } else th) 4)

/-- R113, R114: EPOCH_ADVANCE adds one to a domain's E when the reader counts of the parity opposite to E are zero, every core
has received E, some retire queue holds an entry, and 64 cycles have passed since the last advance of a later epoch than 0;
otherwise it changes nothing. Memory, partitions and workgroups stay.
That the advance from E = 0 waits for nothing more is log 49. -/
def Sys2Proof.Claims.EpochAdvances : Prop :=
  ∀ (s : State) dom,
    let d := s.domain dom
    let may := Quiescent s dom ((d.e.toNat + 1) % 2) ∧ (∀ c ∈ s.coresOf dom, (s.core c).eSeen = d.e.toNat) ∧
      (∃ p ∈ s.partsOf dom, p.2.rq ≠ []) ∧ (d.e = 0 ∨ d.lastAdv + 64 ≤ s.cycle)
    (¬ may → exec (.epochAdvance dom) s = .next s) ∧
    (may → ∃ t, exec (.epochAdvance dom) s = .next t ∧ t.domain dom = { e := d.e + 1, lastAdv := s.cycle } ∧
      (∀ k, k ≠ dom → t.domain k = s.domain k) ∧ t.mem = s.mem ∧ t.parts = s.parts ∧ t.wgs = s.wgs ∧ t.cores = s.cores)

/-- R112: EPOCH_RECEIVE: the core has received its domain's E; nothing else changes in it or in another core. -/
def Sys2Proof.Claims.EpochIsReceived : Prop :=
  ∀ (s : State) c, ∃ t, exec (.epochReceive c) s = .next t ∧
    t.core c = { s.core c with eSeen := (s.domain (s.domOfCore c)).e.toNat } ∧ (∀ d, d ≠ c → t.core d = s.core d) ∧
    t.mem = s.mem ∧ t.parts = s.parts ∧ t.wgs = s.wgs ∧ t.domains = s.domains

/-- R123: EPOCH_REPORT counts a report of a member of the group, of this device once it has sent one; when every member has
reported twice G moves on and the counts start again. FABRIC_DEVICE_REMOVE takes a device out of the group, which may let G move
on. Other groups, memory and workgroups stay. -/
def Sys2Proof.Claims.FabricEpochsMove : Prop :=
  (∀ s g dev, let x := s.fabGroup g
    (dev ≠ s.fabric.devId ∧ dev ∈ x.members ∨ dev = s.fabric.devId ∧ g ∈ s.fabric.epochTx) →
    ∃ t, exec (.epochReport g dev) s = .next t ∧
      t.fabGroup g = counted x (tabSet x.reports dev ((tabGet x.reports dev).getD 0 + 1)) x.members x.arrived ∧
      (∀ h, h ≠ g → t.fabGroup h = s.fabGroup h) ∧ t.mem = s.mem ∧ t.wgs = s.wgs ∧ t.parts = s.parts) ∧
  ∀ s g dev, let x := s.fabGroup g
    ∃ t, exec (.fabricDeviceRemove g dev) s = .next t ∧
      t.fabGroup g = counted x x.reports (x.members.filter fun d => d != dev) (x.arrived.filter fun d => d != dev) ∧
      (∀ h, h ≠ g → t.fabGroup h = s.fabGroup h) ∧ t.mem = s.mem ∧ t.wgs = s.wgs ∧ t.parts = s.parts

/-- E advances when no reader of the other parity is left, cores receive it, and G follows the reports of a group. -/
def Obligations.EpochsMove : Prop := EpochAdvances ∧ EpochIsReceived ∧ FabricEpochsMove

/-- R118 to R121, R123, R392: an unacceptable RETIRE answers BAD_ARG and enters nothing; RETIRE_STAMP appends the entry of a
RETIRE on its way, stamped with its domain's E and its group's G, while fewer than 1,024 are unreleased, and answers OK; and
RETIRE_RELEASE of the oldest entry, once E is two past its stamp and, for a FAB entry, G too, performs its action and removes
it: a release of every block of its range, an arrival, the eight bytes of its epoch with the context's vector, or nothing; an
entry not yet eligible stays. -/
def Obligations.RetiredObjectsAreReleased : Prop :=
  (∀ (f : LForm) s p s', s.path? = some (p, s') → p.ctl = true → p.w.ctl.guard f.g = true →
    s'.retireOk p.w.id.pid f (p.opA p.w.ctl .retire f) (p.opB p.w.ctl .retire f) (p.opC p.w.ctl .retire f) = false →
    ∃ t, exec (.retire f) s = .next t ∧ CtlGets p s' t f.la.toNat (codedLen false f) (wrStatus f.d 8)) ∧
  (∀ s pid P r w (f : LForm), s.part? pid = some P → s.retireReqs pid = [r] → r.i = .retire f → r.pid = pid →
    Stands s r.core r.slot w → WgsStand s → (w.ctl.outs.any fun o => o.tag == r.tag) = true →
    if 1024 ≤ P.rq.length then exec (.retireStamp pid) s = .next s
    else ∃ t, exec (.retireStamp pid) s = .next t ∧ Answered s t r w (wrStatus f.d 0) ∧
      t.part? pid = some { P with rq := P.rq ++ [{
        epoch := (s.domain (s.domOf pid)).e, addr := r.a, size := r.b.toNat % 2 ^ 32, arg := r.c, ctx := r.ctx
        fab := f.f.getLsbD 2, act := f.f.toNat % 4, gstamp := (s.fabGroup (groupKey P pid)).g }] } ∧ t.mem = s.mem) ∧
  ∀ s pid P e es, s.part? pid = some P → P.rq = e :: es →
    let due := e.epoch.toNat + 2 ≤ (s.domain (s.domOf pid)).e.toNat ∧ (e.fab = true → e.gstamp + 2 ≤ (s.fabGroup (groupKey P pid)).g)
    (¬ due → exec (.retireRelease pid) s = .next s) ∧
    (due → ∃ t P', exec (.retireRelease pid) s = .next t ∧ t.part? pid = some P' ∧ P'.rq = es ∧
      (e.act = 3 → t.mem = s.mem ∧ t.wgs = s.wgs ∧ P' = { P with rq := es }) ∧
      (e.act = 0 → ∀ x k, s.pool? pid (e.arg.toNat % 64) = some x → x.blockAt e.addr.toNat = some k →
        ∃ y, t.pool? pid (e.arg.toNat % 64) = some y ∧
          ∀ b, y.count b = if k ≤ b ∧ b < k + e.size / 2 ^ x.bshift then x.count b - 1 else x.count b) ∧
      (e.act = 2 → ∀ s1, s.agentWrite (agentOf pid e.ctx) e.arg.toNat (bytesOf 8 e.epoch.toNat) = (.ok (), s1) →
        t.mem = s1.mem ∧ ∀ Q, s1.part? pid = some Q → P' = { Q with rq := es, msix := P'.msix } ∧
          VectorRaised Q.msix P'.msix (2 + e.ctx)) ∧
      (e.act = 1 → ∀ s1, s.agentArrive (agentOf pid e.ctx) e.arg.toNat e.size = (.ok (), s1) → t.mem = s1.mem))

/-- R393: ROUTE completes: each counter of the path's cluster rises by the sum of what the active lanes add to it, and stops at
2^32 − 1; every lane of the path, or the control thread, goes on, and nothing else changes.
It counts at issue (log 3). -/
def Sys2Proof.Claims.RouteCounts : Prop :=
  ∀ (f : LForm) s p s', s.path? = some (p, s') → cellsWf (s.cluster (p.w.id.core / 4)).counters = true →
    let sum := fun (k : Nat) => ((p.active f.g).map fun e =>
      if p.opA e.2 .route f % 256 = k then p.opB e.2 .route f % 2 ^ 32 else 0).sum
    let cl := s.cluster (p.w.id.core / 4)
    ∃ t k cl', exec (.route f) s = .next t ∧ PathBecomes p { s' with clusters := k } t (fun _ th => Ahead th (codedLen false f)) ∧
      t.cluster (p.w.id.core / 4) = { cl with counters := cl' } ∧
      (∀ c, c ≠ p.w.id.core / 4 → t.cluster c = s.cluster c) ∧
      ∀ k, (cellGet cl' k).toNat = min ((cellGet cl.counters k).toNat + sum k) (2 ^ 32 - 1)

/-- R394: RCSNAP completes for a count of 1 or more within the 256 counters and an aligned range of the allocation outside FIFO
segments: the counters are in scratchpad, their sum is in d, and they are 0 unless KEEP is set; other counters and other bytes
stay. A bad count raises ILLEGAL_INSTR, a bad offset MISALIGNED, a bad range PERMISSION.
That MISALIGNED comes before PERMISSION is log 51. -/
def Sys2Proof.Claims.CountersAreSnapped : Prop :=
  ∀ (f : LForm) s p s', s.path? = some (p, s') → p.ctl = true → p.w.ctl.guard f.g = true → WgsStand s →
    let first := f.w2.toNat % 256
    let count := f.w2.toNat / 256 % 512
    let off := p.opA p.w.ctl .rcsnap f % 2 ^ 32
    let cl := s.cluster (p.w.id.core / 4)
    if count = 0 ∨ 256 < first + count then exec (.rcsnap f) s = .next (p.raise s' (.plain 0x01) false)
    else if off % 4 ≠ 0 then exec (.rcsnap f) s = .next (p.raise s' { code := 0x03, sub := 0, va := off, lvl := 0, acc := 1 } false)
    else if p.w.rangeOk off (4 * count) = false then
      exec (.rcsnap f) s = .next (p.raise s' { code := 0x06, sub := 2, va := off, lvl := 0, acc := 1 } false)
    else cellsWf p.w.scratch = true → cellsWf cl.counters = true →
      ∃ t k sc, exec (.rcsnap f) s = .next t ∧
      CtlGets { p with w := { p.w with scratch := sc } } { s' with clusters := k } t f.la.toNat (codedLen false f)
        (p.wr64 f.d ((List.range count).map fun i => (cellGet cl.counters (first + i)).toNat).sum) ∧
      (∀ i, i < count → spNat sc (off + 4 * i) 4 = (cellGet cl.counters (first + i)).toNat) ∧
      (∀ a, a < off ∨ off + 4 * count ≤ a → cellGet sc a = cellGet p.w.scratch a) ∧
      ∀ i, cellGet (t.cluster (p.w.id.core / 4)).counters i =
        if f.w2.getLsbD 17 = false ∧ first ≤ i ∧ i < first + count then 0 else cellGet cl.counters i

/-- ROUTE counts saturating, and RCSNAP copies, sums and clears counters. -/
def Obligations.RoutingCountersCount : Prop := RouteCounts ∧ CountersAreSnapped

/-- R398, Tables 6-3, 6-7 and 14-7: CSRR completes with the register's value; a CSRW that is no debug command, no FIFOCFG and no
ACCMASK completes and changes what its register reads as in its writable fields alone, and no other control register; nothing
else in the machine changes. -/
def Obligations.ControlRegistersComplete : Prop :=
  (∀ f : LForm, Completes (.csrr f) f.g 12 fun s p _ _ => p.wr64 f.d (s.csr p.w (f.w2.toNat % 4096))) ∧
  (∀ f : LForm, ∃ go : State → Path → Csrs,
    CtlStep (.csrw f) f.g (codedLen false f) (fun _ _ => True) (fun s p => { p.w with csrs := go s p }) ∧
    ∀ (s : State) (p : Path) m, m ∈ csrNumbers → let n := f.w2.toNat % 4096
      n ≠ 0x18 → n ≠ 0x20 →
      s.csr { p.w with csrs := go s p } m = csrAfter n m (BitVec.ofNat 64 (p.opA p.w.ctl .csrw f)) (s.csr p.w m)) ∧
  ∀ (s : State) (w : Wg),
    s.csr w 0x00 = s.asidOf w.id.pid w.id.ctx * 2 ^ 48 + w.id.pid * 2 ^ 44 + w.id.ctx * 2 ^ 39 ∧
    s.csr w 0x07 = (if w.csrs.kill then 2 else 0) + (if w.csrs.hm then 1 else 0) ∧
    (∀ c r, s.ctx? w.id.pid w.id.ctx = some c → c.run = some r → s.csr w 0x01 = r.deadline.toNat ∧
      s.csr w 0x02 = r.count + (r.since.map fun t => s.cycle - t).getD 0) ∧
    s.csr w 0x03 = w.csrs.trapvec.toNat ∧ s.csr w 0x04 = w.csrs.trapcause.toNat ∧ s.csr w 0x05 = w.csrs.trappc.toNat ∧
    s.csr w 0x06 = w.csrs.trapinfo.toNat ∧ s.csr w 0x18 = w.csrs.fifocfg.toNat ∧ s.csr w 0x20 = w.csrs.accmask.toNat

/-- R170, R171, R174: a CSRW of FIFOCFG that names a segment outside the allocation, or the same one twice, changes nothing; any
other waits while an access to a segment concerned is not yet performed, and then completes with FIFOCFG as written in its
writable bits and, for each FIFO whose segment changes, the FIFO empty and both segments zero. A CSRW of ACCMASK that another workgroup of the core
stands against, or of more than 16 tiles, changes nothing; any other completes, and each tile gained holds +0.0.
R170 is silent on two points, which are the model's: that a segment in FIFO mode which passes to the other FIFO is zeroed and the FIFO
emptied (log 150, DESIGN CHOICE), and which operations count as accesses to a segment (log 44, DEDUCED). -/
def Sys2Proof.Claims.FifosAndTilesAreConfigured : Prop :=
  (∀ f : LForm, CtlStep (.csrwFifocfg f) f.g (codedLen false f)
      (fun _ p => fifoCfgBad p.w (BitVec.ofNat 64 (p.opA p.w.ctl .csrw f) &&& 0x803F803F#64) = true) (fun _ p => p.w)) ∧
  (∀ (f : LForm) (s : State) p s', s.path? = some (p, s') → p.ctl = true → p.w.ctl.guard f.g = true →
    let cfg := BitVec.ofNat 64 (p.opA p.w.ctl .csrw f) &&& 0x803F803F#64
    fifoCfgBad p.w cfg = false →
    if s'.reaches p.w (p.w.fifoChanges cfg) then exec (.csrwFifocfg f) s = .next { s' with cur := none } else
    ∃ w' : Wg, exec (.csrwFifocfg f) s = .next (s'.setWg { w' with ctl := Ahead p.w.ctl (codedLen false f) }) ∧
      w'.csrs = { p.w.csrs with fifocfg := cfg } ∧ w'.lanes = p.w.lanes ∧ w'.groups = p.w.groups ∧ w'.s = p.w.s ∧
      (fifoSeg p.w.csrs.fifocfg 0 ≠ fifoSeg cfg 0 → w'.fifo0 = { head := 0, data := [] }) ∧
      (fifoSeg p.w.csrs.fifocfg 1 ≠ fifoSeg cfg 1 → w'.fifo1 = { head := 0, data := [] }) ∧
      (fifoSeg p.w.csrs.fifocfg 0 = fifoSeg cfg 0 → w'.fifo0 = p.w.fifo0) ∧
      (fifoSeg p.w.csrs.fifocfg 1 = fifoSeg cfg 1 → w'.fifo1 = p.w.fifo1) ∧
      let hit := fun (a : Nat) => ∃ k, k < 2 ∧ fifoSeg p.w.csrs.fifocfg k ≠ fifoSeg cfg k ∧
        (fifoSeg p.w.csrs.fifocfg k = some (a / 65536) ∨ fifoSeg cfg k = some (a / 65536))
      ∀ a, (hit a → cellGet w'.scratch a = 0) ∧ (¬ hit a → cellGet w'.scratch a = cellGet p.w.scratch a)) ∧
  ∀ (f : LForm) s p s', Issues s p s' → p.ctl = true → p.w.ctl.guard f.g = true →
    let v := BitVec.ofNat 64 (p.opA p.w.ctl .csrw f)
    let held := (∃ e ∈ s.wgs, e.2.id.core = p.w.id.core ∧ e.2.id.slot ≠ p.w.id.slot ∧ e.2.csrs.accmask &&& v ≠ 0) ∨
      16 < ((List.range 64).filter fun i => v.getLsbD i).length
    (held → exec (.csrwAccmask f) s = .next (s'.setWg { p.w with ctl := Ahead p.w.ctl (codedLen false f) })) ∧
    (¬ held → ∃ t, exec (.csrwAccmask f) s = .next t ∧
      t.wg? p.w.id.core p.w.id.slot = some { p.w with
        csrs := { p.w.csrs with accmask := v }, ctl := Ahead p.w.ctl (codedLen false f) } ∧
      t.mem = s.mem ∧ t.parts = s.parts ∧
      ∀ q j r c, q < 4 → j < 16 → r < 64 → c < 64 →
        tileAt t p.w.id.core q j r c =
          if v.getLsbD (16 * q + j) = true ∧ p.w.csrs.accmask.getLsbD (16 * q + j) = false then 0
          else tileAt s p.w.id.core q j r c)

/-- R168: BANK_RETURN_TO_CACHE of a SCRATCH bank that has held nothing for 4,096 cycles makes it CACHE; before then, and for a bank
that holds something, it changes nothing. -/
def Sys2Proof.Claims.BanksReturn : Prop :=
  ∀ (s : State) core b,
    (∀ since, (s.core core).bank b = .scratch [] since →
      if since + 4096 ≤ s.cycle then
        ∃ t, exec (.bankReturnToCache core b) s = .next t ∧ (t.core core).bank b = .cache ∧
          (∀ k, k ≠ b → (t.core core).bank k = (s.core core).bank k) ∧ (∀ k, k ≠ core → t.core k = s.core k) ∧ t.wgs = s.wgs ∧ t.mem = s.mem
      else exec (.bankReturnToCache core b) s = .next s) ∧
    (∀ x h since, (s.core core).bank b = .scratch (x :: h) since → exec (.bankReturnToCache core b) s = .next s)

/-- FIFOCFG and ACCMASK take effect or are ignored, and banks that back nothing return to the cache. -/
def Obligations.BanksFifosAndTilesFollow : Prop := FifosAndTilesAreConfigured ∧ BanksReturn

/-- R187, R188: the debug commands complete: STOPALL halts every group; RESUME of a halted group lets it go on past its BKPT,
RESUMEALL every halted group; STEP of a halted group lets it issue once; naming a group that is not halted changes nothing.
That the PC passes the BKPT in the command's row is log 35; that a group with a STEP still counts as halted is the model's choice
(log 132). -/
def Sys2Proof.Claims.DebugCommandsComplete : Prop :=
  let names := fun (w : Wg) (v : Nat) (g : Nat) => v % 32 = g ∧ g < w.ngroups ∧ (w.group g).halted = true
  ∀ (f : LForm) s p s', s.path? = some (p, s') → p.ctl = true → p.w.ctl.guard f.g = true →
    let v := p.opA p.w.ctl .csrw f % 2 ^ 64
    let done := fun (w' : Wg) => s'.setWg { w' with ctl := Ahead p.w.ctl (codedLen false f) }
    (∃ w', exec (.dbgStopall f) s = .next (done w') ∧ w'.lanes = p.w.lanes ∧ w'.s = p.w.s ∧
      w'.csrs = { p.w.csrs with stopall := v.testBit 1, att := v.testBit 0 } ∧
      ∀ g, g < p.w.ngroups → w'.group g = { p.w.group g with halted := true, stepping := false }) ∧
    ((∀ g, ¬ names p.w v g) → exec (.dbgcmdResume f) s = .next (done p.w) ∧ exec (.dbgcmdStep f) s = .next (done p.w)) ∧
    (∀ g, names p.w v g →
      (∃ w', exec (.dbgcmdResume f) s = .next (done w') ∧ w'.s = p.w.s ∧ w'.csrs = p.w.csrs ∧ PastBreaks p.w w' g ∧
        w'.group g = { p.w.group g with halted := false, stepping := false, brk := 0 } ∧
        ∀ h, h ≠ g → w'.group h = p.w.group h) ∧
      ∃ w', exec (.dbgcmdStep f) s = .next (done w') ∧ w'.s = p.w.s ∧ w'.csrs = p.w.csrs ∧ PastBreaks p.w w' g ∧
        w'.group g = { p.w.group g with stepping := true, brk := 0 } ∧ ∀ h, h ≠ g → w'.group h = p.w.group h) ∧
    ∃ w', exec (.dbgcmdResumeall f) s = .next (done w') ∧ w'.s = p.w.s ∧ w'.csrs = p.w.csrs ∧
      ∀ g, g < p.w.ngroups →
        if (p.w.group g).halted then PastBreaks p.w w' g ∧ w'.group g = { p.w.group g with halted := false, stepping := false, brk := 0 }
        else w'.group g = p.w.group g

/-- R405: SYS.DBG with room in the fault queue completes: a record of BREAKPOINT with its operand is on its way, decided and with
no effect on the thread, which goes on; without room it waits. -/
def Sys2Proof.Claims.DebugRecordIsPosted : Prop :=
  ∀ (f : LForm) s p s' P, Issues s p s' → p.ctl = true → p.w.ctl.guard f.g = true → s.part? p.w.id.pid = some P →
    if (P.fqtail - P.fqhead).toNat + (s.frecs.filter fun e => e.2.pid == p.w.id.pid && e.2.outcome.isSome).length < 4096 then
      ∃ t q, exec (.sysDbg f) s = .next t ∧
        t.wg? p.w.id.core p.w.id.slot = some { p.w with ctl := Ahead p.w.ctl (codedLen false f) } ∧
        tabGet t.frecs s.tags = some q ∧ q.outcome = some 0 ∧ bitsAt q.bits.toNat 79 72 = 0x0D ∧
        bitsAt q.bits.toNat 255 192 = p.opA p.w.ctl .sys f % 2 ^ 64 ∧ bitsAt q.bits.toNat 191 128 = p.w.ctl.pc.toNat ∧
        t.mem = s.mem ∧ t.parts = s.parts
    else exec (.sysDbg f) s = .next { s' with cur := none }

/-- The debug commands halt, resume and step groups, and SYS.DBG posts its record. -/
def Obligations.DebuggingCompletes : Prop := DebugCommandsComplete ∧ DebugRecordIsPosted

/-- R404, R116: WAIT.ENG completes once no engine operation of the workgroup is in flight, an unanswered FETCHW among them, and
waits until then (that an unanswered FETCHW is one of them is log 46, DEDUCED); WAIT.CYC of n > 0 cycles makes the control thread
wait until n cycles have gone by, of 0 not at all, and WAIT_CYC_EXPIRY ends the wait then and no sooner. -/
def Sys2Proof.Claims.WaitsComplete : Prop :=
  (∀ (f : LForm) s p s', s.path? = some (p, s') → p.ctl = true →
    if p.w.ctl.guard f.g = true ∧ p.w.engOps ≠ 0 then exec (.waitEng f) s = .next { s' with cur := none }
    else exec (.waitEng f) s = .next (s'.setWg { p.w with ctl := Ahead p.w.ctl (codedLen false f) })) ∧
  (∀ f : LForm, CtlStep (.waitCyc f) f.g (codedLen false f) (fun _ _ => True) fun s p =>
    let n := p.opA p.w.ctl .wait f % 2 ^ 32
    if n = 0 then p.w else { p.w with ctl := { p.w.ctl with wait := .cyc (s.cycle + n) 0 } }) ∧
  ∀ s core slot w due left, Stands s core slot w → w.ctl.wait = .cyc due left →
    exec (.waitCycExpiry core slot) s =
      .next (s.setWg { w with ctl := { w.ctl with wait := if due ≤ s.cycle then .none else .cyc due left } })

/-- R405, R73: SYS.TLBINV and, from context 0, SYS.TLBINV.PART complete once no access to another device that used a translation
they cover is unanswered, and wait until then: the control thread goes on, no memory, register or table changes, and no thread of
the ASID of the context keeps a last page that meets the range of B bytes from A, the whole address space when B is 0; SYS.TLBINV.PART
names no range and leaves no last page to any thread of the partition's ASIDs. From another context it raises PRIVILEGED.
That nothing but last pages holds translations is log 4. -/
def Sys2Proof.Claims.TranslationsAreInvalidated : Prop :=
  ∀ (f : LForm) s p s', Issues s p s' → p.ctl = true → p.w.ctl.guard f.g = true →
    let (a, n) := (p.opA p.w.ctl .sys f, p.opB p.w.ctl .sys f)
    let outside := fun (va len : Nat) (th : Thread) => ∀ l, th.last = some l → va + len ≤ l.va ∨ l.va + l.size ≤ va
    let gone := fun (t : State) (asids : List Nat) (va len : Nat) => ∀ e ∈ t.wgs, e.2.id.pid = p.w.id.pid →
      s.asidOf p.w.id.pid e.2.id.ctx ∈ asids → outside va len e.2.ctl ∧ ∀ x ∈ e.2.lanes, outside va len x.2
    let kept := fun (t : State) => t.mem = s.mem ∧ t.parts = s.parts ∧
      ∃ w', t.wg? p.w.id.core p.w.id.slot = some w' ∧ w'.ctl.pc = p.w.ctl.pc + BitVec.ofNat 64 (codedLen false f) ∧
        w'.ctl.k = p.w.ctl.k ∧ w'.s = p.w.s ∧ w'.csrs = p.w.csrs ∧
        ∀ k, (tabGet w'.lanes k).map (fun th => (th.pc, th.v, th.p)) = (tabGet p.w.lanes k).map fun th => (th.pc, th.v, th.p)
    let ends := fun (i : Instr) (asids : List Nat) (va len : Nat) =>
      if ∃ x ∈ asids, s.remoteIn p.w.id.pid x va len = true then exec i s = .next { s' with cur := none }
      else ∃ t, exec i s = .next t ∧ kept t ∧ gone t asids va len
    (n ≠ 0 → ends (.sysTlbinv f) [s.asidOf p.w.id.pid p.w.id.ctx] a n) ∧
    (n = 0 → ends (.sysTlbinv f) [s.asidOf p.w.id.pid p.w.id.ctx] 0 (2 ^ 57)) ∧
    (p.w.id.ctx ≠ 0 → exec (.sysTlbinvPart f) s = .next (p.raise s' (.plain 0x02) false)) ∧
    (p.w.id.ctx = 0 → ends (.sysTlbinvPart f) (s.asids p.w.id.pid) 0 (2 ^ 57))

/-- WAIT, SYS.TLBINV and SYS.TLBINV.PART complete. -/
def Obligations.WaitsAndInvalidationsComplete : Prop := WaitsComplete ∧ TranslationsAreInvalidated

/-- R397: REQOP.EMIT, CANCEL and GET of a slot that is not bound answer 1 and 0. Of a bound one, EMIT keeps the token and answers
OK when none was emitted in the step and the prefill ends with it, and answers 2 otherwise; CANCEL makes a RUNNING request
CANCELLING, and answers 3 for another; GET answers the field, changing nothing; the request's other fields and memory stay. -/
def Obligations.RequestOperationsComplete : Prop :=
  ∀ (f : LForm) s p s', s.path? = some (p, s') → p.ctl = true → p.w.ctl.guard f.g = true →
    let n := codedLen false f
    let ends := fun (i : Instr) (s1 : State) (st x : Nat) => ∃ t, exec i s = .next t ∧ Effect p s1 t f.g n fun _ _ => wrPair f.d st x
    match s'.boundSlot p.w.id (p.opA p.w.ctl .reqop f) with
    | none => ∀ i ∈ [Instr.reqopEmit f, .reqopCancel f, .reqopGet f], ends i s' 1 0
    | some (c, k, r) =>
      let set := fun (r : Request) => s'.setCtx p.w.id.pid p.w.id.ctx { c with adm := { c.adm with slots := tabSet c.adm.slots k r } }
      let tok := BitVec.ofNat 32 (p.opB p.w.ctl .reqop f)
      (if r.emitted = none ∧ r.prem0 ≤ r.q then ends (.reqopEmit f) (set { r with emitted := some tok }) 0 0
       else ends (.reqopEmit f) (set r) 2 0) ∧
      (if r.state = 2 then ends (.reqopCancel f) (set { r with state := 5 }) 0 0 else ends (.reqopCancel f) (set r) 3 0) ∧
      ends (.reqopGet f) (set r) 0 (c.reqField r (f.w2.toNat % 256))

/-- R88, R305, R306: RLD, RST and RATOM complete for lanes whose leaves name this device when it accepts their accesses: each lane
reads, writes or updates its bytes and takes its result, at once or with LA > 0 when the instruction completes, lanes of a RATOM
on different locations each its own, and what may enter channel 0 then is sent. For a lane whose leaf names another device they
issue: its request, with the address, the bytes, the next SEQ of that device and this device's number, goes on channel 0 when a
slot is free, its instruction is outstanding, and the thread goes on; but of a context that is PREEMPTED it is not sent yet. While
a thread has an unanswered request to a line that it names again, they wait. That this device's leaves get the checks of a target
is log 101, and what a PREEMPTED context's messages do log 155 (both the model's reading). -/
def Sys2Proof.Claims.RemoteAccessesComplete : Prop :=
  ∀ (f : LForm) s p s', Issues s p s' → Plain p f → ∀ e ∈ remoteRows f,
    let (i, mj, acc) := e
    let req := p.gather i mj f
    let n := remoteBytes mj f
    (s'.remoteClash p mj f req.lanes = true → exec i s = .next { s' with cur := none }) ∧
    (s'.remoteClash p mj f req.lanes = false → ∀ vs s2, remotesHere mj acc f p req.lanes s' = some (vs, s2) →
      (mj = .ratom → (vs.map fun x => x.2.1).Nodup) →
      ∃ t, exec i s = .next t.serveSlots ∧
        Performed p s2 t f f.la.toNat (mj == .rld) none (results vs fun x => remoteGets p mj f x.2)) ∧
    (s'.remoteClash p mj f req.lanes = false → ∀ o dev pa s2 th, req.lanes = [o] → eaOf mj f o.a.toNat % n = 0 →
      p.spot s' o.lane 0 (eaOf mj f o.a.toNat) n acc true = (.ok (.remote dev pa), s2) → dev ≠ s2.fabric.devId →
      (p.reload s2).thread o.lane = some th → th.wait = .none → (∀ r ∈ s2.fabric.out, r.sent = true ∧ r.tag < s2.tags) →
      (s2.fabric.slotsUsed p.w.id.core dev false < ((s2.part? p.w.id.pid).map (·.rslots)).getD 0) →
      s2.fabric.pairUsed dev < 1024 →
      ((s2.ctx? p.w.id.pid p.w.id.ctx).any fun c => c.cstate == 3) = false →
      ∃ t m r, exec i s = .next t ∧ t.fabric.tx = s2.fabric.tx ++ [m] ∧ t.fabric.out = s2.fabric.out ++ [r] ∧ r.msg = m ∧
        m.dst = dev ∧ m.src = s2.fabric.devId ∧ m.spart = p.w.id.pid ∧ m.addr = pa ∧
        m.seq = BitVec.ofNat 16 ((tabGet s2.fabric.nextSeq dev).getD 0) ∧ m.retx = false ∧
        (mj = .rld → m.type = .rld ∧ m.offs = (List.range n).map (pa % 128 + ·)) ∧
        (mj = .rst → m.type = .rst ∧ m.offs = (List.range n).map (pa % 128 + ·) ∧ m.data = bytesOf n o.b.toNat) ∧
        (mj = .ratom → m.type = .ratom ∧ m.data = bytesOf 8 o.b.toNat ++ bytesOf 8 o.c.toNat) ∧
        (∃ w', t.wg? p.w.id.core p.w.id.slot = some w' ∧ (if p.ctl then some w'.ctl else w'.lane? p.grp o.lane) = some
          { Ahead th (codedLen false f) with
            outs := (if mj = .rld then th.bindLoads else th).outs ++
              [{ tag := s2.tags, left := f.la.toNat, ready := false, writes := [], owes := owesOf mj f, reissue := none }] }) ∧
        t.mem = s2.mem) ∧
    (s'.remoteClash p mj f req.lanes = false → ∀ o dev pa s2 th, req.lanes = [o] → eaOf mj f o.a.toNat % n = 0 →
      p.spot s' o.lane 0 (eaOf mj f o.a.toNat) n acc true = (.ok (.remote dev pa), s2) → dev ≠ s2.fabric.devId →
      (p.reload s2).thread o.lane = some th → th.wait = .none → (∀ r ∈ s2.fabric.out, r.sent = true ∧ r.tag < s2.tags) →
      ((s2.ctx? p.w.id.pid p.w.id.ctx).any fun c => c.cstate == 3) = true →
      ∃ t r, exec i s = .next t ∧ t.fabric.tx = s2.fabric.tx ∧ t.fabric.out = s2.fabric.out ++ [r] ∧ r.sent = false ∧
        r.msg.dst = dev ∧ t.mem = s2.mem)

/-- R91, R93, R305 to R307, R385: the answer of another device to the one request outstanding ends it: READ_DATA gives the lane
its bytes, ATOMIC_RESULT the old value, STORE_ACKNOWLEDGEMENT nothing; the instruction is then complete, or waits to have its
several registers written (R203). An ERROR makes
the lane pending, with a record of the status' cause. For a copy, READ_DATA keeps the bytes for the transfer that asked for them, and
COPY_COMPLETION ends the request. -/
def Sys2Proof.Claims.RemoteAnswersComplete : Prop :=
  (∀ s m rest r w o th f, s.fabric.rx = m :: rest → Waits s r w o th → r.msg.dst = m.src → r.msg.seq = m.seq →
    let gone := fun (ws : List RegWrite) (t : State) => t.fabric.out = [] ∧ t.fabric.rx = rest ∧ t.mem = s.mem ∧ t.parts = s.parts ∧
      nowLane t r o (answered th r.outTag ws)
    let p := r.path w
    (m.type = .readData → r.i = .rld f → r.msg.type = .rld → ∃ t, exec .readData s = .next t ∧
      gone (p.wrLoad f.d (2 ^ f.size) (f.f.getLsbD 3) (ofBytes ((List.range (2 ^ f.size)).map fun i =>
        (tabGet (r.msg.offs.zip m.data) (eaOf .rld f o.a.toNat % 128 + i)).getD 0))) t) ∧
    (m.type = .storeAck → r.i = .rst f → r.msg.type = .rst → ∃ t, exec .storeAcknowledgement s = .next t ∧ gone [] t) ∧
    (m.type = .atomicResult → r.i = .ratom f → r.msg.type = .ratom → ∃ t, exec .atomicResult s = .next t ∧
      gone (if f.f.getLsbD 4 then [] else p.wr f.d f.ty ((ofBytes (m.data.take 8) % 2 ^ tyWidth f.ty : Nat) : Int)) t) ∧
    (m.type = .error → m.opc = 1#8 → r.i = .rld f → ∃ t q, exec .errorResponse s = .next t ∧ gone [] t ∧
      tabGet t.frecs s.tags = some q ∧ bitsAt q.bits.toNat 79 72 = 0x06 ∧ bitsAt q.bits.toNat 71 64 = 6 ∧
      bitsAt q.bits.toNat 191 128 = r.pc.toNat)) ∧
  ∀ s m rest r op, s.fabric.rx = m :: rest → s.fabric.out = [r] → r.sent = true → r.copy = some op.tag →
    (s.core r.core).copies = [op] → r.msg.dst = m.src → r.msg.seq = m.seq →
    (m.type = .readData → r.msg.type = .rld → ∃ t, exec .readData s = .next t ∧ t.fabric.out = [] ∧ t.mem = s.mem ∧
      (t.core r.core).copies = [{ op with got := op.got ++ [(r.msg.dst, r.msg.addr, m.data)] }]) ∧
    (m.type = .copyCompletion → r.msg.type = .copyWrite → ∃ t, exec .copyCompletion s = .next t ∧ t.fabric.out = [] ∧
      t.mem = s.mem ∧ (t.core r.core).copies = [op])

/-- RLD, RST and RATOM send their messages and complete with the answers. -/
def Obligations.RemoteOperationsComplete : Prop := RemoteAccessesComplete ∧ RemoteAnswersComplete

/-- R90, R93: a request of another device: RLD answers the bytes it names, as often as it is asked; RST, COPY_WRITE and RATOM
are performed once, answered and kept for a repetition, which performs nothing and sends the same answer; MULTICAST data are
written and not answered; and a request that R90 does not accept, an RLD too, is answered with ERROR and status ACCESS and changes no
memory.
That MULTICAST data are not answered is log 69, that a copy write is kept like an RST is log 70, and TYPE 12 is log 105. -/
def Sys2Proof.Claims.RemoteRequestsAreServed : Prop :=
  (∀ s m rest, s.fabric.rx = m :: rest → m.type = .rld → s.targetStatus m.src m.spart (msgRange m).1 (msgRange m).2 true = 0 →
    ∃ t a, exec .rldRequest s = .next t ∧ t.fabric.rx = rest ∧ t.fabric.tx = s.fabric.tx ++ [a] ∧ t.mem = s.mem ∧ t.wgs = s.wgs ∧
      a.type = .readData ∧ a.dst = m.src ∧ a.src = s.fabric.devId ∧ a.seq = m.seq ∧
      a.data = m.offs.map fun o => cellGet (w := 8) s.mem (m.addr / 128 * 128 + o)) ∧
  (∀ s m rest, s.fabric.rx = m :: rest → m.type = .rld → s.targetStatus m.src m.spart (msgRange m).1 (msgRange m).2 true ≠ 0 →
    ∃ t a, exec .rldRequest s = .next t ∧ t.fabric.rx = rest ∧ t.fabric.tx = s.fabric.tx ++ [a] ∧ t.mem = s.mem ∧ t.wgs = s.wgs ∧
      a.type = .error ∧ a.opc = BitVec.ofNat 8 (s.targetStatus m.src m.spart (msgRange m).1 (msgRange m).2 true) ∧
      a.dst = m.src ∧ a.src = s.fabric.devId ∧ a.seq = m.seq) ∧
  (∀ e ∈ servedRows, ∀ s m rest, s.fabric.rx = m :: rest → m.type = e.2.1 → fresh s m →
    let (pa, n) := served m
    let st := s.targetStatus m.src m.spart pa n e.2.2.1
    ∃ t a, exec e.1 s = .next t ∧ t.fabric.rx = rest ∧ t.fabric.tx = s.fabric.tx ++ [a] ∧ t.fabric.cache = (s.fabric.passLow m).cache ++ [a] ∧
      ((tabGet t.fabric.executed m.src).getD []).contains m.seq.toNat = true ∧ t.wgs = s.wgs ∧ t.parts = s.parts ∧
      a.dst = m.src ∧ a.src = s.fabric.devId ∧ a.seq = m.seq ∧ a.type = (if st = 0 then e.2.2.2 else .error) ∧
      (st ≠ 0 → t.mem = s.mem ∧ a.opc = BitVec.ofNat 8 st) ∧
      (st = 0 → if m.type = .ratom then
          let k := m.opc.toNat % 16
          let ty := ratomTy m.opc.toNat
          a.data = bytesOf 8 (s.phys pa n) ∧
          t.mem = (s.targetWrite pa (bytesOf n (ratomNew k ty (s.phys pa n) (ofBytes (m.data.take 8)) (ofBytes (m.data.drop 8))))).mem
        else t.mem = (s.lineWrite (m.addr / 128 * 128) m.offs m.data).mem)) ∧
  (∀ e ∈ servedRows, ∀ s m rest a, s.fabric.rx = m :: rest → m.type = e.2.1 →
    seqBefore m.seq.toNat ((tabGet (s.fabric.passLow m).lows m.src).getD 0) = false →
    ((tabGet (s.fabric.passLow m).executed m.src).getD []).contains m.seq.toNat = true →
    ((s.fabric.passLow m).cache.find? fun r => r.dst == m.src && r.seq == m.seq) = some a →
    ∃ t, exec e.1 s = .next t ∧ t.fabric.rx = rest ∧ t.fabric.tx = s.fabric.tx ++ [a] ∧ t.mem = s.mem ∧ t.wgs = s.wgs) ∧
  (∀ s m rest, s.fabric.rx = m :: rest → m.type = .multicast →
    ∃ t, exec .multicastData s = .next t ∧ t.fabric.rx = rest ∧ t.fabric.tx = s.fabric.tx ∧ t.wgs = s.wgs ∧
      t.mem = if s.targetStatus m.src m.spart (msgRange m).1 (msgRange m).2 false = 0
        then (s.lineWrite (m.addr / 128 * 128) m.offs m.data).mem else s.mem) ∧
  ∀ (s : State) src spart pa n reads, (∀ x ∈ s.frames, ¬ (x.base ≤ pa ∧ pa + n ≤ x.base + x.size)) → s.targetStatus src spart pa n reads = 1

/-- R94: a request is sent again 100 µs after its last transmission, with RETX set, at most four times; and 500 µs after its
first it ends, its lane pending with FABRIC_TIMEOUT. -/
def Sys2Proof.Claims.RemoteRequestsTimeOut : Prop :=
  (∀ s r, s.fabric.out = [r] → r.sent = true →
    if r.tries < 4 ∧ r.last + 100000 ≤ s.ns then
      ∃ t m, exec (.remoteRetransmit r.tag) s = .next t ∧ t.fabric.tx = s.fabric.tx ++ [m] ∧
        m = { r.msg with retx := true, low := r.msg.seq } ∧ t.fabric.out = [{ r with last := s.ns, tries := r.tries + 1 }] ∧
        t.mem = s.mem ∧ t.wgs = s.wgs
    else exec (.remoteRetransmit r.tag) s = .next s) ∧
  ∀ s r w o th f, Waits s r w o th → r.i = .rld f →
    if r.first + 500000 ≤ s.ns then
      ∃ t q, exec (.fabricTimeout r.tag) s = .next t ∧ t.fabric.out = [] ∧ tabGet t.frecs s.tags = some q ∧
        bitsAt q.bits.toNat 79 72 = 0x11 ∧ bitsAt q.bits.toNat 191 128 = r.pc.toNat ∧ t.mem = s.mem ∧
        nowLane t r o (th.dropOut r.outTag)
    else exec (.fabricTimeout r.tag) s = .next s

/-- A target serves a request once, and a request without answer is sent again and times out. -/
def Obligations.RemoteRequestsAreServedOnce : Prop := RemoteRequestsAreServed ∧ RemoteRequestsTimeOut

/-- R30 to R32, R90: FLIT_RECEIVE takes the messages for this device of the flit that its port expects next, if its CRC is good
and it holds whole messages, and records the fabric group of each one's source; it discards any other flit. LANE_FAILURE of one to
four lanes leaves a port at half width, of more takes it down, which is reported to the fabric manager once. A flit made from
messages that fit is good and holds those messages and its SEQ.
The bit order of the CRC, the byte orders and a flit without whole messages are log 18, the recorded group log 113; the link
layer's acknowledgements are left out (log 71). -/
def Sys2Proof.Claims.FlitsAreReceived : Prop :=
  (∀ s port (flit : List Byte), port < 16 → s.fabric.portsDown.getLsbD port = false →
    if flitGood flit = true ∧ flitSeq flit = (tabGet s.fabric.rxSeq port).getD 0 ∧ (flitMsgs flit).isSome = true then
      ∃ t ms, flitMsgs flit = some ms ∧ exec (.flitReceive port flit) s = .next t ∧
        let mine := ms.filter fun m => m.dst == s.fabric.devId
        t.fabric.rx = s.fabric.rx ++ mine ∧ tabGet t.fabric.rxSeq port = some ((flitSeq flit + 1) % 4096) ∧ t.mem = s.mem ∧
        t.wgs = s.wgs ∧ (∀ m ∈ mine, m.src ≠ s.fabric.devId → t.pairGroup m.src m.spart = Config.pairGroup s.ns m.src m.spart) ∧
        ∀ src spart, (∀ m ∈ mine, ¬ (m.src = src ∧ m.spart = spart)) → t.pairGroup src spart = s.pairGroup src spart
    else exec (.flitReceive port flit) s = .next s) ∧
  (∀ (s : State) port lanes, port < 16 → 0 < lanes →
    ∃ t, exec (.laneFailure port lanes) s = .next t ∧ t.mem = s.mem ∧ t.wgs = s.wgs ∧
      (4 < lanes → t.fabric.portsDown.getLsbD port = true ∧ t.fabric.portReports =
        if s.fabric.portsDown.getLsbD port then s.fabric.portReports else s.fabric.portReports ++ [port]) ∧
      (lanes ≤ 4 → t.fabric.portsDown = s.fabric.portsDown ∧ t.fabric.portReports = s.fabric.portReports ∧
        (s.fabric.portsDown.getLsbD port = false → t.fabric.portsHalf.getLsbD port = true)) ∧
      ∀ q, q ≠ port → t.fabric.portsDown.getLsbD q = s.fabric.portsDown.getLsbD q ∧
        t.fabric.portsHalf.getLsbD q = s.fabric.portsHalf.getLsbD q) ∧
  ∀ seq ack cvc ccnt ms flit, flitOf seq ack cvc ccnt ms = some flit → (∀ m ∈ ms, MsgFits m) →
    flitGood flit = true ∧ flitSeq flit = seq % 4096 ∧ flitMsgs flit = some ms

/-- R302: an arrival of a member of a fabric group is counted; once every member has arrived, the release takes one arrival of
each and advances the phase of every object of this device that waits there. -/
def Sys2Proof.Claims.FabricBarrierReleases : Prop :=
  (∀ s g dev, let x := s.fabGroup g
    (dev ≠ s.fabric.devId ∧ dev ∈ x.members ∨ dev = s.fabric.devId ∧ (g, dev) ∈ s.fabric.counterTx) →
    ∃ t, exec (.fabricBarrierArrival g dev) s = .next t ∧ t.fabGroup g = { x with arrived := x.arrived ++ [dev] } ∧
      (∀ h, h ≠ g → t.fabGroup h = s.fabGroup h) ∧ t.mem = s.mem ∧ t.wgs = s.wgs) ∧
  ∀ s g o, let x := s.fabGroup g
    x.waiting = [o] →
    if x.members ≠ [] ∧ ∀ d ∈ x.members, d ∈ x.arrived then
      ∃ t s1, exec (.fabricBarrierRelease g) s = .next t ∧ (t.fabGroup g).waiting = [] ∧ (t.fabGroup g).g = x.g ∧
        s1 = s.setFabGroup g (t.fabGroup g) ∧
        ∀ s2 v, s1.agentUpdate (agentOf o.1 o.2.1) o.2.2.toNat 16 (fun v =>
            v / 2 ^ 96 * 2 ^ 96 + (v / 2 ^ 64 % 2 ^ 32 + 1) % 2 ^ 32 * 2 ^ 64 + v % 2 ^ 64) = (.ok v, s2) → t = s2
    else exec (.fabricBarrierRelease g) s = .next s

/-- Messages are received in order, ports go down, and the fabric barrier releases its objects. -/
def Obligations.FlitsAndFabricBarriersComplete : Prop := FlitsAreReceived ∧ FabricBarrierReleases

/-- R63, R64: the walk reads, from level 4 down, the entry that nine bits of the address select; a valid leaf at level 0, 1 or 2
whose frame is aligned and lies in the memory its TIER names maps 4 KiB, 2 MiB or 1 GiB; an entry that is not valid is
TRANSLATION with subcode 1 and its level, and one that meets an uncorrectable error is ECC_UNCORR (R21). -/
def Sys2Proof.Claims.WalkFollowsTables : Prop :=
  ∀ (s : State) va t4,
    (∀ sub, s.eccSub (t4 + 8 * ix va 4) 8 true = some sub → s.walk va t4 4 = .error (0x10, sub, 0)) ∧
    (s.eccSub (t4 + 8 * ix va 4) 8 true = none → s.phys (t4 + 8 * ix va 4) 8 % 2 = 0 → s.walk va t4 4 = .error (0x05, 1, 4)) ∧
    ∀ t3 t2 k tab, pointsTo s (t4 + 8 * ix va 4) t3 → pointsTo s (t3 + 8 * ix va 3) t2 →
      (k = 2 ∧ tab = t2 ∨ ∃ t1, pointsTo s (t2 + 8 * ix va 2) t1 ∧ (k = 1 ∧ tab = t1 ∨ k = 0 ∧ pointsTo s (t1 + 8 * ix va 1) tab)) →
      let pte := tab + 8 * ix va k
      let e := s.phys pte 8
      let frame := e / 2 ^ 12 % 2 ^ 34 * 4096
      let size := 4096 * 512 ^ k
      (∀ sub, s.eccSub pte 8 true = some sub → s.walk va t4 4 = .error (0x10, sub, 0)) ∧
      (s.eccSub pte 8 true = none → e % 2 = 0 → s.walk va t4 4 = .error (0x05, 1, k)) ∧
      (s.eccSub pte 8 true = none → e % 2 = 1 → e / 2 ^ 7 % 2 = 1 → e / 2 ^ 3 % 2 = 0 → frame % size = 0 → s.badFrame (e / 2 ^ 62 % 4) frame size = none →
        s.walk va t4 4 = .ok { pte := pte, e := e, va := va / size * size, size := size })

/-- R62, R66, R75, R76, R87, R88: a leaf lets an access through when its bits RD, W and X allow it, to the frame and the offset in
the page, on this device or, for a remote instruction, on the device that a TIER 3 leaf names; a write or atomic meets BUSY first,
then DISC, then REPL; a read of a discarded page gives zero; an atomic to the PCI Express tier, a remote instruction to a leaf that
is not TIER 3, and any other access to one that is raise PERMISSION.
That BUSY comes before DISC, and DISC before REPL, is log 32, and that a strict partition's collapses are counted apart log 136. -/
def Sys2Proof.Claims.LeafDecidesAccess : Prop :=
  ∀ (s : State) who (l : Leaf) va acc,
    let writes := acc = .write ∨ acc = .atomic
    let far := l.tier == 3
    let mine := (s.collapses.filter fun c => c.die == who.die && s.domOf c.pid == s.domOf who.pid).length
    (l.tier = 3 → s.leafAccess who l va acc false = .cause 0x06 4 0) ∧
    (l.tier ≠ 3 → s.leafAccess who l va acc true = .cause 0x06 5 0) ∧
    (l.tier = 2 → acc = .atomic → s.leafAccess who l va acc false = .cause 0x06 7 0) ∧
    ((l.tier = 2 → acc ≠ .atomic) → (l.tier = 3 → acc ≠ .fetch) →
      (writes → l.busy = true → s.leafAccess who l va acc far = .busy) ∧
      (writes → l.busy = false → l.disc = true → s.leafAccess who l va acc far = .cause 0x0A 0 0) ∧
      (writes → l.busy = false → l.disc = false → l.repl = true → mine < 32 →
        s.leafAccess who l va acc far = .collapse l.pte) ∧
      (writes → l.busy = false → l.disc = false → l.repl = true → 32 ≤ mine →
        s.leafAccess who l va acc far = .cause 0x0B 0 0) ∧
      (acc = .read → l.disc = true → s.leafAccess who l va acc far = .zero) ∧
      (l.disc = false → l.repl = false → l.busy = false →
        s.leafAccess who l va acc far = match leafAllows l acc with
          | none => if l.tier = 3 then .remote l.dev (l.frame + va % l.size) else .pa (l.frame + va % l.size)
          | some sub => .cause 0x06 sub 0))

/-- R67: a translation that succeeds leaves all of memory as it was but its leaf entry, in which A is set, and D too for a write
or atomic; no register, workgroup or partition changes. R67 has the first write set D: that the translation of an atomic access sets
it, whatever the access then writes, is the model's choice (log 142). -/
def Sys2Proof.Claims.TranslationMarksItsLeaf : Prop :=
  ∀ (s : State) who va acc pa l t, MemInv s → s.xlate who va acc false = (.pa pa, some l, t) →
    SameOutside s t l.pte 8 ∧ t.wgs = s.wgs ∧ t.parts = s.parts ∧ t.cores = s.cores ∧
    t.phys l.pte 8 % 2 ^ 64 = (l.e ||| 2 ^ 9 ||| (if acc = .write ∨ acc = .atomic then 2 ^ 8 else 0)) % 2 ^ 64

/-- The walk follows five levels of tables, and the leaf decides which access it grants. -/
def Obligations.TranslationFollowsTheTables : Prop := WalkFollowsTables ∧ LeafDecidesAccess ∧ TranslationMarksItsLeaf

/-- R70, R73, R77, R81, R83, R207: FAULT_RESOLUTION decides a record once the threads that raised it have nothing else outstanding
that Table 14-10 completes first: one whose page firmware installs, replay; TRANSLATION and DISCARDED with no memory left, fatal with
subcode 5; another cause, fatal; COLLAPSE_WAIT, once the collapse is done, replay after it, and it is not done while a remote access
through the page has not performed. For a TRANSLATION that a fetch made, every page of the instruction at the record's PC is
installed, or the record is fatal. -/
def Sys2Proof.Claims.FaultsAreResolved : Prop :=
  (∀ (s : State) pid ctx core pc n lv x s1 s2, let who : Who := { pid := pid, ctx := ctx, die := dieOf core }
    s.xlate who pc .fetch false = (.cause 0x05 1 lv, x, s1) →
    (s1.resolve pid ctx pc 0x05 1 = .noMemory → s.resolveFetch pid ctx core pc (n + 1) = .noMemory) ∧
    (s1.resolve pid ctx pc 0x05 1 = .fatal → s.resolveFetch pid ctx core pc (n + 1) = .fatal) ∧
    ∀ w0 s3, s1.resolve pid ctx pc 0x05 1 = .installed s2 → s2.fetchWord who 0 pc = (.ok w0, s3) →
      let last := pc + 4 * (match (nthD 0 w0 0).toNat % 4 with | 0 => 1 | 3 => 5 | _ => 3) - 1
      (∀ pa y s4, s3.xlate who last .fetch false = (.pa pa, y, s4) → s.resolveFetch pid ctx core pc (n + 1) = .installed s4) ∧
      ∀ lv' y s4, s3.xlate who last .fetch false = (.cause 0x05 1 lv', y, s4) →
        s.resolveFetch pid ctx core pc (n + 1) = s4.resolve pid ctx last 0x05 1) ∧
  ∀ s n q, tabGet s.frecs n = some q → q.outcome = none →
    let cause := bitsAt q.bits.toNat 79 72
    let sub := bitsAt q.bits.toNat 71 64
    let ctx := bitsAt q.bits.toNat 45 41
    let va := bitsAt q.bits.toNat 255 192
    let ends := fun (oc sub : Nat) => ∃ t q', exec (.faultResolution n) s = .next t ∧ tabGet t.frecs n = some q' ∧ Decided q q' oc sub
    if s.recordDue q = false then exec (.faultResolution n) s = .next s else
    (cause ≠ 0x05 → cause ≠ 0x0A → cause ≠ 0x0B → ends 1 sub) ∧
    (cause = 0x0B → match (s.ctx? q.pid ctx).map fun c => s.walk va c.l4base 4 with
      | some (.ok l) =>
        if s.collapseDue { die := dieOf q.core, pid := q.pid, asid := s.asidOf q.pid ctx, va := BitVec.ofNat 64 va, pte := l.pte }
          then ends 2 sub else exec (.faultResolution n) s = .next s
      | _ => ends 2 sub) ∧
    (cause = 0x05 ∨ cause = 0x0A →
      match (if bitsAt q.bits.toNat 29 28 = 3 ∧ cause = 0x05 ∧ sub = 1
          then s.resolveFetch q.pid ctx q.core (bitsAt q.bits.toNat 191 128) 2 else s.resolve q.pid ctx va cause sub) with
      | .installed s1 => ∃ t q', exec (.faultResolution n) s = .next t ∧ tabGet t.frecs n = some q' ∧ Decided q q' 0 sub ∧
          t.mem = s1.mem ∧ t.frames = s1.frames
      | .noMemory => ends 1 5
      | .fatal => ends 1 sub)

/-- R81, R82, R85, R140, R151: FAULT_QUEUE_WRITE of a decided record, with room in the queue, writes its 32 bytes at FQTAIL mod 4,096,
adds one to FQTAIL and removes it; with a replay decided, whoever waited for it may go on; without room it waits. A fatal record that
names a slot ends the workgroup that waits for it and no other, and its running request is FAULTED, the context going on; a fatal
record that names none halts every context of the fault domain with reason 4, nothing of them left on a core or saved, once their
operations are settled, and until then nothing happens. -/
def Sys2Proof.Claims.FaultQueueIsWritten : Prop :=
  ∀ s n q oc P, tabGet s.frecs n = some q → q.outcome = some oc → s.part? q.pid = some P →
    let cause := bitsAt q.bits.toNat 79 72
    let sub := bitsAt q.bits.toNat 71 64
    let ctx := bitsAt q.bits.toNat 45 41
    let slot := bitsAt q.bits.toNat 39 30
    if 4096 ≤ (P.fqtail - P.fqhead).toNat then exec (.faultQueueWrite n) s = .next s
    else (oc = 1 → s.waiter? n = none → (∀ c, s.ctx? q.pid ctx = some c → ∀ x ∈ c.saved, x.waitsOn n = false) →
        ∃ t P', exec (.faultQueueWrite n) s = .next t ∧ t.part? q.pid = some P' ∧ t.wgs = s.wgs ∧ t.mem = s.mem ∧
          P'.fq = tabSet P.fq (P.fqtail.toNat % 4096) q.bits ∧ P'.fqtail = P.fqtail + 1 ∧ P'.ctxs = P.ctxs ∧
          tabGet t.frecs n = none) ∧
      (∀ w, oc = 1 → s.waiter? n = some w → Stands s w.id.core w.id.slot w → WgsStand s →
        (bitsAt q.bits.toNat 40 40 = 1 → ∀ c r, s.ctx? q.pid ctx = some c → c.slot? slot = some r → r.state = rqRunning →
          ∃ t w' c', exec (.faultQueueWrite n) s = .next t ∧ tabGet t.frecs n = none ∧
            t.wg? w.id.core w.id.slot = some w' ∧ w'.ended = true ∧ w'.ctl.ended = true ∧ (∀ e ∈ w'.lanes, e.2.ended = true) ∧
            w'.ctlSusp = .none ∧ w'.fails = [] ∧ (∀ e ∈ w'.groups, e.2.susp = .none) ∧
            (∀ k v, tabGet s.wgs k = some v → k ≠ w.id.core * 8 + w.id.slot →
              ∃ v', tabGet t.wgs k = some v' ∧ v'.ended = v.ended ∧ v'.ctlSusp = v.ctlSusp ∧ v'.groups = v.groups) ∧
            t.ctx? q.pid ctx = some c' ∧ c'.cstate = c.cstate ∧ c'.haltrsn = c.haltrsn ∧ c'.run = c.run ∧
            c'.slot? slot = some { r with state := rqFaulted, fcause := cause, fsub := sub }) ∧
        (bitsAt q.bits.toNat 40 40 = 0 →
          ((∃ e ∈ P.ctxs, s.inDomain q.pid ctx e = true ∧ s.quiet true q.pid e.1 = false) →
            exec (.faultQueueWrite n) s = .next s) ∧
          ((∀ e ∈ P.ctxs, s.inDomain q.pid ctx e = true → s.quiet true q.pid e.1 = true) →
            ∃ t, exec (.faultQueueWrite n) s = .next t ∧ ∀ e ∈ P.ctxs, s.inDomain q.pid ctx e = true →
              ∃ c', t.ctx? q.pid e.1 = some c' ∧ c'.cstate = 4 ∧ c'.haltrsn = 4 ∧ c'.run = none ∧ c'.saved = [] ∧
                t.ctxWgs q.pid e.1 = []))) ∧ (oc ≠ 1 →
      ∃ t P', exec (.faultQueueWrite n) s = .next t ∧ t.part? q.pid = some P' ∧
        P'.fq = tabSet P.fq (P.fqtail.toNat % 4096) q.bits ∧ P'.fqtail = P.fqtail + 1 ∧ P'.fqhead = P.fqhead ∧
        (∀ k, k ≠ n → tabGet t.frecs k = tabGet s.frecs k) ∧ tabGet t.frecs n = none ∧ t.mem = s.mem ∧
        ∀ k w, tabGet s.wgs k = some w → ∃ w', tabGet t.wgs k = some w' ∧ w'.lanes = w.lanes ∧ w'.ctl = w.ctl ∧
          w'.ctlSusp = (if w.ctlSusp = .fault n then .replay else w.ctlSusp) ∧
          ∀ g, (w'.group g).susp = if (w.group g).susp = .fault n then .replay else (w.group g).susp)

/-- R84, R145, R253: FAULT_REPLAY of a group or a control thread whose suspended LD or ST may be replayed makes the pending accesses
with the operands held, gives them their results, moves the threads past the instruction and lets them issue again; while a load
before it that a pre-emption abandoned has still to be made again, nothing happens. -/
def Sys2Proof.Claims.ReplayCompletes : Prop :=
  (∀ s core slot m w ctl g, Stands s core slot w → reloads w ctl g →
    exec (.faultReplay (threadRef core slot ctl g m)) s = .next s) ∧
  (∀ s core slot w q o (f : LForm), Stands s core slot w → WgsStand s → w.ctlSusp = .replay → w.ctlReplay = some q →
    q.len = codedLen false f → q.lanes = [o] → o.lane = 0 → f.space ≠ 1 → w.csrs.watchctl.getLsbD 0 = false → ¬ reloads w true 0 →
    let w0 := { w with ctlSusp := .none, ctlReplay := none }
    let p : Path := { w := w0, ctl := true, grp := 0, mask := 1, uni := w.s }
    (q.i = .ld f → ∀ vs s2, loadsOf .ld f p (2 ^ f.size) q.lanes (s.setWg w0) = some (vs, s2) →
      ∃ t, exec (.faultReplay (.ctrl core slot)) s = .next t ∧ Performed p s2 t f q.la (q.la == 0) (some { q with la := 0 })
        (results vs fun x => p.wrLoad f.d (2 ^ f.size) (f.f.getLsbD 3) x)) ∧
    (q.i = .st f → ∀ vs s2, storesOf .st f p (2 ^ f.size) q.lanes (s.setWg w0) = some (vs, s2) →
      ∃ t, exec (.faultReplay (.ctrl core slot)) s = .next t ∧ Performed p s2 t f q.la false none (results vs fun _ => []))) ∧
  ∀ s core slot m w g q (f : LForm), ¬ reloads w false g → Stands s core slot w → WgsStand s → (w.group g).susp = .replay → (w.group g).replay = some q →
    q.len = codedLen false f → (w.group g).pend = maskOfLanes (q.lanes.map (·.lane)) → (∀ o ∈ q.lanes, o.lane < 32) →
    (q.lanes.map (·.lane)).Nodup →
    let p : Path := { w := w, ctl := false, grp := g, mask := (w.group g).pend, uni := w.s }
    w.csrs.watchctl.getLsbD 0 = false → (∀ o ∈ q.lanes, ∃ th, w.lane? g o.lane = some th ∧ th.region = none) → f.space ≠ 1 →
    tabGet w.groups g ≠ none → tabSet w.groups g (w.group g) = w.groups → s.setWg w = s →
    (q.i = .ld f → ∀ vs s2, loadsOf .ld f p (2 ^ f.size) q.lanes s = some (vs, s2) →
      ∃ t, exec (.faultReplay (.lanes core slot g m)) s = .next t ∧ Performed p s2 t f q.la (q.la == 0) (some { q with la := 0 })
        (results vs fun x => p.wrLoad f.d (2 ^ f.size) (f.f.getLsbD 3) x)) ∧
    (q.i = .st f → ∀ vs s2, storesOf .st f p (2 ^ f.size) q.lanes s = some (vs, s2) →
      ∃ t, exec (.faultReplay (.lanes core slot g m)) s = .next t ∧ Performed p s2 t f q.la false none (results vs fun _ => []))

/-- Fault records are resolved, written to the fault queue, and replayed or fatal. -/
def Obligations.FaultsAreResolvedAndReplayed : Prop := FaultsAreResolved ∧ FaultQueueIsWritten ∧ ReplayCompletes

/-- R73, R75, R76, R253: COLLAPSE of a group or a control thread that waits for one carries it out and makes the access again; it
waits while a remote access through the page has not performed, and while a load before it that a pre-emption abandoned has still
to be made again. Carried out, the leaf's REPL and BUSY are clear, no replica of the page is left, and no lane of the context
keeps its translation. A thread that met a BUSY page makes its access again once the bit is clear. Before any of this the turn
carries out what ended workgroups have left to the engines and waits for nothing any more. That it is the same turn is log 137. -/
def Sys2Proof.Claims.CollapsesFinish : Prop :=
  (∀ s : State, ((∀ c ∈ s.collapses, c.orphan = true → s.collapseDue c = false) → s.finishOrphans = s) ∧
    ∀ c, c.orphan = true → s.collapseDue c = true → (∀ x ∈ s.collapses, x.orphan = true → s.collapseDue x = true → x = c) →
      s.collapses.count c = 1 → s.finishOrphans = s.finishCollapse c) ∧
  (∀ s0 core slot m w ctl g va, let s := s0.finishOrphans
    Stands s core slot w → (if ctl then w.ctlSusp else (w.group g).susp) = .busy va →
    (s.pageBusy w.id.pid w.id.ctx va.toNat = true ∨ reloads w ctl g → exec (.collapse (threadRef core slot ctl g m)) s0 = .next s) ∧
    (s.pageBusy w.id.pid w.id.ctx va.toNat = false → ¬ reloads w ctl g →
      exec (.collapse (threadRef core slot ctl g m)) s0 = .next (s.replayThread w ctl g))) ∧
  (∀ s0 core slot m w ctl g va c, let s := s0.finishOrphans
    Stands s core slot w → (if ctl then w.ctlSusp else (w.group g).susp) = .collapse va →
    s.collapseOf w.id.pid w.id.ctx va = some c →
    (s.collapseDue c = false ∨ reloads w ctl g → exec (.collapse (threadRef core slot ctl g m)) s0 = .next s) ∧
    (s.collapseDue c = true → ¬ reloads w ctl g → ∃ w', (s.finishCollapse c).wg? core slot = some w' ∧ w'.groups = w.groups ∧
      w'.ctl.pc = w.ctl.pc ∧ w'.ctl.k = w.ctl.k ∧ w'.ctl.outs = w.ctl.outs ∧ w'.ctlSusp = w.ctlSusp ∧ w'.ctlReplay = w.ctlReplay ∧
      exec (.collapse (threadRef core slot ctl g m)) s0 = .next ((s.finishCollapse c).replayThread w' ctl g))) ∧
  ∀ (s : State) (c : Collapse) x l P, MemInv s → s.part? c.pid = some P → (P.ctxs.find? fun e => e.2.asid == c.asid) = some x →
    s.walk c.va.toNat x.2.l4base 4 = .ok l →
    let t := s.finishCollapse c
    s.collapseDue c = !s.remoteIn c.pid c.asid l.va l.size ∧ t.phys l.pte 8 / 2 % 2 = 0 ∧ t.phys l.pte 8 / 2 ^ 11 % 2 = 0 ∧ SameOutside s t l.pte 8 ∧
    (∀ r ∈ t.replicas, r.home < l.frame ∨ l.frame + l.size ≤ r.home) ∧ c ∉ t.collapses ∧
    ∀ e ∈ t.wgs, e.2.id.pid = c.pid → s.asidOf c.pid e.2.id.ctx = c.asid → ∀ x ∈ e.2.lanes, ∀ y, x.2.last = some y →
      l.va + l.size ≤ y.va ∨ y.va + y.size ≤ l.va

/-- R18, R74: REPLICA_FILL gives a replica its home's bytes and marks it filled, but reads nothing from a lost die; REPLICA_DROP
takes it away, frees its frame and keeps no translation to it; no other byte of memory changes. -/
def Sys2Proof.Claims.ReplicasFillAndDrop : Prop :=
  (∀ s die home r, MemInv s → (s.replicas.find? fun r => r.die == die && r.home == home && !r.filled) = some r → s.lostAt home = true →
    exec (.replicaFill die home) s = .next s) ∧
  (∀ s die home r, MemInv s → (s.replicas.find? fun r => r.die == die && r.home == home && !r.filled) = some r → s.lostAt home = false →
    ∃ t, exec (.replicaFill die home) s = .next t ∧ SameOutside s t r.frame r.size ∧ t.wgs = s.wgs ∧
      (∀ i, i < r.size → cellGet (w := 8) t.mem (r.frame + i) = cellGet (w := 8) s.mem (r.home + i)) ∧
      { r with filled := true } ∈ t.replicas) ∧
  ∀ s die home r, (s.replicas.find? fun r => r.die == die && r.home == home) = some r →
    ∃ t, exec (.replicaDrop die home) s = .next t ∧ t.mem = s.mem ∧ (∀ x ∈ t.frames, x.base ≠ r.frame) ∧
      (∀ x ∈ t.replicas, ¬ (x.die = die ∧ x.home = home)) ∧
      ∀ e ∈ t.wgs, ∀ x ∈ e.2.lanes, ∀ l, x.2.last = some l → l.pa + l.size ≤ r.frame ∨ r.frame + r.size ≤ l.pa

/-- R78, R87: PAGE_MIGRATION of a movable page with a frame to go to moves its bytes, points its leaf there, and gives the old frame
back; FRAME_RECLAIM of a discarded page clears V of its leaf.
Which pages may be moved and reclaimed is log 95 and log 96. -/
def Sys2Proof.Claims.PagesMoveAndGo : Prop :=
  (∀ s pid ctx (va : DWord) tier die c l frame s1, MemInv s → s.ctx? pid ctx = some c → s.movable c va.toNat = some l → tier ≤ 1 → die ≤ 3 →
    s.allocFrame pid tier die l.size = some (frame, s1) → s.lostAt l.frame = false →
    let apart := fun (a n b m : Nat) => a + n ≤ b ∨ b + m ≤ a
    apart frame l.size l.frame l.size → apart l.pte 8 frame l.size → apart l.pte 8 l.frame l.size →
    frame % 4096 = 0 → frame < 2 ^ 46 → l.e < 2 ^ 64 →
    ∃ t, exec (.pageMigration pid ctx va tier die) s = .next t ∧
      (∀ i, i < l.size → cellGet (w := 8) t.mem (frame + i) = cellGet (w := 8) s.mem (l.frame + i)) ∧
      t.phys l.pte 8 / 2 ^ 12 % 2 ^ 34 * 4096 = frame ∧ t.phys l.pte 8 % 2 ^ 12 = l.e % 2 ^ 12 ∧
      ∀ x ∈ t.frames, x.base ≠ l.frame) ∧
  ∀ s pid ctx (va : DWord) c l, MemInv s → s.ctx? pid ctx = some c → s.walk va.toNat c.l4base 4 = .ok l → l.disc = true → l.busy = false →
    l.tier ≤ 1 → l.pte + 8 ≤ l.frame ∨ l.frame + l.size ≤ l.pte →
    ∃ t, exec (.frameReclaim pid ctx va) s = .next t ∧ t.phys l.pte 8 = l.e / 2 * 2 % 2 ^ 64 ∧
      ∀ a, a < l.pte ∨ l.pte + 8 ≤ a → a < l.frame ∨ l.frame + l.size ≤ a →
        cellGet (w := 8) t.mem a = cellGet (w := 8) s.mem a

/-- Collapses, replicas, page moves and reclaims keep what pages hold. -/
def Obligations.PagesCollapseReplicateAndMove : Prop := CollapsesFinish ∧ ReplicasFillAndDrop ∧ PagesMoveAndGo

/-- R155: the grid of a node over the active slots of a context, by its mode; and the slot and first row that workgroup w is bound to: in
SLOT, the slot of entry floor(u / GX); in TOKTILE, tile floor(u / GX) of the entries' tiles in turn, u being w, or floor(w / 4) of a
quartet. -/
def Sys2Proof.Claims.GridsAndBindingsFollow : Prop :=
  ∀ (c : Context) (n : BitVec 1024), let es := raggedOf c.adm.slots 0
    let gx := n.toNat / 2 ^ 488 % 2 ^ 24
    let tile := n.toNat / 2 ^ 473 % 2 ^ 15
    let gmode := n.toNat / 2 ^ 470 % 8
    let unit := fun (w : Nat) => if n.getLsbD 469 then w / 4 else w
    c.adm.slots.Pairwise (fun a b => a.1 < b.1) →
    gridOf n es (rowsOf c) = gridFor c n ∧
    (∀ w, gmode = 0 ∨ 3 ≤ gmode → bindingOf n es w = none) ∧
    (∀ w, gmode = 1 → bindingOf n es w = (activeSlots c)[unit w / gx]?.map fun e => (boundEntry c e, 0)) ∧
    ∀ k e j, gmode = 2 → (activeSlots c)[k]? = some e → j < ceilDiv e.2.q tile →
      ∀ w, unit w / gx = (((activeSlots c).take k).map fun x => ceilDiv x.2.q tile).sum + j →
        bindingOf n es w = some (boundEntry c e, j * tile)

/-- R155, R158, R176: WORKGROUP_START of the workgroup that the dispatcher places next, in a free slot of the core it takes, makes
it resident: its control thread at CENTRY, its lanes at LENTRY with registers and predicates 0, bound as its node's grid says; no
other slot changes. A workgroup that is not next, or a slot that is taken, changes nothing. -/
def Sys2Proof.Claims.WorkgroupsStart : Prop :=
  ∀ s pid ctx i w core slot c r n s1, s.ctx? pid ctx = some c → s.nextPlaced pid ctx c = (some (i, w, core), s1) → c.run = some r →
    r.node? i = some n → ndClpl n.record = false → ndArgs n.record = 0 → slot < 8 → s.outranked pid c core = false →
    ((s1.wg? core slot).isSome = true → exec (.workgroupStart pid ctx i w core slot) s = .next s) ∧
    (s1.wg? core slot = none → ∃ t x, exec (.workgroupStart pid ctx i w core slot) s = .next t ∧ t.wg? core slot = some x ∧
      startsAs x n.record ∧ x.s = [] ∧ x.id.pid = pid ∧ x.id.ctx = ctx ∧ x.id.node = i ∧ x.id.wgi = w ∧ x.id.core = core ∧
      x.id.slot = slot ∧ x.id.step = c.stepn ∧
      boundAs x n.record r.entries w ∧
      ∀ k, k ≠ core * 8 + slot → tabGet t.wgs k = tabGet s1.wgs k)

/-- R153, R176: a workgroup whose node names an ARGS block starts with the 32 words of that block in s0 to s31, its other registers
as at every start. When the block cannot be read, none of its threads issues: they are suspended on the record of a fatal fault of its
control thread at CENTRY, with the cause that the read met. -/
def Sys2Proof.Claims.ArgsAreLoaded : Prop :=
  ∀ s pid ctx i w core slot c r n s1, s.ctx? pid ctx = some c → s.nextPlaced pid ctx c = (some (i, w, core), s1) → c.run = some r →
    r.node? i = some n → ndClpl n.record = false → slot < 8 → s.outranked pid c core = false → s1.wg? core slot = none →
    let args := n.record.toNat / 2 ^ 832 % 2 ^ 64
    args ≠ 0 →
    (∀ bs s2, (taking s1 pid ctx i w core slot n.record).agentReadMany (agentOf pid ctx) args 16 8 = (.ok bs, s2) →
      ∃ t x, exec (.workgroupStart pid ctx i w core slot) s = .next t ∧ t.wg? core slot = some x ∧ startsAs x n.record ∧
        boundAs x n.record r.entries w ∧ t.mem = s2.mem ∧ ∀ j, j < 32 → cellGet x.s j = BitVec.ofNat 32 (ofBytes bs / 2 ^ (32 * j))) ∧
    ∀ e s2, (taking s1 pid ctx i w core slot n.record).agentReadMany (agentOf pid ctx) args 16 8 = (.error e, s2) →
      ∃ t x k q, exec (.workgroupStart pid ctx i w core slot) s = .next t ∧ t.wg? core slot = some x ∧ x.ctlSusp = .fault k ∧
        (∀ g ∈ x.groups, g.2.susp = .fault k) ∧ startsAs x n.record ∧ boundAs x n.record r.entries w ∧ tabGet t.frecs k = some q ∧
        q.pid = pid ∧ q.core = core ∧ q.slot = slot ∧ q.source = 1 ∧ q.outcome = some 1 ∧ bitsAt q.bits.toNat 22 21 = 1 ∧
        bitsAt q.bits.toNat 24 23 = 1 ∧ bitsAt q.bits.toNat 29 28 = 0 ∧ bitsAt q.bits.toNat 79 72 = e.code % 256 ∧
        bitsAt q.bits.toNat 71 64 = e.sub % 256 ∧ bitsAt q.bits.toNat 191 128 = n.record.toNat / 2 ^ 960 % 2 ^ 64 ∧
        bitsAt q.bits.toNat 255 192 = e.va % 2 ^ 64

/-- R155, R160, R176: with CLPL = 1, WORKGROUP_START makes the four workgroups of a quartet resident together, workgroup w + j on core
j of the cluster, each started as its node's record says and all bound as their unit is; no other slot changes. The first is in the
slot that is named, the others in the lowest free slots of their cores (the model's choice, log 130). -/
def Sys2Proof.Claims.QuartetsStart : Prop :=
  ∀ s pid ctx i w core slot c r n s1, WgsStand s → (∀ e ∈ s.wgs, e.2.id.slot < 8) → s.ctx? pid ctx = some c →
    s.nextPlaced pid ctx c = (some (i, w, core), s1) → c.run = some r → r.node? i = some n → ndClpl n.record = true →
    ndArgs n.record = 0 → slot < 8 → s.outranked pid c core = false → s1.wg? core slot = none →
    let at_ := fun j => if j = 0 then slot else nthD 0 (s1.freeSlots (core + j)) 0
    w % 4 = 0 ∧ core % 4 = 0 ∧
    ∃ t, exec (.workgroupStart pid ctx i w core slot) s = .next t ∧
      (∀ j, j < 4 → at_ j < 8 ∧ s1.wg? (core + j) (at_ j) = none ∧ ∃ x, t.wg? (core + j) (at_ j) = some x ∧ startsAs x n.record ∧
        boundAs x n.record r.entries (w + j) ∧ x.s = [] ∧ x.id.wgi = w + j ∧ x.id.core = core + j ∧ x.id.quartet = true) ∧
      (∀ j, j < 4 → bindingOf n.record r.entries (w + j) = bindingOf n.record r.entries w) ∧
      ∀ k, (∀ j, j < 4 → k ≠ (core + j) * 8 + at_ j) → tabGet t.wgs k = tabGet s1.wgs k

/-- R157, R161, R396: WORKGROUP_COMPLETE of a workgroup whose threads have all ended, with nothing in flight, frees its slot and
marks its unit done; one that has not ended stays. FETCHW of a persistent workgroup with an aligned mailbox of its allocation
completes: with the grid drained the mailbox says 2; otherwise it is an operation in flight (R116), and while another of the
workgroup's is, it stays unanswered; a workgroup with no unit and no other operation gets the lowest ready unit at once. It waits
while another FETCHW is unanswered or the section's reader count is full.
When an unanswered FETCHW is answered is log 46. -/
def Sys2Proof.Claims.WorkgroupsCompleteAndFetch : Prop :=
  (∀ s core slot w, Stands s core slot w → WgsStand s → isOver w →
    ∃ t, exec (.workgroupComplete core slot) s = .next t ∧ t.wg? core slot = none ∧
      ∀ c r n u, s.ctx? w.id.pid w.id.ctx = some c → c.run = some r → r.node? w.id.node = some n → w.unit = some u →
        ∃ c' r' n', t.ctx? w.id.pid w.id.ctx = some c' ∧ c'.run = some r' ∧ r'.node? w.id.node = some n' ∧ n'.done = n.done ++ [u]) ∧
  (∀ s core slot w, Stands s core slot w → w.mailbox = none → (w.ctl.ended = false ∨ w.engOps ≠ 0 ∨ ∃ e ∈ w.lanes, e.2.ended = false) →
    exec (.workgroupComplete core slot) s = .next s) ∧
  ∀ (f : LForm) s p s', Issues s p s' → p.ctl = true → p.w.ctl.guard f.g = true →
    let off := p.opA p.w.ctl .fetchw f % 2 ^ 32
    let w := { p.w with ctl := Ahead p.w.ctl (codedLen false f) }
    if p.w.id.persist = false then exec (.fetchw f) s = .next (p.raise s' (.plain 0x01) false)
    else if off % 32 ≠ 0 then exec (.fetchw f) s = .next (p.raise s' { code := 0x03, sub := 0, va := off, lvl := 0, acc := 1 } false)
    else if p.w.rangeOk off 32 = false then
      exec (.fetchw f) s = .next (p.raise s' { code := 0x06, sub := 2, va := off, lvl := 0, acc := 1 } false)
    else if p.w.mailbox ≠ none ∨ p.countFull s' = true then exec (.fetchw f) s = .next { s' with cur := none }
    else if p.w.drained = true then
      ∃ sc, exec (.fetchw f) s = .next (s'.setWg { w with scratch := sc }) ∧
        (cellsWf p.w.scratch = true → cellGet sc (off + 28) = 2 ∧ ∀ a, a ≠ off + 28 → cellGet sc a = cellGet p.w.scratch a)
    else
      (p.w.engOps ≠ 0 → ∃ t, exec (.fetchw f) s = .next t ∧ countHeld p s t ∧ t.mem = s.mem ∧ t.parts = s.parts ∧
        t.wg? p.w.id.core p.w.id.slot = some { oneMoreOp p (codedLen false f) with mailbox := some (off, parityOf p) }) ∧
      (p.w.engOps = 0 → p.w.unit = none → cellsWf p.w.scratch = true → ∀ c r n u us, s.ctx? p.w.id.pid p.w.id.ctx = some c →
        c.run = some r → r.node? p.w.id.node = some n → r.waiting p.w.id.node = u :: us →
        ∃ t w', exec (.fetchw f) s = .next t ∧ t.mem = s.mem ∧ t.wg? p.w.id.core p.w.id.slot = some w' ∧ w'.unit = some u ∧
          w'.mailbox = none ∧ w'.engOps = 0 ∧ w'.ctl = Ahead p.w.ctl (codedLen false f) ∧ w'.lanes = p.w.lanes ∧
          spNat w'.scratch off 4 = u % 2 ^ 32 ∧ spNat w'.scratch (off + 28) 1 = 1 ∧
          ∀ a, a < off ∨ off + 32 ≤ a → cellGet w'.scratch a = cellGet p.w.scratch a)

/-- Workgroups and quartets start in order with their registers and ARGS, fetch units and complete (a quartet's slots: log 130;
when FETCHW is answered: log 46). -/
def Obligations.WorkgroupsStartAndComplete : Prop := GridsAndBindingsFollow ∧ WorkgroupsStart ∧ ArgsAreLoaded ∧ QuartetsStart ∧ WorkgroupsCompleteAndFetch

/-- R131, R133, R134, R137: a FORMATION that is due reads the context's graph as it begins; of a context with no request at all it
writes the ragged descriptor and makes the context IDLE; of a context whose one request waits in the queue, it admits it: one that
may not be admitted leaves the queue; one for which Prepare finds what it needs is bound to the lowest slot, RUNNING, and a step is
launched with the tokens that PREM, CHUNK and the budget give it; for want of that it stays. Of a context whose one request runs, with
room in its ring, it launches a step of that graph with the tokens that CHUNK and the budget give the request; EMPTY_FORMATION_RETRY
does the same once its time has come; neither does anything when it is not due.
That a formation is one step is log 99, what an empty one does is log 60, and that a formation goes on when the graph could not be read
log 128: all three are the model's. -/
def Sys2Proof.Claims.FormationsForm : Prop :=
  (∀ s pid ctx c, s.ctx? pid ctx = some c → c.run = none → c.cstate = 1 ∨ c.cstate = 2 → s.dev.linkLost = false → c.formNext = true →
    c.adm.slots = [] → c.adm.queue = [] → c.adm.evicted = [] →
    let s1 := s.setCtx pid ctx { c with cstate := 2, formNext := false }
    ∀ g s2 s3, s1.readBegin pid ctx = (.ok g, s2) → s2.parts = s1.parts → g.ok [] 0 = true →
    s2.agentWriteMany (agentOf pid ctx) c.rdbase.toNat (raggedBytes { c with cstate := 2, formNext := false } []) = (.ok (), s3) →
    s3.parts = s1.parts →
    ∃ t c', exec (.formation pid ctx) s = .next t ∧ t.ctx? pid ctx = some c' ∧ c'.cstate = 1 ∧ c'.run = none ∧ c'.formNext = false ∧
      c'.stepn = c.stepn ∧ t.mem = s3.mem ∧ t.wgs = s3.wgs) ∧
  (∀ s pid ctx c w, s.ctx? pid ctx = some c → c.run = none → c.cstate = 1 ∨ c.cstate = 2 → s.dev.linkLost = false → c.formNext = true →
    c.adm.slots = [] → c.adm.queue = [w] → c.adm.evicted = [] → w.state = rqQueued → 0 < c.nslot → 0 < s.tokbudOf pid c →
    let c1 := { c with cstate := 2, formNext := false }
    let k := min (min w.prem c.chunk) (s.tokbudOf pid c)
    ∀ graph s0, (s.setCtx pid ctx c1).readBegin pid ctx = (graph, s0) → s0.parts = (s.setCtx pid ctx c1).parts →
      (s0.admissible pid c1 w = false → ∃ t, exec (.formation pid ctx) s = .next t ∧
        ∀ c', t.ctx? pid ctx = some c' → c'.adm.queue = [] ∧ c'.adm.slots = []) ∧
      (s0.admissible pid c1 w = true → ∀ e, s0.prepare pid ctx c1 w k = .error e → ∃ t, exec (.formation pid ctx) s = .next t ∧
        ∀ c', t.ctx? pid ctx = some c' → c'.adm.queue = [w] ∧ c'.adm.slots = []) ∧
      (s0.admissible pid c1 w = true → ∀ r s2, s0.prepare pid ctx c1 w k = .ok (r, s2) → s2.ctx? pid ctx = some c1 →
        exec (.formation pid ctx) s = .next ((s2.setCtx pid ctx { c1 with adm := { c.adm with queue := [], slots :=
          [(0, { r with state := rqRunning, slot := 0, q := k, pos0 := r.pos, prem0 := r.prem, emitted := none })] } }).launch pid ctx graph))) ∧
  (∀ (s : State) pid c r, r.kv = List.replicate 8 0 → (s.admissible pid c r = true ↔
    (r.state = rqQueued ∧ r.asked = 0 ∨ r.state = rqEvicted) ∧ r.nstop ≤ 4 ∧ r.prem ≠ 0 ∧ r.pos + r.prem < r.maxlen ∧
    (0 < c.nseq → r.pos = 0))) ∧
  (∀ (s : State) pid ctx c r k, c.nseq = 0 → s.prepare pid ctx c r k = .ok (r, s)) ∧
  (∀ (s : State) pid ctx c r k h s1 s2, c.nseq = 1 → r.kv = List.replicate 8 0 →
    s.sqCreate pid ctx (c.seqtpl.toNat / 2 ^ 5 % 2 ^ 6) (c.seqtpl.toNat % 2 ^ 5) = (0, h, s1) →
    let r' := { r with kv := BitVec.ofNat 64 h :: List.replicate 7 0, crm := Nat.lor r.crm 1 }
    let ds := s1.demands pid 1 r' k
    (∀ d ∈ ds, s1.seqRoom pid k d.2.1 = true) → s1.reserve pid ds = some s2 → s.prepare pid ctx c r k = .ok (r', s2)) ∧
  (∀ s pid ctx c, s.ctx? pid ctx = some c → c.run ≠ none ∨ c.formNext = false → exec (.formation pid ctx) s = .next s) ∧
  (∀ s pid ctx c, s.ctx? pid ctx = some c → c.run ≠ none ∨ c.cstate ≠ 2 ∨ c.formNext = true ∨ s.ns < c.retryAt →
    exec (.emptyFormationRetry pid ctx) s = .next s) ∧
  ∀ s pid ctx n c r graph s0 s2 r', OneRequest s pid ctx n c r → r.state = 2 → 0 < r.prem → 0 < c.chunk → 0 < s.tokbudOf pid c →
    let s1 := s.setCtx pid ctx { c with cstate := 2, formNext := false }
    s1.readBegin pid ctx = (graph, s0) → s0.parts = s1.parts →
    s0.ringIsFull (agentOf pid ctx) r = (false, r', s2) → r'.prem = r.prem → r'.state = 2 → r'.kv = r.kv →
    s2.parts = s1.parts →
    let go := { c with cstate := 2, formNext := false, adm := { c.adm with slots :=
      [(n, { r' with q := share c.chunk (s.tokbudOf pid c) r, pos0 := r'.pos, prem0 := r'.prem, emitted := none })] } }
    (c.formNext = true → exec (.formation pid ctx) s = .next ((s2.setCtx pid ctx go).launch pid ctx graph)) ∧
    (c.formNext = false → c.retryAt ≤ s.ns → exec (.emptyFormationRetry pid ctx) s = .next ((s2.setCtx pid ctx go).launch pid ctx graph))

/-- R141, Tables 5-6 and 5-7: the ragged descriptor is a header, an entry for every slot and the entries of the active slots. -/
def Sys2Proof.Claims.DescriptorsAreWritten : Prop :=
  ∀ c : Context, c.adm.slots.Pairwise (fun a b => a.1 < b.1) → (∀ e ∈ c.adm.slots, e.1 < c.nslot) → c.nslot ≤ 1024 →
    (∀ e ∈ c.adm.slots, e.2.pos + e.2.q < 2 ^ 24 ∧ e.2.q < 2 ^ 16 ∧ c.classOf e.2 < 8) → rowsOf c ≤ 65536 →
    let bs := raggedBytes c (raggedOf c.adm.slots 0)
    let act := activeSlots c
    bs.length = 64 + 16 * c.nslot + 16 * act.length ∧
    ofBytes (bs.take 64) = c.stepn.toNat + rowsOf c * 2 ^ 64 + act.length * 2 ^ 96 + c.nslot * 2 ^ 128 ∧
    (∀ n, n < c.nslot → ofBytes ((bs.drop (64 + 16 * n)).take 16) = match tabGet c.adm.slots n with
      | some r => slotEntry c n r
      | none => n) ∧
    ∀ k n r, act[k]? = some (n, r) → ofBytes ((bs.drop (64 + 16 * c.nslot + 16 * k)).take 16) = slotEntry c n r

/-- R154: a graph is within its limits if its header is, and every node's fields, dependences and grid are. -/
def Sys2Proof.Claims.GraphsAreJudged : Prop :=
  ∀ (g : Graph) c, g.ok (raggedOf c.adm.slots 0) (rowsOf c) = true ↔
    1 ≤ g.nnode ∧ g.nnode ≤ 4096 ∧ ∀ i n, g.nodes[i]? = some n → NodeGood i n ∧ gridFor c n ≤ 65536

/-- R141, R149, R154, R155, R157, R422: a launch with an active slot writes the ragged descriptor, zeroes every node's completion map,
and starts the step: every node's grid, nothing taken or done, the count at 0, DEADLINE = EBASE + ETOK·NTOK + MARGIN, or all ones. A
graph unread or outside its limits halts the context with BAD_GRAPH, a failed write with FAULT. -/
def Sys2Proof.Claims.StepsAreLaunched : Prop :=
  ∀ s pid ctx c, WgsStand s → s.ctx? pid ctx = some c → activeSlots c ≠ [] →
    let who := agentOf pid ctx
    let es := raggedOf c.adm.slots 0
    let halts := fun (g : Except Cause Graph) (reason : Nat) => ∃ c', (s.launch pid ctx g).ctx? pid ctx = some c' ∧ c'.cstate = 4 ∧
      c'.haltrsn = reason ∧ c'.run = none ∧ c'.stepn = c.stepn + 1
    (∀ e, halts (.error e) 5) ∧
    ∀ (g : Graph) a s1, s.agentWriteMany who c.rdbase.toNat (raggedBytes c es) = (a, s1) → s1.parts = s.parts → s1.wgs = s.wgs →
      (∀ e, a = .error e → halts (.ok g) 4) ∧
      (a = .ok () → g.ok es (rowsOf c) = false → halts (.ok g) 5) ∧
      (a = .ok () → g.ok es (rowsOf c) = true →
        let maps := g.nodes.map fun n => (n.toNat / 2 ^ 768 % 2 ^ 64, ceilDiv (gridFor c n) 8)
        (∀ pre va k post s2 e s3, maps = pre ++ (va, k) :: post → MapsZeroed who s1 pre s2 →
          s2.agentWriteMany who va (List.replicate k 0) = (.error e, s3) → s3.parts = s.parts → halts (.ok g) 4) ∧
        ∀ s2, MapsZeroed who s1 maps s2 → s2.parts = s.parts →
          ∃ c' r, (s.launch pid ctx (.ok g)).ctx? pid ctx = some c' ∧ c'.run = some r ∧ c' = { c with run := some r } ∧
            (s.launch pid ctx (.ok g)).mem = s2.mem ∧ (s.launch pid ctx (.ok g)).wgs = s2.wgs ∧
            r.nodes = g.nodes.map (fun n => { record := n, grid := gridFor c n, taken := [], done := [] }) ∧ r.entries = es ∧
            r.ntok = rowsOf c ∧ r.count = 0 ∧ r.since = some s2.cycle ∧ r.launch = s2.cycle ∧
            r.deadline = if c.margin = 2 ^ 32 - 1 then BitVec.ofNat 64 (2 ^ 64 - 1)
              else BitVec.ofNat 64 (g.ebase + g.etok * rowsOf c + c.margin))

/-- R138: STEP_CLOSE of a step whose every node is done adds one to STEPN and makes a formation due; a request in a prefill that
goes on has its POS and PREM moved by its tokens; one whose last tokens ran and that emitted no token is FAULTED; otherwise its
token is stored and it FINISHES at a stop token or at MAXLEN, or goes on. A step that is not over stays. -/
def Sys2Proof.Claims.StepsClose : Prop :=
  ∀ s pid ctx n c (q : Request) r, s.ctx? pid ctx = some c → c.run = some r → c.cstate = 2 → c.haltAtClose = false →
    c.adm.slots = [(n, q)] → q.state = 2 → 0 < q.q → q.kv = List.replicate 8 0 →
    let allOver := ∀ x ∈ r.nodes, x.done.length = x.grid
    let closed := fun (t : State) (c' : Context) => exec (.stepClose pid ctx) s = .next t ∧ t.ctx? pid ctx = some c' ∧
      c'.stepn = c.stepn + 1 ∧ c'.run = none ∧ c'.formNext = true ∧ c'.cstate = 2
    (¬ allOver → exec (.stepClose pid ctx) s = .next s) ∧
    (allOver → q.q < q.prem → ∃ t c', closed t c' ∧ t.mem = s.mem ∧
      c'.adm.slots = [(n, { q with q := 0, pos := q.pos + q.q, prem := q.prem - q.q })]) ∧
    (allOver → q.prem ≤ q.q → q.emitted = none → ∃ t c', closed t c' ∧ t.mem = s.mem ∧
      c'.adm.slots = [(n, { q with q := 0, pos := q.pos + q.q, prem := q.prem - q.q, state := 4, fcause := 0, fsub := 0 })]) ∧
    (allOver → q.prem ≤ q.q → ∀ tok s1, q.emitted = some tok →
      s.agentWrite (agentOf pid ctx) (q.tokb * 4 + 4 * (q.pos + q.q)) (bytesOf 4 tok.toNat) = (.ok (), s1) → s1.parts = s.parts →
      ∃ t c' q', closed t c' ∧ c'.adm.slots = [(n, q')] ∧ q'.pos = q.pos + q.q ∧ q'.prem = 1 ∧ q'.lasttok = tok ∧ q'.q = 0 ∧
        q'.state = if (∃ i, i < q.nstop ∧ nthD 0 q.stop i = tok) ∨ q.maxlen ≤ q.pos + q.q + 1 then 3 else 2)

/-- A formation admits requests, writes the descriptor and launches a step; a step close updates its requests (the model's:
logs 60, 99, 128). -/
def Obligations.StepsFormAndClose : Prop := FormationsForm ∧ DescriptorsAreWritten ∧ GraphsAreJudged ∧ StepsAreLaunched ∧ StepsClose

/-- R143 to R148, R174: CONTEXT_SAVE of a PREEMPTED context with nothing in flight takes its workgroups off their cores and keeps each
one's registers, predicates and PCs, the control thread's, the uniform and control registers, the scratchpad, the decision queue and
the tiles of its ACCMASK, and the messages that wait for a remote request slot, but not before its images have room in shadow storage
(R20, R147); CONTEXT_SWAP marks the images saved longest ago when shadow storage is full, and changes nothing otherwise;
CONTEXT_RESTORE of a PREEMPTED context whose turn has come makes every saved workgroup resident again, and the context RUNNING, if
each finds its slot and room on its core beside the ones before it, and else changes nothing; where no load is to be made again and no
message waits, all of this comes back as it was saved. A workgroup keeps its group numbers unless another has one of them.
That a restore is one step is log 64, which loads are reissued is log 62, when shadow storage is full log 138, that PREEMPTED
contexts' messages wait log 155, and the group numbers log 16. -/
def Sys2Proof.Claims.ContextsAreSavedAndRestored : Prop :=
  (∀ s pid ctx c, WgsStand s → s.ctx? pid ctx = some c → c.cstate = 3 → s.ctxWgs pid ctx ≠ [] → s.quiet false pid ctx = true →
    (¬ imagesFit s pid ctx → exec (.contextSave pid ctx) s = .next s) ∧
    (imagesFit s pid ctx → ∃ t c', exec (.contextSave pid ctx) s = .next t ∧ t.ctx? pid ctx = some c' ∧ t.ctxWgs pid ctx = [] ∧
      c'.saved.map (fun x => x.wg.id) = c.saved.map (fun x => x.wg.id) ++ (s.ctxWgs pid ctx).map (·.id) ∧ c'.cstate = 3 ∧
      c'.swapped = false ∧ c'.adm = c.adm ∧
      ∀ w ∈ s.ctxWgs pid ctx, ∃ x ∈ c'.saved, wgSaved w x.wg ∧ x.remotes = (s.fabric.out.filter fun r => r.awaited w) ∧
        (∀ r ∈ x.remotes, r ∉ t.fabric.out) ∧
        ((s.ctxWgs pid ctx).Pairwise (fun v w => v.id.core = w.id.core → v.csrs.accmask &&& w.csrs.accmask = 0) →
          ∀ k, w.csrs.accmask.getLsbD (k / 4096) = true → cellGet x.tiles k = cellGet (s.core w.id.core).tiles k))) ∧
  (∀ s pid ctx c, s.ctx? pid ctx = some c → c.saved ≠ [] → c.swapped = false →
    (∀ p ∈ s.parts, ∀ e ∈ p.2.ctxs, e.2.saved ≠ [] → e.2.swapped = false → c.savedAt ≤ e.2.savedAt) →
    ((∀ p ∈ s.parts, ∀ e ∈ p.2.ctxs, imagesFit s p.1 e.1) → exec (.contextSwap pid ctx) s = .next s) ∧
    ((∃ p ∈ s.parts, ∃ e ∈ p.2.ctxs, ¬ imagesFit s p.1 e.1) →
    exec (.contextSwap pid ctx) s = .next (s.setCtx pid ctx { c with swapped := true }))) ∧
  ∀ s pid ctx c, WgsStand s → s.ctx? pid ctx = some c → c.cstate = 3 → s.ctxWgs pid ctx = [] → s.turnCome pid c = true →
    (∀ p, s.part? pid = some p → ∀ e ∈ p.ctxs, ¬ (e.2.cstate = 3 ∧ s.prioOf pid e.2 < s.prioOf pid c ∧ s.turnCome pid e.2 = true)) →
    ((restoring s pid ctx).restoreWgs c.saved = none → exec (.contextRestore pid ctx) s = .next s) ∧
    ((restoring s pid ctx).restoreWgs c.saved ≠ none →
    ∃ t c', exec (.contextRestore pid ctx) s = .next t ∧ t.ctx? pid ctx = some c' ∧ c'.cstate = 2 ∧ c'.saved = [] ∧
      ∀ x ∈ c.saved, ∃ w, t.wg? x.wg.id.core x.wg.id.slot = some w ∧ { w.id with gnum := x.wg.id.gnum } = x.wg.id ∧
        ((∀ y ∈ c.saved, ∀ g ∈ y.wg.id.gnum, ∀ o ∈ s.onCore y.wg.id.core, g ∉ o.id.gnum) →
          c.saved.Pairwise (fun y z => y.wg.id.core = z.wg.id.core → ∀ g ∈ y.wg.id.gnum, g ∉ z.wg.id.gnum) → w.id = x.wg.id) ∧
        ((∀ y ∈ c.saved, ∀ th, (th = y.wg.ctl ∨ ∃ e ∈ y.wg.lanes, th = e.2) → (∀ k n, th.wait ≠ .slots k n) ∧
            ∀ o ∈ th.outs, o.ready = true ∨ o.reissue = none) →
          w.scratch = x.wg.scratch ∧ w.csrs = x.wg.csrs ∧ w.dq = x.wg.dq ∧ w.s = x.wg.s ∧ w.groups = x.wg.groups ∧
          sameThread x.wg.ctl w.ctl ∧ w.lanes = x.wg.lanes ∧
          (c.saved.Pairwise (fun x y => x.wg.id.core = y.wg.id.core → x.wg.csrs.accmask &&& y.wg.csrs.accmask = 0) →
            (∀ y ∈ c.saved, cellsWf y.tiles = true ∧ ∀ e ∈ y.tiles, y.wg.csrs.accmask.getLsbD (e.1 / 4096) = true) →
            cellsWf (s.core x.wg.id.core).tiles = true →
            ∀ k, x.wg.csrs.accmask.getLsbD (k / 4096) = true → cellGet (t.core x.wg.id.core).tiles k = cellGet x.tiles k)))

/-- R149, R150: DEADLINE of a running step that has counted more cycles than its deadline, with nothing in flight, halts its context:
HALTED with DEADLINE, STEPN and OVERRUN one more, no step in progress, no workgroup left; before then it changes nothing.
That the halt is one step once nothing is in flight is log 54. -/
def Sys2Proof.Claims.DeadlineHalts : Prop :=
  ∀ s pid ctx c r, WgsStand s → s.ctx? pid ctx = some c → c.run = some r → c.cstate = 2 → c.margin ≠ 0xFFFFFFFF →
    let cycles := r.count + (r.since.map fun t => s.cycle - t).getD 0
    (cycles ≤ r.deadline.toNat → exec (.deadline pid ctx) s = .next s) ∧
    (r.deadline.toNat < cycles → s.quiet true pid ctx = true →
      ∃ t c', exec (.deadline pid ctx) s = .next t ∧ t.ctx? pid ctx = some c' ∧ c'.cstate = 4 ∧ c'.haltrsn = 3 ∧
        c'.stepn = c.stepn + 1 ∧ c'.overrun = c.overrun + 1 ∧ c'.run = none ∧ c'.saved = [] ∧ t.ctxWgs pid ctx = [])

/-- R127, R405: SYS.HALT of a context with nothing in flight, whose images have room (R147), saves and halts it: HALTED with HOST; and
waits until then.
That the halt is one step once nothing is in flight is log 54. -/
def Sys2Proof.Claims.SysHaltHalts : Prop :=
  ∀ (f : LForm) s p s' c, Issues s p s' → p.ctl = true → p.w.ctl.guard f.g = true → s.ctx? p.w.id.pid p.w.id.ctx = some c →
    (s.quiet false p.w.id.pid p.w.id.ctx = false ∨ ¬ imagesFit s p.w.id.pid p.w.id.ctx →
      exec (.sysHalt f) s = .next { s' with cur := none }) ∧
    (s.quiet false p.w.id.pid p.w.id.ctx = true → imagesFit s p.w.id.pid p.w.id.ctx → ∃ t c', exec (.sysHalt f) s = .next t ∧
      t.ctx? p.w.id.pid p.w.id.ctx = some c' ∧ c'.cstate = 4 ∧ c'.haltrsn = 1 ∧ c'.stepn = c.stepn)

/-- Contexts are saved and restored, halt at their deadline, and halt by SYS.HALT. -/
def Obligations.ContextsHaltAndResume : Prop := ContextsAreSavedAndRestored ∧ DeadlineHalts ∧ SysHaltHalts

/-- R40 to R44: a command row does nothing while its mailbox holds no command of its code; a command with a byte set that has no
meaning is answered BAD_PARAM; an answer holds the code and the result, clears BUSY and changes neither memory nor a workgroup.
That a command row is the whole command is the model's turn of the agenda (log 5). -/
def Obligations.MailboxesAnswer : Prop :=
  (∀ pid, ∀ e ∈ commandRows pid, ∀ s,
    (∀ m, s.mbox? e.2.1 = some m → m.busy = false ∨ cmdNat m.issued 0 2 ≠ e.2.2.1) → exec e.1 s = .next s) ∧
  (∀ pid, ∀ e ∈ commandRows pid, ∀ s cmd, Commanded s e.2.1 e.2.2.1 cmd → cmdZeroOk cmd e.2.2.2 = false →
    Refuses e.1 e.2.1 e.2.2.1 s 2) ∧
  ∀ (s : State) fn code result data m, s.mbox? fn = some m → code < 2 ^ 16 → result < 2 ^ 8 →
    let t := s.respond fn code result data
    SameMachine s t ∧ ∃ m', t.mbox? fn = some m' ∧ m'.busy = false ∧ m'.seq = m.seq ∧ m'.result = result ∧ cmdNat m'.resp 0 2 = code ∧
      cmdNat m'.resp 2 1 = result ∧ m'.resp.drop 8 = data

/-- R125, R126, R69: CTX_LOAD of a record within its limits, into a partition that has not FAILED and has no such context, whose
checks hold and whose tables can be built, makes the context IDLE with an ASID of its own; out of limits it is BAD_PARAM, for a
context already loaded BAD_STATE, without frames NO_RESOURCE.
The limits of the record are those of log 80, and SPOOL's tier that of log 25. -/
def Sys2Proof.Claims.ContextsAreLoaded : Prop :=
  ∀ s pid P cmd n, s.part? pid = some P → ContextCommand s pid 1 cmd n [(8, 9), (64, 320)] →
    let c := Context.ofImage (cmdNat cmd 64 256)
    let full := { c with regions := s.regionTable c.rgntab }
    (c.limitsOk = false → Refuses (.ctxLoad pid) (.vf pid) 1 s 2) ∧
    (c.limitsOk = true → P.state = 4 ∨ P.state = 5 ∨ (s.ctx? pid n).isSome = true → Refuses (.ctxLoad pid) (.vf pid) 1 s 4) ∧
    (c.limitsOk = true → Live P → s.ctx? pid n = none →
      (s.loadOk pid n full P = false → Refuses (.ctxLoad pid) (.vf pid) 1 s 2) ∧
      (s.loadOk pid n full P = true → s.buildTables pid full = none → Refuses (.ctxLoad pid) (.vf pid) 1 s 3) ∧
      (s.loadOk pid n full P = true → ∀ c' s1, s.buildTables pid full = some (c', s1) →
        Answers (.ctxLoad pid) (.vf pid) 1 s 0 [] fun t => t.ctx? pid n = some c' ∧ c'.cstate = 1 ∧ c'.graphp = c.graphp ∧
          c'.nslot = c.nslot ∧ c'.regions = full.regions ∧ c'.asid ≠ 0 ∧
          ∀ e ∈ s.parts, ∀ x ∈ e.2.ctxs, x.2.asid ≠ c'.asid))

/-- R127, R128, R147, R423: CTX_HALT of a loaded context with nothing in flight, whose images have room, leaves it HALTED with
HOST, of a halted one as it was; an IDLE or faulted halted one goes on by CTX_RESUME, with a formation due; CTX_UNLOAD takes the
context away; a context that is not loaded, and a partition that is FAILED or CLEARING, give BAD_STATE. What CTX_RESUME leaves is
log 81, and the answers of a FAILED or CLEARING partition are log 78. -/
def Sys2Proof.Claims.LoadedContextsAreCommanded : Prop :=
  ∀ s pid P cmd n, s.part? pid = some P →
    (ContextCommand s pid 3 cmd n [(8, 9)] → Live P → ∀ c, s.ctx? pid n = some c →
      (c.cstate = 4 → Answers (.ctxHalt pid) (.vf pid) 3 s 0 [] fun t => t = s) ∧
      (c.cstate ≠ 4 → s.quiet false pid n = false ∨ ¬ imagesFit s pid n → exec (.ctxHalt pid) s = .next s) ∧
      (c.cstate ≠ 4 → s.quiet false pid n = true → imagesFit s pid n → Answers (.ctxHalt pid) (.vf pid) 3 s 0 [] fun t =>
        ∃ c', t.ctx? pid n = some c' ∧ c'.cstate = 4 ∧ c'.haltrsn = 1 ∧ c'.wasIdle = (c.cstate == 1) ∧ c'.stepn = c.stepn)) ∧
    (ContextCommand s pid 4 cmd n [(8, 9)] → Live P → ∀ c, s.ctx? pid n = some c →
      (c.cstate ≠ 4 → Refuses (.ctxResume pid) (.vf pid) 4 s 4) ∧
      (c.cstate = 4 → c.haltrsn = 1 ∧ c.wasIdle = true ∨ c.haltrsn = 3 ∨ c.haltrsn = 4 ∨ c.haltrsn = 5 →
        Answers (.ctxResume pid) (.vf pid) 4 s 0 [] fun t => ∃ c', t.ctx? pid n = some c' ∧ c'.cstate = 2 ∧ c'.haltrsn = 0 ∧
          c'.formNext = true ∧ c'.stepn = c.stepn ∧ t.mem = s.mem ∧ t.wgs = s.wgs) ∧
      (c.cstate = 4 → c.haltrsn = 1 → c.wasIdle = false → c.run ≠ none → s.turnCome pid { c with cstate := 3, haltrsn := 0 } = false →
        Answers (.ctxResume pid) (.vf pid) 4 s 0 [] fun t => ∃ c', t.ctx? pid n = some c' ∧ c'.cstate = 3 ∧ c'.saved = c.saved)) ∧
    (ContextCommand s pid 2 cmd n [(8, 9)] → Live P → ∀ c, s.ctx? pid n = some c →
      (s.quiet true pid n = false → exec (.ctxUnload pid) s = .next s) ∧
      (s.quiet true pid n = true → Answers (.ctxUnload pid) (.vf pid) 2 s 0 [] fun t => t.ctx? pid n = none ∧
        ∀ k, k ≠ n → (t.ctx? pid k).isSome = (s.ctx? pid k).isSome)) ∧
    (P.state = 4 ∨ P.state = 5 ∨ s.ctx? pid n = none →
      (ContextCommand s pid 3 cmd n [(8, 9)] → Refuses (.ctxHalt pid) (.vf pid) 3 s 4) ∧
      (ContextCommand s pid 4 cmd n [(8, 9)] → Refuses (.ctxResume pid) (.vf pid) 4 s 4) ∧
      (ContextCommand s pid 2 cmd n [(8, 9)] → Refuses (.ctxUnload pid) (.vf pid) 2 s 4))

/-- CTX_LOAD, CTX_UNLOAD, CTX_HALT and CTX_RESUME complete or answer what is wrong. -/
def Obligations.ContextCommandsComplete : Prop := ContextsAreLoaded ∧ LoadedContextsAreCommanded

/-- R96, R97: POOL_CREATE within its limits and clear of everything else makes a pool whose every block is free, in zeroed memory;
POOL_DESTROY of one that nothing uses takes it away; of one in use it is BAD_STATE.
What an absent pool answers is log 79. -/
def Obligations.PoolCommandsComplete : Prop :=
  ∀ s pid P cmd, s.part? pid = some P → Live P →
    (Commanded s (.vf pid) 5 cmd → cmdZeroOk cmd [(8, 25)] = true →
      let n := cmdNat cmd 20 1
      let x := Pool.ofCmd cmd
      (x.limitsOk n = false → Refuses (.poolCreate pid) (.vf pid) 5 s 2) ∧
      (x.limitsOk n = true → (s.poolRec? pid n).isSome = true → Refuses (.poolCreate pid) (.vf pid) 5 s 4) ∧
      (x.limitsOk n = true → s.poolRec? pid n = none → s.poolFits pid n x = false → Refuses (.poolCreate pid) (.vf pid) 5 s 2) ∧
      (x.limitsOk n = true → s.poolRec? pid n = none → s.poolFits pid n x = true → P.ctxs = [] → ∀ a s1,
        s.allocRange pid x.tier x.die (x.nblk * 2 ^ x.bshift) (2 ^ x.bshift) = some (a, s1) →
        Answers (.poolCreate pid) (.vf pid) 5 s 0 [] fun t => ∃ y, t.poolRec? pid n = some y ∧ y.pbase = a ∧
          y.nblk = cmdNat cmd 16 4 ∧ y.vbase = x.vbase ∧ y.bshift = x.bshift ∧ y.refs = [] ∧ y.resv = 0 ∧ (∀ b, b ∈ y.free ↔ b < y.nblk) ∧
          ∀ i, i < x.nblk * 2 ^ x.bshift → cellGet (w := 8) t.mem (a + i) = 0)) ∧
    (Commanded s (.vf pid) 6 cmd → cmdZeroOk cmd [(8, 9)] = true → ∀ x, s.poolRec? pid (cmdNat cmd 8 1) = some x → cmdNat cmd 8 1 ≤ 63 →
      (s.poolInUse pid (cmdNat cmd 8 1) x = true → Refuses (.poolDestroy pid) (.vf pid) 6 s 4) ∧
      (s.poolInUse pid (cmdNat cmd 8 1) x = false → Answers (.poolDestroy pid) (.vf pid) 6 s 0 [] fun t =>
        t.poolRec? pid (cmdNat cmd 8 1) = none ∧ (∀ f ∈ t.frames, f.base ≠ x.pbase)))

/-- R43, R58: ATTEST answers, changing nothing else, with a report whose first 32 bytes are the nonce and whose last 64 are the
signature of the first 144 with the identity key; HEALTH answers the 256 bytes of Table 2-15, on a partition's mailbox without the
package's own readings.
The order of a digest's bytes is log 88, and that the count of failed starts shows modulo 256 log 123. -/
def Sys2Proof.Claims.ReportsAreAnswered : Prop :=
  (∀ s pid P cmd, s.part? pid = some P → Live P → Commanded s (.vf pid) 7 cmd → cmdZeroOk cmd [(8, 40)] = true → 40 ≤ cmd.length →
    ∃ body, body.length = 144 ∧ body.take 32 = (cmd.drop 8).take 32 ∧ ofBytes ((body.drop 128).take 4) = s.dev.svn % 2 ^ 32 ∧
      Answers (.attest pid) (.vf pid) 7 s 0 (body ++ (bytesOf 64 (Config.ecdsaSign Config.fusedSecret body).toNat).reverse)
        fun t => t = s) ∧
  ∀ s fn cmd, Commanded s fn 8 cmd → cmdZeroOk cmd [] = true → (∀ pid, fn = .vf pid → ∃ P, s.part? pid = some P ∧ Live P) →
    ∃ data, Answers (.health fn) fn 8 s 0 data (fun t => t = s) ∧ data.length = 256 ∧
      cmdNat data 0 4 = s.dev.reason % 256 + s.dev.flash.failed % 256 * 256 ∧ cmdNat data 4 4 = s.dev.coreMhz % 2 ^ 32 ∧
      cmdNat data 8 4 = s.dev.limitW % 2 ^ 32 ∧ cmdNat data 20 4 = s.dev.thermalChanges % 2 ^ 32 ∧
      (let own := fun (n x : Nat) => if fn = .pf0 then x % 2 ^ (8 * n) else 0
       cmdNat data 12 4 = own 4 s.dev.powerW ∧ cmdNat data 16 4 = own 4 s.dev.tempC ∧
       (∀ i, i < 5 → cmdNat data (24 + 8 * i) 8 = own 8 ((tabGet s.dev.corrected i).getD 0)) ∧
       cmdNat data 64 8 = own 8 s.dev.uncorrectable) ∧
      cmdNat data 72 1 = s.dev.ringRetired.toNat % 256 ∧ cmdNat data 73 1 = s.dev.lostDies.toNat % 256 ∧
      cmdNat data 74 2 = s.fabric.portsDown.toNat % 2 ^ 16 ∧ cmdNat data 76 2 = s.fabric.portsHalf.toNat % 2 ^ 16 ∧
      cmdNat data 78 2 = 0 ∧ (∀ i, i < 72 → (cmdNat data 80 9).testBit i = (s.cluster i).offline) ∧ cmdNat data 89 167 = 0

/-- R57: once the device has started, GET_VERSION opens an exchange; GET_CAPABILITIES and NEGOTIATE_ALGORITHMS with P-256 and SHA-256
follow; then the digest and the bytes of the certificate chain, a signature with the identity key, and the measurement registers are
answered. A device that has not started answers nothing (the model's choice, log 141).
The order of the messages is the model's choice (log 28); so is the form of the message that a CHALLENGE signs, which begins with the
nonce, and the error that answers an index above 1 (log 89). -/
def Sys2Proof.Claims.IdentityIsAnswered : Prop :=
  let ansIs := fun (i : Instr) (s : State) (x : Spdm) (st : Nat) =>
    exec i s = .next { s with dev := { s.dev with spdm := x, spdmStage := st } }
  (∀ s, s.dev.boot = .ready →
    ansIs .getVersion s .version 1 ∧
    (1 ≤ s.dev.spdmStage → ansIs .getCapabilities s .capabilities 2) ∧
    (2 ≤ s.dev.spdmStage → ansIs (.negotiateAlgorithms true true) s (.algorithms true true) 3) ∧
    (∀ a b, a = false ∨ b = false → s.dev.spdmStage ≤ 3 → ansIs (.negotiateAlgorithms a b) s .error s.dev.spdmStage) ∧
    (3 ≤ s.dev.spdmStage → let k := s.dev.spdmStage
      ansIs .getDigests s (.digests (Config.sha256 s.dev.flash.cert)) k ∧
      (∀ off len, off < s.dev.flash.cert.length →
        ansIs (.getCertificate off len) s (.certificate ((s.dev.flash.cert.drop off).take len)) k) ∧
      (∀ nonce, nonce.length = 32 → ∃ sig, ansIs (.challenge nonce) s (.challengeAuth sig) k ∧
        ∃ msg, sig = Config.ecdsaSign Config.fusedSecret msg ∧ msg.take 32 = nonce) ∧
      ansIs (.getMeasurements 0) s (.measurement 0 s.dev.m0) k ∧ ansIs (.getMeasurements 1) s (.measurement 1 s.dev.m1) k ∧
      ∀ i, 1 < i → ansIs (.getMeasurements i) s .error k)) ∧
  ∀ s, s.dev.boot ≠ .ready → ∀ i ∈ ([.getVersion, .getCapabilities, .getDigests, .getMeasurements 0] : List Instr), exec i s = .next s

/-- ATTEST, HEALTH and the SPDM messages are answered (the model's choices: logs 28, 88, 89, and none before the start, log
141). -/
def Obligations.ReportsAndIdentityAreAnswered : Prop := ReportsAreAnswered ∧ IdentityIsAnswered

/-- R36 to R39, R47, R81: a record written whole to an admission port with room is the last of the queue, and a formation is due where
no step runs; any other write to the port only counts in ADMDROP. A write of ICOAL sets its fields and acts at once; FQHEAD takes
the value written; the timer raises the vector for entries that waited TIME. -/
def Sys2Proof.Claims.PortsAndRegistersTakeWrites : Prop :=
  (∀ s pid ctx c data, (s.vf? pid).isSome = true → s.ctx? pid ctx = some c → data.length = 128 →
    (c.adm.queue.length < 4096 →
      exec (.admissionWrite pid ctx 0 data true) s = .next (s.setCtx pid ctx { c with
        adm := { c.adm with queue := c.adm.queue ++ [Request.ofRecord (ofBytes data) c.adm.count.toNat], count := c.adm.count + 1 }
        formNext := c.formNext || (c.run.isNone && (c.cstate == 1 || c.cstate == 2)) })) ∧
    (4096 ≤ c.adm.queue.length → ∀ en,
      exec (.admissionWrite pid ctx 0 data en) s = .next (s.setCtx pid ctx { c with adm := { c.adm with drop := c.adm.drop + 1 } }))) ∧
  (∀ s pid ctx c off data en, (s.vf? pid).isSome = true → s.ctx? pid ctx = some c → off < 128 → off ≠ 0 ∨ data.length ≠ 128 ∨ en = false →
    exec (.admissionWrite pid ctx off data en) s = .next (s.setCtx pid ctx { c with adm := { c.adm with drop := c.adm.drop + 1 } })) ∧
  (∀ s pid ctx c (v : DWord), (s.vf? pid).isSome = true → s.ctx? pid ctx = some c →
    ∃ t c', exec (.icoalWrite pid ctx v) s = .next t ∧ t.ctx? pid ctx = some c' ∧ c'.adm.final = v.getLsbD 63 ∧
      c'.adm.time = v.toNat / 2 ^ 32 % 1024 ∧ c'.adm.cnt = v.toNat % 4096 ∧
      (c.adm.pending = 0 → t = s.setCtx pid ctx c') ∧ (max 1 c'.adm.cnt ≤ c.adm.pending → c'.adm.pending = 0)) ∧
  (∀ s pid ctx c, s.ctx? pid ctx = some c →
    (c.adm.pending = 0 ∨ s.ns < c.adm.oldest + 1000 * c.adm.time → exec (.coalescingTimer pid ctx) s = .next s) ∧
    (c.adm.pending ≠ 0 → c.adm.oldest + 1000 * c.adm.time ≤ s.ns → ∃ t c', exec (.coalescingTimer pid ctx) s = .next t ∧
      t.ctx? pid ctx = some c' ∧ c'.adm.pending = 0 ∧ SameMachine s t)) ∧
  (∀ s pid P v, s.vf? pid = some P → exec (.fqheadWrite pid v) s = .next (s.setPart pid { P with fqhead := v })) ∧
  ∀ s fn seq m, s.answersFn fn = true → s.mbox? fn = some m →
    (m.busy = false → exec (.mbdoorIgnored fn seq) s = .next s) ∧
    (m.busy = true → ∃ t, exec (.mbdoorIgnored fn seq) s = .next t ∧ t.mbox? fn = some { m with ovr := true } ∧ SameMachine s t)

/-- R7, R8, R36, R40, R41, R424: REGISTER_WRITE of eight bytes to FQHEAD sets it, to APBASE sets its fields; of the doorbell of an
idle mailbox takes the command that stands in the buffer, and of a busy one only sets OVR, which a write of 1 to it clears unless
the same write sets it. An APERTURE_READ answers the bytes of its pieces, each in one page, and an APERTURE_WRITE stores them, where
every page can be reached; otherwise nothing is stored, the read answers ones, and APERR and PSTAT note it. A FREE or CLEARING
function reads as ones and takes no write; an unsupported request changes nothing.
That touching SEQ rings the doorbell is log 77, and the aperture's pages are log 74 and log 116. -/
def Sys2Proof.Claims.WindowsTakeAccesses : Prop :=
  (∀ s pid P (v : DWord), s.vf? pid = some P →
    (∃ t P', exec (.registerWrite (.vf pid) 0x22010 (bytesOf 8 v.toNat)) s = .next t ∧ t.part? pid = some P' ∧ P'.fqhead = v ∧
      P'.fqtail = P.fqtail ∧ P'.apbase = P.apbase ∧ SameMachine s t) ∧
    (∃ t P', exec (.registerWrite (.vf pid) 0x22018 (bytesOf 8 v.toNat)) s = .next t ∧ t.part? pid = some P' ∧ P'.fqhead = P.fqhead ∧
      P'.apbase = v &&& 0x01FF_FFFF_FE00_FFFF#64 ∧ SameMachine s t)) ∧
  (∀ s fn (seq : BitVec 16) m, s.answersFn fn = true → s.mbox? fn = some m →
    let off := match fn with | .pf0 => 0x1F00 | .vf _ => 0x21F00
    (∃ t m', exec (.registerWrite fn off (bytesOf 2 seq.toNat)) s = .next t ∧ t.mbox? fn = some m' ∧ SameMachine s t ∧
      if m.busy then m' = { m with ovr := true } else m'.seq = seq ∧ m'.issued = memRead m.cmd 0 4096 ∧ m'.ovr = m.ovr) ∧
    (∃ t, exec (.registerWrite fn (off + 8) (bytesOf 8 2)) s = .next t ∧ t.mbox? fn = some { m with ovr := false } ∧ SameMachine s t) ∧
    (m.busy = true → ∃ t, exec (.registerWrite fn off (bytesOf 8 seq.toNat ++ bytesOf 8 2)) s = .next t ∧
      t.mbox? fn = some { m with ovr := true } ∧ SameMachine s t)) ∧
  (∀ s pid n P c x size data, ApertureOf s pid n P c →
    (∀ s1, s.apSpots pid n c .read (pieces (apertureVa P x) size (size / 4096 + 2)) = (none, s1) →
      exec (.apertureRead pid x size) s = .next (apertureFails s1 pid) ∧ (s.apertureBytes pid x size).1 = List.replicate size 0xFF) ∧
    (∀ xs s1, s.apSpots pid n c .read (pieces (apertureVa P x) size (size / 4096 + 2)) = (some xs, s1) →
      exec (.apertureRead pid x size) s = .next s1 ∧ (s.apertureBytes pid x size).1 = xs.flatMap fun e => s1.spotRead e.1 e.2) ∧
    (∀ s1, s.apSpots pid n c .write (pieces (apertureVa P x) data.length (data.length / 4096 + 2)) = (none, s1) →
      exec (.apertureWrite pid x data) s = .next (apertureFails s1 pid)) ∧
    ∀ xs s1, s.apSpots pid n c .write (pieces (apertureVa P x) data.length (data.length / 4096 + 2)) = (some xs, s1) →
      exec (.apertureWrite pid x data) s = .next (s1.putPieces xs data)) ∧
  (∀ s pid n P c x size, ApertureOf s pid n P c → 0 < size → apertureVa P x % 4096 + size ≤ 4096 →
    (∀ e, s.walk (apertureVa P x) c.l4base 4 = .error e →
      exec (.apertureRead pid x size) s = .next (apertureFails s pid) ∧ (s.apertureBytes pid x size).1 = List.replicate size 0xFF) ∧
    ∀ l, s.walk (apertureVa P x) c.l4base 4 = .ok l →
      let got := s.leafAccess { pid := pid, ctx := n, die := 4 } l (apertureVa P x) .read false
      (∀ pa, got = .pa pa → s.eccSub pa size true = none → exec (.apertureRead pid x size) s = .next (s.markAD l .read) ∧
        (s.apertureBytes pid x size).1 = memRead (s.markAD l .read).mem pa size) ∧
      (got = .zero → exec (.apertureRead pid x size) s = .next (s.markAD l .read) ∧
        (s.apertureBytes pid x size).1 = List.replicate size 0)) ∧
  (∀ s pid n P c x data pa s1, ApertureOf s pid n P c → data ≠ [] → apertureVa P x % 4096 + data.length ≤ 4096 →
    s.apSpot pid n c (apertureVa P x) data.length .write = (some (.mem pa), s1) →
    exec (.apertureWrite pid x data) s = .next { s1 with mem := memWrite s1.mem pa data }) ∧
  (∀ s pid, s.vf? pid = none → (∀ o, s.vfByte pid o = 0xFF) ∧
    (∀ off data, exec (.registerWrite (.vf pid) off data) s = .next s ∧ exec (.apertureWrite pid off data) s = .next s) ∧
    (∀ x size, exec (.apertureRead pid x size) s = .next s ∧ (s.apertureBytes pid x size).1 = List.replicate size 0xFF) ∧
    (∀ ctx off data en, exec (.admissionWrite pid ctx off data en) s = .next s) ∧
    (∀ ctx v, exec (.icoalWrite pid ctx v) s = .next s ∧ exec (.fqheadWrite pid v) s = .next s) ∧
    ∀ seq, exec (.mbdoorIgnored (.vf pid) seq) s = .next s) ∧
  ∀ s pid posted, exec (.vfUnsupportedRequest pid posted) s = .next s

/-- Admission ports, partition registers, doorbells and the aperture take the accesses of the host. -/
def Obligations.HostWindowsTakeAccesses : Prop := PortsAndRegistersTakeWrites ∧ WindowsTakeAccesses

/-- R48, R49, R51: PART_CREATE of a record within its limits, isolated from the strict partitions and with its clusters free,
makes the partition CONFIGURING, its cores at the E of their domain, and leaves the other partitions and memory as they were;
otherwise the answer names what is wrong, and a partition that exists is BAD_STATE. Once a strict one is made, no frame of another
lies in a slice that it names. PART_DESTROY makes the partition CLEARING from
its doorbell on (R423), and takes it away with its frames, which are zero then, and its routing counters.
What stands in the way of a strict partition is log 84, a lost home die log 92, the counters log 83. That the new partition's cores
have seen the E of their domain is the model's choice (log 48). -/
def Obligations.PartitionCommandsComplete : Prop :=
  (∀ s cmd, Commanded s .pf0 0x40 cmd → cmdZeroOk cmd [(8, 9), (16, 144)] = true →
    let n := cmdNat cmd 8 1
    let x := cmdNat cmd 16 128
    let p := Partition.ofImage n x
    (partImageOk n x p = false → Refuses .partCreate .pf0 0x40 s 2) ∧
    (partImageOk n x p = true → (s.part? n).isSome = true → Refuses .partCreate .pf0 0x40 s 4) ∧
    (partImageOk n x p = true → s.part? n = none →
      (s.isolated p = false → Refuses .partCreate .pf0 0x40 s 6) ∧
      (s.isolated p = true → s.clustersFree n p = false → Refuses .partCreate .pf0 0x40 s 3) ∧
      (s.isolated p = true → s.clustersFree n p = true → p.strict = false →
        Answers .partCreate .pf0 0x40 s 0 [] fun t => t.part? n = some p ∧ p.state = 1 ∧ t.mem = s.mem ∧ t.dev = s.dev ∧
          (∀ k, k ≠ n → t.part? k = s.part? k) ∧ (∀ c ∈ coresIn p.clmask.toNat, (t.core c).eSeen = (s.domain 0).e.toNat) ∧
          ∀ c, c ∉ coresIn p.clmask.toNat → t.core c = s.core c) ∧
      (s.isolated p = true → s.clustersFree n p = true → p.strict = true →
        ((s.setPart n p).evacuate n p = none → Refuses .partCreate .pf0 0x40 s 3) ∧
        ∀ s', (s.setPart n p).evacuate n p = some s' → Answers .partCreate .pf0 0x40 s 0 [] fun t =>
          t.mem = s'.mem ∧ t.parts = s'.parts ∧ (∀ f ∈ t.frames, f.pid ≠ n → s.meetsSlices p f.base f.size = false) ∧
          (∀ c ∈ coresIn p.clmask.toNat, (t.core c).eSeen = (s'.domain (n + 1)).e.toNat) ∧
          (s.anyStrict = false → s'.dev.hot = false → t.dev.coreMhz = ratedStep s'.dev.limitW) ∧
          (s.anyStrict = true → t.dev = s'.dev)))) ∧
  (∀ s P (seq : BitVec 16), s.dev.mbox.busy = false → s.dev.boot ≠ .recovery →
    let cmd := memRead s.dev.mbox.cmd 0 4096
    let n := cmdNat cmd 8 1
    cmdNat cmd 0 2 = 0x41 → cmdZeroOk cmd [(8, 9)] = true → s.part? n = some P →
      ∃ t, exec (.registerWrite .pf0 0x1F00 (bytesOf 2 seq.toNat)) s = .next t ∧ t.part? n = some { P with state := 5 } ∧
        t.vf? n = none ∧ SameMachine s t ∧ (∀ k, k ≠ n → t.part? k = s.part? k) ∧
        t.dev = { s.dev with mbox := { s.dev.mbox with seq := seq, busy := true, issued := cmd } }) ∧
  ∀ s cmd, Commanded s .pf0 0x41 cmd → cmdZeroOk cmd [(8, 9)] = true →
    let n := cmdNat cmd 8 1
    (15 < n → Refuses .partDestroy .pf0 0x41 s 2) ∧
    (n ≤ 15 → s.part? n = none → Refuses .partDestroy .pf0 0x41 s 4) ∧
    (n ≤ 15 → ∀ p, s.part? n = some p → Answers .partDestroy .pf0 0x41 s 0 [] fun t => t.part? n = none ∧
      (∀ k, k ≠ n → (t.part? k).isSome = (s.part? k).isSome) ∧ (∀ f ∈ t.frames, f.pid ≠ n) ∧ (∀ r ∈ t.replicas, r.pid ≠ n) ∧
      (∀ f ∈ s.frames, f.pid = n → ∀ i, i < f.size → cellGet (w := 8) t.mem (f.base + i) = 0) ∧
      ∀ k ∈ clustersOf p.clmask.toNat, (t.cluster k).counters = [])

/-- R25 to R27: with no strict partition a reading of the power above the limit lowers the clock one step of 100 MHz, to 700 MHz at
the least, and with one it does not; a junction temperature of 105 °C or more lowers it whatever partitions there are, and so does
each reading until every die is below 100 °C; it rises again, one step at a time, while nothing is hot or above the limit, to
1,400 MHz at the most. POWER_LIMIT takes 1,200 W to 2,000 W. No change of the clock changes anything else.
The rated power is free (log 9), and the mark kept while hot is log 85. -/
def Obligations.ClocksFollowPowerAndHeat : Prop :=
  (∀ s watts, ∃ f, exec (.powerThrottle watts) s = .next { s with dev := { s.dev with powerW := watts, coreMhz := f } } ∧
    (s.anyStrict = true ∨ watts ≤ s.dev.limitW → f = s.dev.coreMhz) ∧
    (s.anyStrict = false → s.dev.limitW < watts → f = if 700 < s.dev.coreMhz then s.dev.coreMhz - 100 else s.dev.coreMhz)) ∧
  (∀ s celsius, ∃ f h n, exec (.thermalThrottle celsius) s =
      .next { s with dev := { s.dev with tempC := celsius, hot := h, coreMhz := f, thermalChanges := n } } ∧
    (h = true ↔ 105 ≤ celsius ∨ s.dev.hot = true ∧ 100 ≤ celsius) ∧
    (h = true → 700 < s.dev.coreMhz → f = s.dev.coreMhz - 100 ∧ n = s.dev.thermalChanges + 1) ∧
    (h = false ∨ s.dev.coreMhz ≤ 700 → f = s.dev.coreMhz ∧ n = s.dev.thermalChanges)) ∧
  (∀ s, (s.dev.hot = true → exec .coreClockRaise s = .next s) ∧
    (s.anyStrict = false → s.dev.hot = false → s.dev.powerW ≤ s.dev.limitW → s.dev.coreMhz ≤ 1300 →
      exec .coreClockRaise s = .next { s with dev := { s.dev with coreMhz := s.dev.coreMhz + 100 } }) ∧
    (1300 < s.dev.coreMhz → exec .coreClockRaise s = .next s)) ∧
  ∀ s cmd, Commanded s .pf0 0x42 cmd → cmdZeroOk cmd [(8, 12)] = true →
    let w := cmdNat cmd 8 4
    (w < 1200 ∨ 2000 < w → Refuses .powerLimit .pf0 0x42 s 2) ∧
    (1200 ≤ w → w ≤ 2000 → ∃ f, Answers .powerLimit .pf0 0x42 s 0 [] (fun t => t = { s with dev := { s.dev with limitW := w, coreMhz := f } }) ∧
      (s.anyStrict = false → f = s.dev.coreMhz) ∧ (s.anyStrict = true → s.dev.hot = false → f = ratedStep w))

/-- R44, R55: FW_CHUNK puts its bytes into the inactive slot and leaves the other; FW_COMMIT of an image that a check fails is
BAD_IMAGE, of a good one makes its slot the preferred one; DEV_RESET has the device reset within 1 ms. In recovery mode FW_COMMIT of
a good image clears the count of failed starts and has the device reset too, and DEV_RESET without a commit sets the retry flag.
The inactive slot while nothing runs is log 90. -/
def Sys2Proof.Claims.FirmwareCommandsComplete : Prop :=
  (∀ s cmd, Commanded s .pf0 0x43 cmd → cmdZeroOk cmd [(8, 4096)] = true →
    let off := cmdNat cmd 8 4
    let len := cmdNat cmd 12 4
    (off % 16 ≠ 0 ∨ len = 0 ∨ 4080 < len ∨ 0x400_0100 < off + len → Refuses .fwChunk .pf0 0x43 s 2) ∧
    (off % 16 = 0 → 0 < len → len ≤ 4080 → off + len ≤ 0x400_0100 → cellsWf (s.dev.flash.slot s.dev.idleSlot) = true → Answers .fwChunk .pf0 0x43 s 0 [] fun t =>
      t.dev.flash.slot (1 - s.dev.idleSlot) = s.dev.flash.slot (1 - s.dev.idleSlot) ∧ t.mem = s.mem ∧ t.parts = s.parts ∧
      ∀ i, cellGet (t.dev.flash.slot s.dev.idleSlot) i =
        if off ≤ i ∧ i < off + len ∧ 16 + (i - off) < cmd.length then (cmd.drop (16 + (i - off))).headD 0
        else cellGet (s.dev.flash.slot s.dev.idleSlot) i)) ∧
  (∀ s cmd, Commanded s .pf0 0x44 cmd → cmdZeroOk cmd [] = true →
    ((imgBad (s.dev.flash.slot s.dev.idleSlot) s.dev.minSvn).isSome = true → Refuses .fwCommit .pf0 0x44 s 5) ∧
    (imgBad (s.dev.flash.slot s.dev.idleSlot) s.dev.minSvn = none → Answers .fwCommit .pf0 0x44 s 0 [] fun t =>
      t = { s with dev := { s.dev with
        commits := s.dev.commits + 1, flash := { s.dev.flash with preferred := s.dev.idleSlot } } })) ∧
  (∀ s cmd, Commanded s .pf0 0x45 cmd → cmdZeroOk cmd [] = true → Answers .devReset .pf0 0x45 s 0 [] fun t =>
    t = { s with dev := { s.dev with resetAt := some (s.ns + 1000000) } }) ∧
  ∀ s cmd code, InRecovery s code cmd → cmdZeroOk cmd [] = true →
    let f := s.dev.flash
    let again := fun (f : Flash) (n : Nat) =>
      { s with dev := { s.dev with commits := n, flash := f, resetAt := some (s.ns + 1000000) } }
    (code = 0x44 → (imgBad (f.slot s.dev.idleSlot) s.dev.minSvn).isSome = true → Refuses .fwCommit .pf0 0x44 s 5) ∧
    (code = 0x44 → imgBad (f.slot s.dev.idleSlot) s.dev.minSvn = none → Answers .fwCommit .pf0 0x44 s 0 [] fun t =>
      t = again { f with preferred := s.dev.idleSlot, failed := 0 } (s.dev.commits + 1)) ∧
    (code = 0x45 → Answers .devReset .pf0 0x45 s 0 [] fun t =>
      t = again { f with retry := f.retry || s.dev.commits == 0 } s.dev.commits)

/-- R53, R54, R27: DEVICE_RESET leaves no partition, workgroup or volatile memory, keeps the fuses and adds one to the failed starts
in flash; with three of them and no retry flag it comes to recovery mode, otherwise it starts the preferred image if that passes,
else the other one, else fails with the reason of the first check that fails; a start with far channels that are not populated alike
(R23) fails with FAR_POPULATION. READY, within 10 s, clears the count and the reason,
raises the minimum SVN only where FLAGS[0] says so, and extends both measurement registers; later than 10 s the start has failed
with TIMEOUT. At 115 °C the device is off.
The reason codes of an interrupted start and of a blank header are log 86 and log 87, and that memory reads 0 after a reset is the
model's choice (log 1). -/
def Sys2Proof.Claims.DeviceStarts : Prop :=
  (∀ s hw, ∃ t, exec (.deviceReset hw) s = .next t ∧ t.wgs = [] ∧ t.parts = [] ∧ t.engines = [] ∧ t.frames = [] ∧
    t.domains = State.reset.domains ∧ (∀ a, a < hostBase → cellGet (w := 8) t.mem a = 0) ∧ t.dev.minSvn = s.dev.minSvn ∧
    t.dev.coreMhz = 1400 ∧ t.dev.flash.failed = s.dev.flash.failed + 1 ∧ t.dev.flash.a = s.dev.flash.a ∧ t.dev.flash.b = s.dev.flash.b ∧
    t.dev.flash.preferred = s.dev.flash.preferred ∧ t.dev.flash.retry = false ∧
    let f := s.dev.flash
    let p := f.preferred
    (f.retry = false → 2 ≤ f.failed → t.dev.boot = .recovery) ∧
    (f.retry = true ∨ f.failed < 2 →
      (imgBad (f.slot p) s.dev.minSvn = none → hw = .good → FarAlike s.dev.farChans →
        t.dev.boot = .starting p s.ns ∧ t.dev.svn = imgSvn (f.slot p) ∧ t.dev.m0 = extendM 0 (imgDigest (f.slot p))) ∧
      (imgBad (f.slot p) s.dev.minSvn ≠ none → imgBad (f.slot (1 - p)) s.dev.minSvn = none → hw = .good →
        FarAlike s.dev.farChans → t.dev.boot = .starting (1 - p) s.ns) ∧
      (imgBad (f.slot p) s.dev.minSvn = none → hw = .good → ¬ FarAlike s.dev.farChans →
        t.dev.boot = .failed ∧ t.dev.reason = 8) ∧
      (∀ r, imgBad (f.slot p) s.dev.minSvn = some r → imgBad (f.slot (1 - p)) s.dev.minSvn ≠ none →
        t.dev.boot = .failed ∧ t.dev.reason = r) ∧
      (hw = .thermal → imgBad (f.slot p) s.dev.minSvn = none → t.dev.boot = .failed ∧ t.dev.reason = 0xA))) ∧
  (∀ s slot since, s.dev.boot = .starting slot since →
    (s.ns ≤ since + 10000000000 → exec .ready s = .next { s with dev := { s.dev with
      boot := .ready, reason := 0, flash := { s.dev.flash with failed := 0 }
      minSvn := if s.dev.flags0 then max s.dev.minSvn s.dev.svn else s.dev.minSvn
      m1 := extendM s.dev.m1 (digestBytes (Config.sha256 Config.deviceConfiguration)) } }) ∧
    (since + 10000000000 < s.ns → exec .ready s = .next s) ∧
    (s.ns < since + 10000000000 → exec .startTimeout s = .next s) ∧
    (since + 10000000000 ≤ s.ns → ∃ d, exec .startTimeout s = .next { s with dev := d } ∧ d.boot = .failed ∧ d.reason = 0xB ∧
      d.flash = s.dev.flash ∧ d.minSvn = s.dev.minSvn)) ∧
  (∀ s, (∀ slot since, s.dev.boot ≠ .starting slot since) → exec .ready s = .next s ∧ exec .startTimeout s = .next s) ∧
  ∀ s celsius, (celsius < 115 → exec (.thermalTrip celsius) s = .next s) ∧
    (115 ≤ celsius → ∃ t, exec (.thermalTrip celsius) s = .next t ∧ t.dev.boot = .off ∧ t.parts = [] ∧ t.wgs = [] ∧
      t.dev.minSvn = s.dev.minSvn ∧ ∀ a, a < hostBase → cellGet (w := 8) t.mem a = 0)

/-- Firmware is updated and chosen at reset, and a start succeeds or fails with its reason. -/
def Obligations.FirmwareUpdatesAndStarts : Prop := FirmwareCommandsComplete ∧ DeviceStarts

/-- R29: a lost host link halts the contexts, those in a step at its end and the others now, and a host reset that the device waits
for clears every partition; a loss of at most 10 ms does nothing.
A ring entry that cannot be delivered is counted, and the count is in the last 8 bytes of the context's dump area.
When a host reset acts is log 93, and the form of the record of lost entries is log 50. -/
def Sys2Proof.Claims.HostLinkIsLost : Prop :=
  (∀ s lostAt, (s.ns ≤ lostAt + 10000000 → exec (.hostLinkTimeout lostAt) s = .next s) ∧
    (lostAt + 10000000 < s.ns → exec (.hostLinkTimeout lostAt) s = exec .linkDown s)) ∧
  (∀ s, ∃ t, exec .linkDown s = .next t ∧ SameMachine s t ∧ t.dev = { s.dev with linkLost := true, linkLostAt := s.ns, hostWait := true } ∧
    ∀ pid n c, s.ctx? pid n = some c → ∃ c', t.ctx? pid n = some c' ∧ c'.stepn = c.stepn ∧ c'.adm.slots = c.adm.slots ∧
      (c.cstate = 4 → c' = c) ∧ (c.cstate ≠ 4 → c.run ≠ none → c' = { c with haltAtClose := true }) ∧
      (c.cstate ≠ 4 → c.run = none → c'.cstate = 4 ∧ c'.haltrsn = 2)) ∧
  (∀ (s : State) pid n c r e, s.ctx? pid n = some c → s.dev.linkLost = true → s.putEntry pid n r e = (.written, r,
    ((s.setCtx pid n { c with ringLost := c.ringLost + 1 }).agentWrite (agentOf pid n) (c.dumpb.toNat + c.dumpsz - 8)
      (bytesOf 8 (c.ringLost + 1))).2)) ∧
  ∀ s, (s.dev.hostWait = false → exec .hostReset s = .next s) ∧
    (s.dev.hostWait = true → ∃ t, exec .hostReset s = .next t ∧ (∀ n, t.part? n = none) ∧ t.dev.hostWait = false ∧
      t.dev.linkLost = false)

/-- R17, R18: a failed die-to-die link retrains within 1 ms or is given up: a ring link is retired, and the loss of a die's link to
the IOD takes its clusters and the replicas in its near memory away, fails the partitions whose records the die holds, and halts with
DIE_LOST the contexts that it runs. R21: a corrected sector counts for its die, an uncorrectable one is poisoned and counted once.
What DIE_LOST writes is log 82, and which errors count is log 94. -/
def Sys2Proof.Claims.LinksAndSectorsFail : Prop :=
  (∀ s link, s.linkGone link = false → s.dev.downSince link = none →
    exec (.linkFailure link) s = .next { s with dev := { s.dev with linkDown := s.dev.linkDown ++ [(link, s.ns)] } }) ∧
  (∀ s link t, s.dev.downSince link = some t →
    (s.ns ≤ t + 1000000 → exec (.linkRetrain link) s = .next { s with dev := s.dev.dropLink link }) ∧
    (t + 1000000 < s.ns → exec (.linkRetrain link) s = .next s)) ∧
  (∀ s ring t, s.dev.downSince (.ring ring) = some t →
    (s.ns < t + 1000000 → exec (.linkRetire ring) s = .next s) ∧
    (t + 1000000 ≤ s.ns → exec (.linkRetire ring) s = .next
      { s with dev := { s.dev.dropLink (.ring ring) with ringRetired := s.dev.ringRetired ||| (1#4 <<< ring) } })) ∧
  (∀ s die t, die < 4 → s.dev.downSince (.iod die) = some t →
    (s.ns < t + 1000000 → exec (.dieLost die) s = .next s) ∧
    (t + 1000000 ≤ s.ns → ∃ t', exec (.dieLost die) s = .next t' ∧ t'.dev.lostDies = s.dev.lostDies ||| (1#4 <<< die) ∧
      (∀ i, i < 18 → (t'.cluster (18 * die + i)).offline = true) ∧ (∀ r ∈ t'.replicas, r.die ≠ die) ∧
      (∀ n P, s.part? n = some P → n % 4 = die → ∃ P', t'.part? n = some P' ∧ P'.state = (if P.state = 5 then 5 else 4)) ∧
      ∀ n k c, s.ctx? n k = some c → n % 4 = die ∨ (c.clmask &&& dieClusters die) ≠ 0 →
        ∃ c', t'.ctx? n k = some c' ∧ c'.cstate = 4 ∧ c'.haltrsn = 6)) ∧
  ∀ s sector d, d < 4 → nearDie (32 * sector) = some d →
    exec (.scrub sector .none) s = .next s ∧
    exec (.scrub sector .corrected) s = .next { s with dev := { s.dev with
      corrected := tabSet s.dev.corrected d ((tabGet s.dev.corrected d).getD 0 + 1) } } ∧
    ∃ t, exec (.scrub sector .uncorrectable) s = .next t ∧ sector ∈ t.dev.poison ∧ t.mem = s.mem ∧
      t.dev.uncorrectable = if sector ∈ s.dev.poison then s.dev.uncorrectable else s.dev.uncorrectable + 1

/-- What a lost host link, a failed die link, a lost die and a bad sector do. -/
def Obligations.LinksDiesAndSectorsFail : Prop := HostLinkIsLost ∧ LinksAndSectorsFail

/-- R189, R207: while a path is issuing, a step fetches the bytes at its PC, and where they decode to an instruction that the path
may execute, whose turn no wait of its lanes, lookahead window or decision queue holds up, the step is what `exec` makes of that
instruction, with the end of the issue around it; bytes that decode to nothing raise ILLEGAL_INSTR. A fetch reads the words at the
PC, each as memory stands or, while the context's step goes on, as it stood, where the context's tables then had it, before a
write of that step (R208); without such a write as it stands. With nothing issuing, the step is the agenda's next turn: what
`exec` makes of its row, after the time it says has passed, and after a reset that is due by then (R44). The agenda is the model's
own (log 5). -/
def Obligations.StepsRunWhatStands : Prop :=
  (∀ s r p s1 bs s2 i n mj sh f, s.cur = some r → s.path? = some (p, s1) → p.waiting = false → s1.fetch p.who p.pc = (.ok bs, s2) →
    decode bs = .ok (i, n) → coded i = some (mj, sh, f) → p.illegal mj f = none → p.queueWait i = false →
    (∀ l ∈ p.lanes, ∀ th, p.thread l = some th → th.windowOk mj f = true) → step s = After s (Ran p (refine p i) mj f s2)) ∧
  (∀ s r p s1 bs s2 e, s.cur = some r → s.path? = some (p, s1) → p.waiting = false → s1.fetch p.who p.pc = (.ok bs, s2) →
    decode bs = .error e → step s = After s (.next
      (if p.suspended then s2.shift else ((p.raise s2 (Cause.plain 0x01) false).noteIssued p).shift))) ∧
  (∀ s r p s1, s.cur = some r → s.path? = some (p, s1) → p.waiting = true → step s = After s (.next s1.shift)) ∧
  (∀ p i, (∀ f, i ≠ .csrw f) → refine p i = i) ∧
  (∀ (s : State) who (pc : DWord) pa a0 a1 s1 s2, pc.toNat % 4 = 0 → s.fetchAge who = (a0, s1) → s1.fetchAge who = (a1, s2) →
    let age := fun (va : Nat) => if va / 32 = pc.toNat / 32 then a0 else a1
    let view := fun (k : Nat) => s2.viewOf who (age (pc.toNat + 4 * k)) (pc.toNat + 4 * k) (pa + 4 * k)
    let n := wordsOfLen (cellGet (w := 8) (view 0).1 (view 0).2)
    (∀ k, k < n → ∃ x, s2.xlate who (pc.toNat + 4 * k) .fetch false = (.pa (pa + 4 * k), x, s2) ∧ s2.eccSub (pa + 4 * k) 4 true = none) →
    s.fetch who pc = (.ok ((List.range n).flatMap fun k => memRead (view k).1 (view k).2 4), s2)) ∧
  (∀ (s : State) who va pa, (s.pastOf who = [] → s.fetchAge who = (0, s)) ∧ (s.fetchAge who).1 ≤ (s.pastOf who).length ∧
    s.viewOf who 0 va pa = (s.mem, pa) ∧
    ∀ n x, (s.pastOf who)[n]? = some x →
      (∀ l, ({ s with mem := x.mem } : State).walk va x.l4base 4 = .ok l → l.tier ≠ 3 →
        s.viewOf who (n + 1) va pa = (x.mem, l.frame + va % l.size)) ∧
      ((∀ l, ({ s with mem := x.mem } : State).walk va x.l4base 4 = .ok l → l.tier = 3) → s.viewOf who (n + 1) va pa = (s.mem, pa))) ∧
  (∀ s dc dn ch i ts, s.cur = none → s.agenda = .event dc dn ch i :: ts → i.isCoded = false →
    let s1 := { s with agenda := ts, cycle := s.cycle + dc, ns := s.ns + dn, choice := ch }
    ((∃ hw, i = .deviceReset hw) ∨ (∀ t, s.dev.resetAt = some t → s1.ns < t) → step s = After s (exec i s1)) ∧
    ((∀ hw, i ≠ .deviceReset hw) → ∀ t, s.dev.resetAt = some t → t ≤ s1.ns → ∃ hw s2, exec (.deviceReset hw) { s1 with ns := t } = .next s2 ∧
      step s = After s (exec i { s2 with ns := s1.ns, choice := s1.choose.2.choice, fresh := s1.choose.2.fresh }))) ∧
  ∀ s, s.cur = none → s.agenda = [] → step s = .next s

/-- R192, R196, R206, R207: an all-zero Word 0, a major in no instruction table and a form the major does not have are no instructions;
a step on an instruction of another stream or one naming registers that the thread does not have raises ILLEGAL_INSTR; and a cause
raised for the path leaves its registers, its PC and memory as they are, with a record on its way that the group waits for.
The record's PEND and VADDR are those of log 30. -/
def Obligations.RejectedInstructionsHaveNoEffect : Prop :=
  (∀ bs, 4 ≤ bs.length → leNat (bs.take 4) = 0 → decode bs = .error .reservedMajor) ∧
  (∀ bs, 4 ≤ bs.length → majorOf (leNat (bs.take 4) / 4 % 128) = none → decode bs = .error .reservedMajor) ∧
  (∀ s r p s1 bs s2 i n mj sh f, s.cur = some r → s.path? = some (p, s1) → s1.fetch p.who p.pc = (.ok bs, s2) →
    decode bs = .ok (i, n) → coded i = some (mj, sh, f) → streamOk mj p.ctl = false ∨ p.regsOk mj f = false →
    p.waiting = false → p.suspended = false →
    step s = After s (.next ((p.raise s2 (Cause.plain 0x01) false).noteIssued p).shift)) ∧
  (∀ (p : Path) mj (f : LForm), p.ctl = false → useD mj f = .r32 → p.w.id.nreg ≤ f.d.toNat → p.illegal mj f = some 0x01) ∧
  ∀ (s : State) (p : Path) c mem, p.ctl = false → ∃ w q, (p.raise s c mem).wg? p.w.id.core p.w.id.slot = some w ∧
    tabGet (p.raise s c mem).frecs s.tags = some q ∧ RecordOf q p.w.id p.mask c p.pc ∧ w.lanes = p.w.lanes ∧ w.ctl = p.w.ctl ∧
    w.s = p.w.s ∧ w.scratch = p.w.scratch ∧ (w.group p.grp).susp = .fault s.tags ∧ (p.raise s c mem).mem = s.mem ∧
    (p.raise s c mem).parts = s.parts ∧ ∀ k, k ≠ p.w.id.core * 8 + p.w.id.slot → tabGet (p.raise s c mem).wgs k = tabGet s.wgs k

/-- Example 8-1 and Table 7-1: words as the manual writes them decode to the instructions it names. -/
def Obligations.WordsDecode : Prop :=
  let f : LForm := { kind := .l, g := { neg := false, p := 0 }, d := 0, a := 0, b := 0, c := 0, f := 0, la := 0, ty := .ui32, m := 0
                     s := 0, x := 0, w2 := 0, lit := 0 }
  decode (leBytes 4 0x0041_0042 ++ leBytes 8 1) = .ok (.add { f with kind := .sl, d := 4, a := 4, lit := 1 }, 12) ∧
  decode (leBytes 4 0x0040_4091 ++ leBytes 4 0x4000_0002 ++ leBytes 4 0) = .ok (.icmp { f with d := 1, a := 4, f := 2, x := 2 }, 12) ∧
  decode (leBytes 4 0xFFFE_8204) = .ok (.braShort { neg := false, p := 1 } 0x3_FFFA#18, 4) ∧
  decode (leBytes 4 0x0000_001D ++ leBytes 4 1 ++ leBytes 4 0) = .ok (.syncgGrp { f with f := 1 }, 12) ∧
  decode (leBytes 4 0x0041_40A8) = .ok (.redgShort { g := { neg := false, p := 0 }, d := 5, a := 4, b := 0 }, 4) ∧
  decode (leBytes 4 0x0000_0018) = .ok (.exit { g := { neg := false, p := 0 }, d := 0, a := 0, b := 0 }, 4) ∧
  decode (leBytes 4 0) = .error .reservedMajor

/-- R189 to R192, Table 7-1: decoding the words of a well-formed instruction, with whatever follows them, gives it back with its length;
and what decodes is well formed and has exactly the words it was read from. -/
def Obligations.DecodeAndEncodeAgree : Prop :=
  (∀ i rest, i.isCoded = true → i.wf = true → decode (encode i ++ rest) = .ok (i, (encode i).length)) ∧
  ∀ bs i n, decode bs = .ok (i, n) → i.isCoded = true ∧ i.wf = true ∧ n ≤ bs.length ∧ encode i = bs.take n

/-- R6: a number stored at a physical address stands there with its least significant byte first; it reads back as it was written, every
other byte reads as before, and memory keeps its canonical form. -/
def Obligations.MemoryIsLittleEndian : Prop :=
  ∀ (s : State) a n x, MemInv s →
    (s.setPhys a n x).phys a n = x % 2 ^ (8 * n) ∧ MemInv (s.setPhys a n x) ∧
    (∀ i, i < n → cellGet (w := 8) (s.setPhys a n x).mem (a + i) = BitVec.ofNat 8 (x / 2 ^ (8 * i))) ∧
    (∀ b, b < a ∨ a + n ≤ b → cellGet (w := 8) (s.setPhys a n x).mem b = cellGet s.mem b) ∧
    MemInv (s.zeroPhys a n) ∧
    ∀ b, cellGet (w := 8) (s.zeroPhys a n).mem b = if a ≤ b ∧ b < a + n then 0 else cellGet s.mem b

/-- What reset leaves: E is 0 in every domain (R111), every reader counter (Table 6-1) and every routing counter 0 (R393), every bank
CACHE (R165), %cycle 0 (R247), the clock at 1.4 GHz (R24), no command and no partition. -/
def Sys2Proof.Claims.ResetValues : Prop :=
  let s := State.reset
  (∀ d, (s.domain d).e = 0) ∧ (∀ k i, cellGet (s.cluster k).counters i = 0) ∧
  (∀ k b, (tabGet (s.core k).banks b).getD .cache = .cache) ∧ (∀ k, (s.core k).c0 = 0 ∧ (s.core k).c1 = 0) ∧ s.cycle = 0 ∧
  s.dev.coreMhz = 1400 ∧ s.dev.mbox.busy = false ∧ s.dev.mbox.ovr = false ∧ (∀ n, s.part? n = none) ∧ (∀ c k, s.wg? c k = none) ∧
  s.engines = [] ∧ s.frecs = [] ∧ s.fabric.out = []

/-- The reset state is sound: memory is canonical (with nothing listed) and every workgroup stands in its place. -/
def Sys2Proof.Claims.ResetIsSound : Prop := MemInv State.reset ∧ WgsStand State.reset

/-- What reset leaves: epochs, counters, banks, the clock, and a sound state. -/
def Obligations.ResetLeaves : Prop := ResetValues ∧ ResetIsSound

/-- Every step keeps memory in canonical form and every workgroup in the place of its core and slot. -/
def Obligations.StepsKeepTheMachineSound : Prop := KeptByStep fun s => MemInv s ∧ WgsStand s

/-- R27, R54, R56: no step lowers the minimum SVN in the fuses, and only READY changes it. -/
def Obligations.MinimumSvnNeverFalls : Prop :=
  (∀ s s', step s = .next s' → s.dev.minSvn ≤ s'.dev.minSvn) ∧
  ∀ i s s', i ≠ .ready → exec i s = .next s' → s'.dev.minSvn = s.dev.minSvn

end
end

