-- ==== Sys2Proof/Laws/Path.lean ====
section
/-! SUPPORT. Sparse arrays, tables and the lanes of a path: what the shared operations of Operands.lean do to them. -/

namespace Sys2Proof.Laws
open Machine

/-! ### Tables -/

theorem tabGet_tabSet_self {α : Type} (t : Tab α) (a : Nat) (v : α) : tabGet (tabSet t a v) a = some v := by
  induction t with
  | nil => simp [tabSet, tabGet]
  | cons e r ih =>
    obtain ⟨k, x⟩ := e
    simp only [tabSet]
    split
    · simp [tabGet]
    · split
      · simp [tabGet]
      · simp only [tabGet]
        rw [if_neg (by omega), ih]

theorem tabGet_tabSet_ne {α : Type} (t : Tab α) (a b : Nat) (v : α) (h : b ≠ a) :
    tabGet (tabSet t a v) b = tabGet t b := by
  induction t with
  | nil => simp [tabSet, tabGet, Ne.symm h]
  | cons e r ih =>
    obtain ⟨k, x⟩ := e
    simp only [tabSet]
    split
    · simp [tabGet, Ne.symm h]
    · split
      · next hk => subst hk; simp [tabGet, Ne.symm h]
      · simp only [tabGet, ih]

/-! ### Changes of lanes -/

/-- Only lanes change, the one at index k by `f k`. -/
def LaneMap (w w' : Wg) (f : Nat → Thread → Thread) : Prop :=
  ∃ m, w' = { w with lanes := m } ∧ ∀ k, tabGet m k = (tabGet w.lanes k).map (f k)

theorem LaneMap.refl (w : Wg) : LaneMap w w fun _ t => t := ⟨w.lanes, rfl, fun k => by simp⟩

theorem LaneMap.trans {w w' w'' : Wg} {f h : Nat → Thread → Thread} (a : LaneMap w w' f) (b : LaneMap w' w'' h) :
    LaneMap w w'' fun k t => h k (f k t) := by
  obtain ⟨m, rfl, hm⟩ := a
  obtain ⟨m', rfl, hm'⟩ := b
  exact ⟨m', rfl, fun k => by simp [hm', hm, Function.comp_def]⟩

theorem LaneMap.congr {w w' : Wg} {f h : Nat → Thread → Thread} (a : LaneMap w w' f)
    (e : ∀ k t, tabGet w.lanes k = some t → f k t = h k t) : LaneMap w w' h := by
  obtain ⟨m, rfl, hm⟩ := a
  refine ⟨m, rfl, fun k => ?_⟩
  rw [hm]
  cases hk : tabGet w.lanes k with
  | none => rfl
  | some t => simp [e k t hk]

/-- The change of one lane. -/
def at1 (i : Nat) (f : Thread → Thread) (k : Nat) (t : Thread) : Thread := if k = i then f t else t

theorem modLane_map (w : Wg) (g l : Nat) (f : Thread → Thread) : LaneMap w (w.modLane g l f) (at1 (32 * g + l) f) := by
  simp only [Wg.modLane, Wg.lane?]
  split
  · next t h =>
    refine ⟨_, rfl, fun k => ?_⟩
    by_cases hk : k = 32 * g + l
    · subst hk; simp [tabGet_tabSet_self, h, at1]
    · rw [tabGet_tabSet_ne _ _ _ _ hk]; cases tabGet w.lanes k <;> simp [at1, hk]
  · next h =>
    refine (LaneMap.refl w).congr fun k t hk => ?_
    by_cases e : k = 32 * g + l
    · subst e; simp [hk] at h
    · simp [at1, e]

/-- A lane that is there, set. -/
theorem setLane_map (w : Wg) (g l : Nat) (t t' : Thread) (h : w.lane? g l = some t) :
    LaneMap w (w.setLane g l t') (at1 (32 * g + l) fun _ => t') := by
  have := modLane_map w g l fun _ => t'
  simpa only [Wg.modLane, h] using this

/-! ### Register writes -/

/-- A list of writes with no uniform register among them, to a lane. -/
theorem writes_lane (w : Wg) (g l : Nat) (rs : List RegWrite) (h : ∀ n x, RegWrite.s n x ∉ rs) :
    LaneMap w (w.writes false g l rs) (at1 (32 * g + l) fun t => put t rs) := by
  induction rs generalizing w with
  | nil => exact (LaneMap.refl w).congr fun k t _ => by simp [at1, put]
  | cons r rs ih =>
    have h1 : LaneMap w (w.write false g l r) (at1 (32 * g + l) fun t => put1 t r) := by
      cases r with
      | s n x => exact absurd List.mem_cons_self (h n x)
      | v n x => exact modLane_map ..
      | k n x => exact modLane_map ..
      | p n x => exact modLane_map ..
    refine (h1.trans (ih _ fun n x hm => h n x (List.mem_cons_of_mem _ hm))).congr fun k t _ => ?_
    by_cases e : k = 32 * g + l <;> simp [at1, e, put]

/-- A list of writes to a control thread. -/
theorem writes_ctl (w : Wg) (g l : Nat) (rs : List RegWrite) :
    ∃ lg q, w.writes true g l rs = { w with ctl := put w.ctl rs, s := putS w.s rs, sLog := lg, sSeq := q } := by
  induction rs generalizing w with
  | nil => exact ⟨w.sLog, w.sSeq, rfl⟩
  | cons r rs ih =>
    obtain ⟨lg, q, e⟩ := ih (w.write true g l r)
    refine ⟨lg, q, ?_⟩
    simp only [Wg.writes, List.foldl_cons] at e ⊢
    rw [e]
    cases r <;> simp [Wg.write, put, put1, putS]

/-! ### Folds over distinct lanes -/

/-- The change that a list of lanes with their own changes makes. -/
def atAll (g : Nat) (es : List (Nat × (Thread → Thread))) (k : Nat) (t : Thread) : Thread :=
  es.foldl (fun t e => at1 (32 * g + e.1) e.2 k t) t

/-- Steps that each change one lane. -/
theorem fold_lanes {α : Type} (g : Nat) (lane : α → Nat) (f : α → Thread → Thread) (step : Wg → α → Wg)
    (hs : ∀ w e, LaneMap w (step w e) (at1 (32 * g + lane e) (f e))) (es : List α) (w : Wg) :
    LaneMap w (es.foldl step w) (atAll g (es.map fun e => (lane e, f e))) := by
  induction es generalizing w with
  | nil => exact (LaneMap.refl w).congr fun _ _ _ => rfl
  | cons e r ih => exact ((hs w e).trans (ih _)).congr fun _ _ _ => rfl

theorem atAll_out (g : Nat) (es : List (Nat × (Thread → Thread))) (k : Nat) (t : Thread)
    (h : ∀ e ∈ es, k ≠ 32 * g + e.1) : atAll g es k t = t := by
  induction es generalizing t with
  | nil => rfl
  | cons e r ih =>
    have h1 := h e List.mem_cons_self
    have := ih (at1 (32 * g + e.1) e.2 k t) fun x hx => h x (List.mem_cons_of_mem _ hx)
    simpa [atAll, at1, h1] using this

theorem atAll_in (g : Nat) (es : List (Nat × (Thread → Thread))) (nd : (es.map (·.1)).Nodup) (l : Nat)
    (f : Thread → Thread) (h : (l, f) ∈ es) (t : Thread) : atAll g es (32 * g + l) t = f t := by
  induction es generalizing t with
  | nil => cases h
  | cons e r ih =>
    obtain ⟨hn, nd⟩ := List.nodup_cons.1 nd
    rcases List.mem_cons.1 h with rfl | hr
    · have := atAll_out g r (32 * g + l) (f t) fun x hx e' => hn (by
        have : l = x.1 := by omega
        exact List.mem_map.2 ⟨x, hx, this.symm⟩)
      simpa [atAll, at1] using this
    · have hne : l ≠ e.1 := fun e' => hn (List.mem_map.2 ⟨_, hr, e'⟩)
      have := ih nd hr t
      simpa [atAll, at1, hne] using this

/-! ### Paths -/

theorem mem_lanesOf (m : LaneMask) (l : Nat) : l ∈ lanesOf m ↔ l < 32 ∧ m.getLsbD l = true := by
  simp [lanesOf, List.mem_filter]

theorem nodup_lanesOf (m : LaneMask) : (lanesOf m).Nodup := List.Pairwise.filter _ List.nodup_range

/-- The lanes of a lane path. -/
theorem lanes_path (p : Path) (h : p.ctl = false) : p.lanes = lanesOf p.mask := by simp [Path.lanes, h]

theorem thread_path (p : Path) (h : p.ctl = false) (l : Nat) : p.thread l = p.w.lane? p.grp l := by
  simp [Path.thread, h]

theorem mem_active (p : Path) (g : Guard) (l : Nat) (t : Thread) :
    (l, t) ∈ p.active g ↔ l ∈ p.lanes ∧ p.thread l = some t ∧ t.guard g = true := by
  simp only [Path.active, List.mem_filterMap]
  constructor
  · rintro ⟨a, ha, e⟩
    split at e
    · next t' ht =>
      split at e
      · next hg => cases e; exact ⟨ha, ht, hg⟩
      · cases e
    · cases e
  · rintro ⟨hl, ht, hg⟩
    exact ⟨l, hl, by simp [ht, hg]⟩

theorem nodup_active (p : Path) (g : Guard) (h : p.ctl = false) : ((p.active g).map (·.1)).Nodup := by
  have : ((p.active g).map (·.1)).Sublist p.lanes := by
    simp only [Path.active]
    induction p.lanes with
    | nil => simp
    | cons a r ih =>
      simp only [List.filterMap_cons]
      split
      · exact ih.cons _
      · next b hb =>
        have : b.1 = a := by
          split at hb
          · split at hb
            · cases hb; rfl
            · cases hb
          · cases hb
        simp only [List.map_cons, this]
        exact ih.cons_cons _
  exact List.Nodup.sublist this (lanes_path p h ▸ nodup_lanesOf p.mask)

/-- The active part of a control thread. -/
theorem active_ctl (p : Path) (g : Guard) (h : p.ctl = true) :
    p.active g = if p.w.ctl.guard g then [(0, p.w.ctl)] else [] := by
  simp only [Path.active, Path.lanes, Path.thread, h]
  cases hg : p.w.ctl.guard g <;> simp [hg]

/-- Every lane of a path, or its control thread, goes on by n bytes. -/
theorem advance_map (p : Path) (h : p.ctl = false) (w : Wg) (n : Nat) :
    LaneMap w (p.advance w n) (atAll p.grp (p.lanes.map fun l => (l, fun t => Ahead t n))) := by
  simp only [Path.advance, h]
  exact fold_lanes p.grp id (fun _ t => Ahead t n) _ (fun w l => modLane_map ..) _ _

theorem advance_ctl (p : Path) (h : p.ctl = true) (w : Wg) (n : Nat) :
    p.advance w n = { w with ctl := Ahead w.ctl n } := by
  simp [Path.advance, h, Ahead]

/-- Writes of the lanes of a path. -/
theorem apply_map (p : Path) (h : p.ctl = false) (w : Wg) (ws : List (Nat × List RegWrite))
    (hs : ∀ e ∈ ws, ∀ n x, RegWrite.s n x ∉ e.2) :
    LaneMap w (p.apply w ws) (atAll p.grp (ws.map fun e => (e.1, fun t => put t e.2))) := by
  simp only [Path.apply, h]
  induction ws generalizing w with
  | nil => exact (LaneMap.refl w).congr fun _ _ _ => rfl
  | cons e r ih =>
    refine ((writes_lane w p.grp e.1 e.2 (hs e List.mem_cons_self)).trans
      (ih _ fun x hx => hs x (List.mem_cons_of_mem _ hx))).congr fun _ _ _ => rfl

/-- From a change of lanes to the words of the statements. -/
theorem lanesBecome_of_map {p : Path} {s : State} {w : Wg} {f : Nat → Thread → Thread} (go : Nat → Thread → Thread)
    (m : LaneMap p.w w f)
    (hin : ∀ l t, l < 32 → p.mask.getLsbD l = true → p.w.lane? p.grp l = some t → f (32 * p.grp + l) t = go l t)
    (hout : ∀ k t, (∀ l, l < 32 → p.mask.getLsbD l = true → k ≠ 32 * p.grp + l) → f k t = t) :
    LanesBecome p s (s.setWg w) go := by
  obtain ⟨ls, rfl, hm⟩ := m
  refine ⟨ls, rfl, fun l hl hb => ?_, fun k hk => ?_⟩
  · rw [hm]
    simp only [Wg.lane?] at hin ⊢
    cases ht : tabGet p.w.lanes (32 * p.grp + l) with
    | none => rfl
    | some t => simp [hin l t hl hb ht]
  · rw [hm]
    cases ht : tabGet p.w.lanes k with
    | none => rfl
    | some t => simp [hout k t hk]

theorem atAll_lanes (p : Path) (h : p.ctl = false) (f : Nat → Thread → Thread) (l : Nat) (t : Thread)
    (hl : l < 32) (hb : p.mask.getLsbD l = true) :
    atAll p.grp (p.lanes.map fun l => (l, f l)) (32 * p.grp + l) t = f l t := by
  apply atAll_in
  · simpa [List.map_map, Function.comp_def, lanes_path p h] using nodup_lanesOf p.mask
  · exact List.mem_map.2 ⟨l, by rw [lanes_path p h, mem_lanesOf]; exact ⟨hl, hb⟩, rfl⟩

theorem atAll_active (p : Path) (h : p.ctl = false) (g : Guard) (f : Nat × Thread → Thread → Thread) (l : Nat)
    (t : Thread) (hl : l < 32) (hb : p.mask.getLsbD l = true) (ht : p.w.lane? p.grp l = some t) (u : Thread) :
    atAll p.grp ((p.active g).map fun e => (e.1, f e)) (32 * p.grp + l) u
      = if t.guard g then f (l, t) u else u := by
  cases hg : t.guard g with
  | true =>
    simp only [if_true]
    apply atAll_in
    · simpa [List.map_map, Function.comp_def] using nodup_active p g h
    · exact List.mem_map.2 ⟨(l, t), (mem_active p g l t).2
        ⟨by rw [lanes_path p h, mem_lanesOf]; exact ⟨hl, hb⟩, by rw [thread_path p h, ht], hg⟩, rfl⟩
  | false =>
    simp only [Bool.false_eq_true, if_false]
    apply atAll_out
    intro e he e'
    obtain ⟨x, hx, rfl⟩ := List.mem_map.1 he
    obtain ⟨h1, h2, h3⟩ := (mem_active p g x.1 x.2).1 hx
    have : l = x.1 := by simpa using e'
    subst this
    rw [thread_path p h, ht] at h2
    cases h2
    simp [hg] at h3

theorem atAll_active_out (p : Path) (h : p.ctl = false) (g : Guard) (f : Nat × Thread → Thread → Thread) (k : Nat)
    (u : Thread) (hk : ∀ l, l < 32 → p.mask.getLsbD l = true → k ≠ 32 * p.grp + l) :
    atAll p.grp ((p.active g).map fun e => (e.1, f e)) k u = u := by
  apply atAll_out
  intro e he
  obtain ⟨x, hx, rfl⟩ := List.mem_map.1 he
  obtain ⟨h1, -, -⟩ := (mem_active p g x.1 x.2).1 hx
  rw [lanes_path p h, mem_lanesOf] at h1
  exact hk _ h1.1 h1.2

theorem atAll_lanes_out (p : Path) (h : p.ctl = false) (f : Nat → Thread → Thread) (k : Nat) (u : Thread)
    (hk : ∀ l, l < 32 → p.mask.getLsbD l = true → k ≠ 32 * p.grp + l) :
    atAll p.grp (p.lanes.map fun l => (l, f l)) k u = u := by
  apply atAll_out
  intro e he
  obtain ⟨x, hx, rfl⟩ := List.mem_map.1 he
  rw [lanes_path p h, mem_lanesOf] at hx
  exact hk _ hx.1 hx.2

/-- What ends an instruction that is complete when it has issued. -/
theorem retire_effect (p : Path) (s : State) (g : Guard) (n : Nat) (ws : Nat → Thread → List RegWrite)
    (hs : p.ctl = false → ∀ l t n x, RegWrite.s n x ∉ ws l t) :
    Effect p s (p.retire s n ((p.active g).map fun e => (e.1, ws e.1 e.2))) g n ws := by
  cases h : p.ctl with
  | true =>
    simp only [Effect, h, if_true, Path.retire, active_ctl p g h, advance_ctl p h, CtlBecomes, Path.apply]
    cases hg : p.w.ctl.guard g with
    | true =>
      obtain ⟨lg, q, e⟩ := writes_ctl p.w p.grp 0 (ws 0 p.w.ctl)
      exact ⟨lg, q, by simp [e]⟩
    | false => exact ⟨p.w.sLog, p.w.sSeq, by simp⟩
  | false =>
    simp only [Effect, h, Bool.false_eq_true, if_false, Path.retire]
    have m := (apply_map p h p.w ((p.active g).map fun e => (e.1, ws e.1 e.2)) (by
      intro e he
      obtain ⟨x, -, rfl⟩ := List.mem_map.1 he
      exact hs h x.1 x.2)).trans (advance_map p h _ n)
    refine lanesBecome_of_map _ m ?_ ?_
    · intro l t hl hb ht
      simp only [List.map_map, Function.comp_def]
      rw [atAll_active p h g (fun e t => put t (ws e.1 e.2)) l t hl hb ht t,
        atAll_lanes p h (fun _ t => Ahead t n) l _ hl hb]
    · intro k t hk
      simp only [List.map_map, Function.comp_def]
      rw [atAll_active_out p h g (fun e t => put t (ws e.1 e.2)) k t hk,
        atAll_lanes_out p h (fun _ t => Ahead t n) k _ hk]

/-- An instruction that only computes completes with that effect. -/
theorem compute_effect {s s' : State} {p : Path} (h : s.path? = some (p, s')) (g : Guard) (n : Nat)
    (op : Path → Thread → List RegWrite) (hs : p.ctl = false → ∀ t n x, RegWrite.s n x ∉ op p t) :
    ∃ t, compute s g n op = .next t ∧ Effect p s' t g n fun _ th => op p th := by
  refine ⟨_, by simp only [compute, h], retire_effect p s' g n (fun _ th => op p th) fun hc _ => hs hc⟩

theorem wr_no_s (p : Path) (h : p.ctl = false) (d : BitVec 6) (ty : Ty) (x : Int) (n : Nat) (y : Word) :
    RegWrite.s n y ∉ p.wr d ty x := by
  simp only [Path.wr, h, Bool.false_eq_true, if_false]
  split <;> simp

end Sys2Proof.Laws
end

