-- ==== Sys2Proof/Laws/Cells.lean ====
section
/-! SUPPORT. Sparse arrays in canonical form: every write keeps the form, a read after a write to the same index gives what was
written, a write leaves every other index alone, and equal contents are equal data. Tables: what deleting a record leaves. -/

namespace Sys2Proof.Laws
open Machine

variable {w : Nat}

/-! ### The canonical form -/

theorem wfFrom_mono {c : Cells w} : ∀ {n m : Nat}, m ≤ n → cellsWfFrom n c = true → cellsWfFrom m c = true := by
  cases c with
  | nil => intros; rfl
  | cons e r =>
    obtain ⟨k, v⟩ := e
    intro n m h hc
    simp only [cellsWfFrom, Bool.and_eq_true, decide_eq_true_eq] at hc ⊢
    exact ⟨⟨by omega, hc.1.2⟩, hc.2⟩

theorem wfFrom_cons {n k : Nat} {v : BitVec w} {r : Cells w} :
    cellsWfFrom n ((k, v) :: r) = true ↔ n ≤ k ∧ v ≠ blank w ∧ cellsWfFrom (k + 1) r = true := by
  simp [cellsWfFrom, and_assoc]

/-- Below the start of a canonical list every index is blank. -/
theorem cellGet_below {c : Cells w} : ∀ {n a : Nat}, cellsWfFrom n c = true → a < n → cellGet c a = blank w := by
  induction c with
  | nil => intros; rfl
  | cons e r ih =>
    obtain ⟨k, v⟩ := e
    intro n a h ha
    have h := wfFrom_cons.1 h
    simp only [cellGet]
    rw [if_neg (by omega)]
    exact ih h.2.2 (by omega)

theorem cellSet_wfFrom {c : Cells w} : ∀ {n a : Nat} {v : BitVec w}, n ≤ a → cellsWfFrom n c = true →
    cellsWfFrom n (cellSet c a v) = true := by
  induction c with
  | nil =>
    intro n a v ha _
    simp only [cellSet]
    split
    · rfl
    · exact wfFrom_cons.2 ⟨ha, ‹_›, rfl⟩
  | cons e r ih =>
    obtain ⟨k, x⟩ := e
    intro n a v ha h
    have h' := wfFrom_cons.1 h
    simp only [cellSet]
    split
    · split
      · exact h
      · exact wfFrom_cons.2 ⟨ha, ‹_›, wfFrom_cons.2 ⟨by omega, h'.2⟩⟩
    · split
      · next hk =>
        subst hk
        split
        · exact wfFrom_mono (by omega) h'.2.2
        · exact wfFrom_cons.2 ⟨ha, ‹_›, h'.2.2⟩
      · exact wfFrom_cons.2 ⟨h'.1, h'.2.1, ih (by omega) h'.2.2⟩

/-- A write keeps the canonical form. -/
theorem cellSet_wf {c : Cells w} (a : Nat) (v : BitVec w) (h : cellsWf c = true) : cellsWf (cellSet c a v) = true :=
  cellSet_wfFrom (Nat.zero_le a) h

theorem cellGet_cellSet_from {c : Cells w} : ∀ {n a b : Nat} {v : BitVec w}, cellsWfFrom n c = true →
    cellGet (cellSet c a v) b = if b = a then v else cellGet c b := by
  induction c with
  | nil =>
    intro n a b v _
    simp only [cellSet]
    split
    · next hv => rw [hv]; simp [cellGet]
    · simp only [cellGet, eq_comm]
  | cons e r ih =>
    obtain ⟨k, x⟩ := e
    intro n a b v h
    have h' := wfFrom_cons.1 h
    simp only [cellSet]
    split
    · next hak =>
      split
      · next hv =>
        by_cases hb : b = a
        · subst hb
          rw [if_pos rfl, hv]
          simp only [cellGet]
          rw [if_neg (by omega)]
          exact cellGet_below h'.2.2 (by omega)
        · rw [if_neg hb]
      · by_cases hb : b = a
        · subst hb; simp [cellGet]
        · rw [if_neg hb]
          simp only [cellGet]
          rw [if_neg (Ne.symm hb)]
    · split
      · next hak =>
        subst hak
        split
        · next hv =>
          by_cases hb : b = a
          · subst hb; rw [if_pos rfl, hv]; exact cellGet_below h'.2.2 (by omega)
          · simp only [cellGet]; rw [if_neg hb, if_neg (Ne.symm hb)]
        · by_cases hb : b = a
          · subst hb; simp [cellGet]
          · simp [cellGet, hb, Ne.symm hb]
      · next h1 h2 =>
        simp only [cellGet]
        rw [ih (b := b) h'.2.2]
        by_cases hb : b = a
        · rw [if_pos hb, if_pos hb, if_neg (by omega)]
        · rw [if_neg hb, if_neg hb]

/-- A read after a write gives what was written there, and elsewhere what stood there. -/
theorem cellGet_cellSet {c : Cells w} (h : cellsWf c = true) (a b : Nat) (v : BitVec w) :
    cellGet (cellSet c a v) b = if b = a then v else cellGet c b := cellGet_cellSet_from h

theorem filter_wfFrom (f : Nat × BitVec w → Bool) {c : Cells w} : ∀ {n : Nat}, cellsWfFrom n c = true →
    cellsWfFrom n (c.filter f) = true := by
  induction c with
  | nil => intros; rfl
  | cons e r ih =>
    obtain ⟨k, v⟩ := e
    intro n h
    have h' := wfFrom_cons.1 h
    rw [List.filter_cons]
    split
    · exact wfFrom_cons.2 ⟨h'.1, h'.2.1, ih h'.2.2⟩
    · exact wfFrom_mono (by omega) (ih h'.2.2)

/-- Dropping entries keeps the canonical form. -/
theorem filter_wf (f : Nat × BitVec w → Bool) {c : Cells w} (h : cellsWf c = true) : cellsWf (c.filter f) = true :=
  filter_wfFrom f h

theorem cellClear_wf {c : Cells w} (lo hi : Nat) (h : cellsWf c = true) : cellsWf (cellClear c lo hi) = true := filter_wf _ h

/-- Entries dropped by their index read blank, the others as before, in any list. -/
theorem cellGet_filter (f : Nat → Bool) (c : Cells w) (a : Nat) :
    cellGet (c.filter fun e => f e.1) a = if f a then cellGet c a else blank w := by
  induction c with
  | nil => simp [cellGet]
  | cons e r ih =>
    obtain ⟨k, v⟩ := e
    rw [List.filter_cons]
    by_cases hk : f k
    · rw [if_pos hk]
      simp only [cellGet, ih]
      by_cases h : k = a
      · subst h; simp [hk]
      · simp [h]
    · rw [if_neg hk, ih]
      simp only [cellGet]
      by_cases h : k = a
      · subst h; simp [hk]
      · simp [h]

theorem cellGet_cellClear (c : Cells w) (lo hi a : Nat) :
    cellGet (cellClear c lo hi) a = if lo ≤ a ∧ a < hi then blank w else cellGet c a := by
  rw [cellClear, cellGet_filter (fun k => !(decide (lo ≤ k) && decide (k < hi)))]
  by_cases h1 : lo ≤ a <;> by_cases h2 : a < hi <;> simp [h1, h2]

/-- Canonical arrays with the same words are the same list. -/
theorem wfFrom_ext {c d : Cells w} : ∀ {n : Nat}, cellsWfFrom n c = true → cellsWfFrom n d = true →
    (∀ a, cellGet c a = cellGet d a) → c = d := by
  induction c generalizing d with
  | nil =>
    intro n _ hd h
    cases d with
    | nil => rfl
    | cons e r =>
      obtain ⟨k, v⟩ := e
      have := h k
      simp only [cellGet, if_pos] at this
      exact absurd this.symm (wfFrom_cons.1 hd).2.1
  | cons e r ih =>
    obtain ⟨k, v⟩ := e
    intro n hc hd h
    have hc' := wfFrom_cons.1 hc
    cases d with
    | nil =>
      have := h k
      simp only [cellGet, if_pos] at this
      exact absurd this hc'.2.1
    | cons e' r' =>
      obtain ⟨k', v'⟩ := e'
      have hd' := wfFrom_cons.1 hd
      have hk : k = k' := by
        rcases Nat.lt_trichotomy k k' with hlt | heq | hgt
        · have := h k
          simp only [cellGet, if_pos] at this
          rw [if_neg (by omega), cellGet_below hd'.2.2 (by omega)] at this
          exact absurd this hc'.2.1
        · exact heq
        · have := h k'
          simp only [cellGet, if_pos] at this
          rw [if_neg (by omega), cellGet_below hc'.2.2 (by omega)] at this
          exact absurd this.symm hd'.2.1
      subst hk
      have hv : v = v' := by simpa [cellGet] using h k
      subst hv
      refine congrArg _ (ih hc'.2.2 hd'.2.2 fun a => ?_)
      by_cases ha : a = k
      · subst ha; rw [cellGet_below hc'.2.2 (by omega), cellGet_below hd'.2.2 (by omega)]
      · have := h a
        simpa [cellGet, Ne.symm ha] using this

/-- Equal memories, or register files, are equal data. -/
theorem cells_ext {c d : Cells w} (hc : cellsWf c = true) (hd : cellsWf d = true) (h : ∀ a, cellGet c a = cellGet d a) : c = d :=
  wfFrom_ext hc hd h

/-! ### Tables -/

theorem tabGet_filter {α : Type} (f : Nat → Bool) (t : Tab α) (a : Nat) :
    tabGet (t.filter fun e => f e.1) a = if f a then tabGet t a else none := by
  induction t with
  | nil => simp [tabGet]
  | cons e r ih =>
    obtain ⟨k, v⟩ := e
    rw [List.filter_cons]
    by_cases hk : f k
    · rw [if_pos hk]
      simp only [tabGet, ih]
      by_cases h : k = a
      · subst h; simp [hk]
      · simp [h]
    · rw [if_neg hk, ih]
      simp only [tabGet]
      by_cases h : k = a
      · subst h; simp [hk]
      · simp [h]

theorem tabGet_tabDel {α : Type} (t : Tab α) (a b : Nat) : tabGet (tabDel t a) b = if b = a then none else tabGet t b := by
  rw [tabDel, tabGet_filter (fun k => k != a)]
  by_cases h : b = a <;> simp [h]

theorem tabGet_map {α β : Type} (f : Nat → α → β) (t : Tab α) (a : Nat) :
    tabGet (t.map fun e => (e.1, f e.1 e.2)) a = (tabGet t a).map (f a) := by
  induction t with
  | nil => rfl
  | cons e r ih =>
    obtain ⟨k, v⟩ := e
    simp only [List.map_cons, tabGet, ih]
    by_cases h : k = a
    · subst h; simp
    · simp [h]

end Sys2Proof.Laws
end

