-- ==== Sys2Proof/Laws/State.lean ====
section
/-! SUPPORT. What each named update of a state, or of a workgroup, leaves of every field: one equation a field. Proofs rewrite with
these and unfold no record update. -/

namespace Sys2Proof.Machine

/-! ### States -/

@[simp] theorem State.setCore_mem (s : State) (n : Nat) (c : Core) : (s.setCore n c).mem = s.mem := rfl
@[simp] theorem State.setCore_wgs (s : State) (n : Nat) (c : Core) : (s.setCore n c).wgs = s.wgs := rfl
@[simp] theorem State.setCore_clusters (s : State) (n : Nat) (c : Core) : (s.setCore n c).clusters = s.clusters := rfl
@[simp] theorem State.setCore_parts (s : State) (n : Nat) (c : Core) : (s.setCore n c).parts = s.parts := rfl
@[simp] theorem State.setCore_domains (s : State) (n : Nat) (c : Core) : (s.setCore n c).domains = s.domains := rfl
@[simp] theorem State.setCore_engines (s : State) (n : Nat) (c : Core) : (s.setCore n c).engines = s.engines := rfl
@[simp] theorem State.setCore_frecs (s : State) (n : Nat) (c : Core) : (s.setCore n c).frecs = s.frecs := rfl
@[simp] theorem State.setCore_fabric (s : State) (n : Nat) (c : Core) : (s.setCore n c).fabric = s.fabric := rfl
@[simp] theorem State.setCore_dev (s : State) (n : Nat) (c : Core) : (s.setCore n c).dev = s.dev := rfl
@[simp] theorem State.setCore_frames (s : State) (n : Nat) (c : Core) : (s.setCore n c).frames = s.frames := rfl
@[simp] theorem State.setCore_replicas (s : State) (n : Nat) (c : Core) : (s.setCore n c).replicas = s.replicas := rfl
@[simp] theorem State.setCore_collapses (s : State) (n : Nat) (c : Core) : (s.setCore n c).collapses = s.collapses := rfl
@[simp] theorem State.setCore_cycle (s : State) (n : Nat) (c : Core) : (s.setCore n c).cycle = s.cycle := rfl
@[simp] theorem State.setCore_ns (s : State) (n : Nat) (c : Core) : (s.setCore n c).ns = s.ns := rfl
@[simp] theorem State.setCore_tags (s : State) (n : Nat) (c : Core) : (s.setCore n c).tags = s.tags := rfl
@[simp] theorem State.setCore_cur (s : State) (n : Nat) (c : Core) : (s.setCore n c).cur = s.cur := rfl
@[simp] theorem State.setCore_nxt (s : State) (n : Nat) (c : Core) : (s.setCore n c).nxt = s.nxt := rfl
@[simp] theorem State.setCore_pairs (s : State) (n : Nat) (c : Core) : (s.setCore n c).pairs = s.pairs := rfl
@[simp] theorem State.setCore_agenda (s : State) (n : Nat) (c : Core) : (s.setCore n c).agenda = s.agenda := rfl
@[simp] theorem State.setCore_choice (s : State) (n : Nat) (c : Core) : (s.setCore n c).choice = s.choice := rfl
@[simp] theorem State.setCore_fresh (s : State) (n : Nat) (c : Core) : (s.setCore n c).fresh = s.fresh := rfl
theorem State.setCore_cores (s : State) (n : Nat) (c : Core) : (s.setCore n c).cores = tabSet s.cores n c := rfl

@[simp] theorem State.setCluster_mem (s : State) (n : Nat) (c : Cluster) : (s.setCluster n c).mem = s.mem := rfl
@[simp] theorem State.setCluster_wgs (s : State) (n : Nat) (c : Cluster) : (s.setCluster n c).wgs = s.wgs := rfl
@[simp] theorem State.setCluster_cores (s : State) (n : Nat) (c : Cluster) : (s.setCluster n c).cores = s.cores := rfl
@[simp] theorem State.setCluster_parts (s : State) (n : Nat) (c : Cluster) : (s.setCluster n c).parts = s.parts := rfl
@[simp] theorem State.setCluster_domains (s : State) (n : Nat) (c : Cluster) : (s.setCluster n c).domains = s.domains := rfl
@[simp] theorem State.setCluster_engines (s : State) (n : Nat) (c : Cluster) : (s.setCluster n c).engines = s.engines := rfl
@[simp] theorem State.setCluster_frecs (s : State) (n : Nat) (c : Cluster) : (s.setCluster n c).frecs = s.frecs := rfl
@[simp] theorem State.setCluster_fabric (s : State) (n : Nat) (c : Cluster) : (s.setCluster n c).fabric = s.fabric := rfl
@[simp] theorem State.setCluster_dev (s : State) (n : Nat) (c : Cluster) : (s.setCluster n c).dev = s.dev := rfl
@[simp] theorem State.setCluster_frames (s : State) (n : Nat) (c : Cluster) : (s.setCluster n c).frames = s.frames := rfl
@[simp] theorem State.setCluster_replicas (s : State) (n : Nat) (c : Cluster) : (s.setCluster n c).replicas = s.replicas := rfl
@[simp] theorem State.setCluster_collapses (s : State) (n : Nat) (c : Cluster) : (s.setCluster n c).collapses = s.collapses := rfl
@[simp] theorem State.setCluster_cycle (s : State) (n : Nat) (c : Cluster) : (s.setCluster n c).cycle = s.cycle := rfl
@[simp] theorem State.setCluster_ns (s : State) (n : Nat) (c : Cluster) : (s.setCluster n c).ns = s.ns := rfl
@[simp] theorem State.setCluster_tags (s : State) (n : Nat) (c : Cluster) : (s.setCluster n c).tags = s.tags := rfl
@[simp] theorem State.setCluster_cur (s : State) (n : Nat) (c : Cluster) : (s.setCluster n c).cur = s.cur := rfl
@[simp] theorem State.setCluster_nxt (s : State) (n : Nat) (c : Cluster) : (s.setCluster n c).nxt = s.nxt := rfl
@[simp] theorem State.setCluster_pairs (s : State) (n : Nat) (c : Cluster) : (s.setCluster n c).pairs = s.pairs := rfl
@[simp] theorem State.setCluster_agenda (s : State) (n : Nat) (c : Cluster) : (s.setCluster n c).agenda = s.agenda := rfl
@[simp] theorem State.setCluster_choice (s : State) (n : Nat) (c : Cluster) : (s.setCluster n c).choice = s.choice := rfl
@[simp] theorem State.setCluster_fresh (s : State) (n : Nat) (c : Cluster) : (s.setCluster n c).fresh = s.fresh := rfl
theorem State.setCluster_clusters (s : State) (n : Nat) (c : Cluster) : (s.setCluster n c).clusters = tabSet s.clusters n c := rfl

@[simp] theorem State.setWg_mem (s : State) (w : Wg) : (s.setWg w).mem = s.mem := rfl
@[simp] theorem State.setWg_cores (s : State) (w : Wg) : (s.setWg w).cores = s.cores := rfl
@[simp] theorem State.setWg_clusters (s : State) (w : Wg) : (s.setWg w).clusters = s.clusters := rfl
@[simp] theorem State.setWg_parts (s : State) (w : Wg) : (s.setWg w).parts = s.parts := rfl
@[simp] theorem State.setWg_domains (s : State) (w : Wg) : (s.setWg w).domains = s.domains := rfl
@[simp] theorem State.setWg_engines (s : State) (w : Wg) : (s.setWg w).engines = s.engines := rfl
@[simp] theorem State.setWg_frecs (s : State) (w : Wg) : (s.setWg w).frecs = s.frecs := rfl
@[simp] theorem State.setWg_fabric (s : State) (w : Wg) : (s.setWg w).fabric = s.fabric := rfl
@[simp] theorem State.setWg_dev (s : State) (w : Wg) : (s.setWg w).dev = s.dev := rfl
@[simp] theorem State.setWg_frames (s : State) (w : Wg) : (s.setWg w).frames = s.frames := rfl
@[simp] theorem State.setWg_replicas (s : State) (w : Wg) : (s.setWg w).replicas = s.replicas := rfl
@[simp] theorem State.setWg_collapses (s : State) (w : Wg) : (s.setWg w).collapses = s.collapses := rfl
@[simp] theorem State.setWg_cycle (s : State) (w : Wg) : (s.setWg w).cycle = s.cycle := rfl
@[simp] theorem State.setWg_ns (s : State) (w : Wg) : (s.setWg w).ns = s.ns := rfl
@[simp] theorem State.setWg_tags (s : State) (w : Wg) : (s.setWg w).tags = s.tags := rfl
@[simp] theorem State.setWg_cur (s : State) (w : Wg) : (s.setWg w).cur = s.cur := rfl
@[simp] theorem State.setWg_nxt (s : State) (w : Wg) : (s.setWg w).nxt = s.nxt := rfl
@[simp] theorem State.setWg_pairs (s : State) (w : Wg) : (s.setWg w).pairs = s.pairs := rfl
@[simp] theorem State.setWg_agenda (s : State) (w : Wg) : (s.setWg w).agenda = s.agenda := rfl
@[simp] theorem State.setWg_choice (s : State) (w : Wg) : (s.setWg w).choice = s.choice := rfl
@[simp] theorem State.setWg_fresh (s : State) (w : Wg) : (s.setWg w).fresh = s.fresh := rfl
theorem State.setWg_wgs (s : State) (w : Wg) : (s.setWg w).wgs = tabSet s.wgs (w.id.core * 8 + w.id.slot) w := rfl

@[simp] theorem State.delWg_mem (s : State) (c k : Nat) : (s.delWg c k).mem = s.mem := rfl
@[simp] theorem State.delWg_cores (s : State) (c k : Nat) : (s.delWg c k).cores = s.cores := rfl
@[simp] theorem State.delWg_clusters (s : State) (c k : Nat) : (s.delWg c k).clusters = s.clusters := rfl
@[simp] theorem State.delWg_parts (s : State) (c k : Nat) : (s.delWg c k).parts = s.parts := rfl
@[simp] theorem State.delWg_domains (s : State) (c k : Nat) : (s.delWg c k).domains = s.domains := rfl
@[simp] theorem State.delWg_engines (s : State) (c k : Nat) : (s.delWg c k).engines = s.engines := rfl
@[simp] theorem State.delWg_frecs (s : State) (c k : Nat) : (s.delWg c k).frecs = s.frecs := rfl
@[simp] theorem State.delWg_fabric (s : State) (c k : Nat) : (s.delWg c k).fabric = s.fabric := rfl
@[simp] theorem State.delWg_dev (s : State) (c k : Nat) : (s.delWg c k).dev = s.dev := rfl
@[simp] theorem State.delWg_frames (s : State) (c k : Nat) : (s.delWg c k).frames = s.frames := rfl
@[simp] theorem State.delWg_replicas (s : State) (c k : Nat) : (s.delWg c k).replicas = s.replicas := rfl
@[simp] theorem State.delWg_collapses (s : State) (c k : Nat) : (s.delWg c k).collapses = s.collapses := rfl
@[simp] theorem State.delWg_cycle (s : State) (c k : Nat) : (s.delWg c k).cycle = s.cycle := rfl
@[simp] theorem State.delWg_ns (s : State) (c k : Nat) : (s.delWg c k).ns = s.ns := rfl
@[simp] theorem State.delWg_tags (s : State) (c k : Nat) : (s.delWg c k).tags = s.tags := rfl
@[simp] theorem State.delWg_cur (s : State) (c k : Nat) : (s.delWg c k).cur = s.cur := rfl
@[simp] theorem State.delWg_nxt (s : State) (c k : Nat) : (s.delWg c k).nxt = s.nxt := rfl
@[simp] theorem State.delWg_pairs (s : State) (c k : Nat) : (s.delWg c k).pairs = s.pairs := rfl
@[simp] theorem State.delWg_agenda (s : State) (c k : Nat) : (s.delWg c k).agenda = s.agenda := rfl
@[simp] theorem State.delWg_choice (s : State) (c k : Nat) : (s.delWg c k).choice = s.choice := rfl
@[simp] theorem State.delWg_fresh (s : State) (c k : Nat) : (s.delWg c k).fresh = s.fresh := rfl
theorem State.delWg_wgs (s : State) (c k : Nat) : (s.delWg c k).wgs = tabDel s.wgs (c * 8 + k) := rfl

@[simp] theorem State.setPart_mem (s : State) (n : Nat) (p : Partition) : (s.setPart n p).mem = s.mem := rfl
@[simp] theorem State.setPart_wgs (s : State) (n : Nat) (p : Partition) : (s.setPart n p).wgs = s.wgs := rfl
@[simp] theorem State.setPart_cores (s : State) (n : Nat) (p : Partition) : (s.setPart n p).cores = s.cores := rfl
@[simp] theorem State.setPart_clusters (s : State) (n : Nat) (p : Partition) : (s.setPart n p).clusters = s.clusters := rfl
@[simp] theorem State.setPart_domains (s : State) (n : Nat) (p : Partition) : (s.setPart n p).domains = s.domains := rfl
@[simp] theorem State.setPart_engines (s : State) (n : Nat) (p : Partition) : (s.setPart n p).engines = s.engines := rfl
@[simp] theorem State.setPart_frecs (s : State) (n : Nat) (p : Partition) : (s.setPart n p).frecs = s.frecs := rfl
@[simp] theorem State.setPart_fabric (s : State) (n : Nat) (p : Partition) : (s.setPart n p).fabric = s.fabric := rfl
@[simp] theorem State.setPart_dev (s : State) (n : Nat) (p : Partition) : (s.setPart n p).dev = s.dev := rfl
@[simp] theorem State.setPart_frames (s : State) (n : Nat) (p : Partition) : (s.setPart n p).frames = s.frames := rfl
@[simp] theorem State.setPart_replicas (s : State) (n : Nat) (p : Partition) : (s.setPart n p).replicas = s.replicas := rfl
@[simp] theorem State.setPart_collapses (s : State) (n : Nat) (p : Partition) : (s.setPart n p).collapses = s.collapses := rfl
@[simp] theorem State.setPart_cycle (s : State) (n : Nat) (p : Partition) : (s.setPart n p).cycle = s.cycle := rfl
@[simp] theorem State.setPart_ns (s : State) (n : Nat) (p : Partition) : (s.setPart n p).ns = s.ns := rfl
@[simp] theorem State.setPart_tags (s : State) (n : Nat) (p : Partition) : (s.setPart n p).tags = s.tags := rfl
@[simp] theorem State.setPart_cur (s : State) (n : Nat) (p : Partition) : (s.setPart n p).cur = s.cur := rfl
@[simp] theorem State.setPart_nxt (s : State) (n : Nat) (p : Partition) : (s.setPart n p).nxt = s.nxt := rfl
@[simp] theorem State.setPart_pairs (s : State) (n : Nat) (p : Partition) : (s.setPart n p).pairs = s.pairs := rfl
@[simp] theorem State.setPart_agenda (s : State) (n : Nat) (p : Partition) : (s.setPart n p).agenda = s.agenda := rfl
@[simp] theorem State.setPart_choice (s : State) (n : Nat) (p : Partition) : (s.setPart n p).choice = s.choice := rfl
@[simp] theorem State.setPart_fresh (s : State) (n : Nat) (p : Partition) : (s.setPart n p).fresh = s.fresh := rfl
theorem State.setPart_parts (s : State) (n : Nat) (p : Partition) : (s.setPart n p).parts = tabSet s.parts n p := rfl

@[simp] theorem State.setFabGroup_mem (s : State) (g : Nat) (x : FabGroup) : (s.setFabGroup g x).mem = s.mem := rfl
@[simp] theorem State.setFabGroup_wgs (s : State) (g : Nat) (x : FabGroup) : (s.setFabGroup g x).wgs = s.wgs := rfl
@[simp] theorem State.setFabGroup_cores (s : State) (g : Nat) (x : FabGroup) : (s.setFabGroup g x).cores = s.cores := rfl
@[simp] theorem State.setFabGroup_clusters (s : State) (g : Nat) (x : FabGroup) : (s.setFabGroup g x).clusters = s.clusters := rfl
@[simp] theorem State.setFabGroup_parts (s : State) (g : Nat) (x : FabGroup) : (s.setFabGroup g x).parts = s.parts := rfl
@[simp] theorem State.setFabGroup_domains (s : State) (g : Nat) (x : FabGroup) : (s.setFabGroup g x).domains = s.domains := rfl
@[simp] theorem State.setFabGroup_engines (s : State) (g : Nat) (x : FabGroup) : (s.setFabGroup g x).engines = s.engines := rfl
@[simp] theorem State.setFabGroup_frecs (s : State) (g : Nat) (x : FabGroup) : (s.setFabGroup g x).frecs = s.frecs := rfl
@[simp] theorem State.setFabGroup_dev (s : State) (g : Nat) (x : FabGroup) : (s.setFabGroup g x).dev = s.dev := rfl
@[simp] theorem State.setFabGroup_frames (s : State) (g : Nat) (x : FabGroup) : (s.setFabGroup g x).frames = s.frames := rfl
@[simp] theorem State.setFabGroup_replicas (s : State) (g : Nat) (x : FabGroup) : (s.setFabGroup g x).replicas = s.replicas := rfl
@[simp] theorem State.setFabGroup_collapses (s : State) (g : Nat) (x : FabGroup) : (s.setFabGroup g x).collapses = s.collapses := rfl
@[simp] theorem State.setFabGroup_cycle (s : State) (g : Nat) (x : FabGroup) : (s.setFabGroup g x).cycle = s.cycle := rfl
@[simp] theorem State.setFabGroup_ns (s : State) (g : Nat) (x : FabGroup) : (s.setFabGroup g x).ns = s.ns := rfl
@[simp] theorem State.setFabGroup_tags (s : State) (g : Nat) (x : FabGroup) : (s.setFabGroup g x).tags = s.tags := rfl
@[simp] theorem State.setFabGroup_cur (s : State) (g : Nat) (x : FabGroup) : (s.setFabGroup g x).cur = s.cur := rfl
@[simp] theorem State.setFabGroup_nxt (s : State) (g : Nat) (x : FabGroup) : (s.setFabGroup g x).nxt = s.nxt := rfl
@[simp] theorem State.setFabGroup_pairs (s : State) (g : Nat) (x : FabGroup) : (s.setFabGroup g x).pairs = s.pairs := rfl
@[simp] theorem State.setFabGroup_agenda (s : State) (g : Nat) (x : FabGroup) : (s.setFabGroup g x).agenda = s.agenda := rfl
@[simp] theorem State.setFabGroup_choice (s : State) (g : Nat) (x : FabGroup) : (s.setFabGroup g x).choice = s.choice := rfl
@[simp] theorem State.setFabGroup_fresh (s : State) (g : Nat) (x : FabGroup) : (s.setFabGroup g x).fresh = s.fresh := rfl

@[simp] theorem State.setPhys_wgs (s : State) (a n x : Nat) : (s.setPhys a n x).wgs = s.wgs := rfl
@[simp] theorem State.setPhys_cores (s : State) (a n x : Nat) : (s.setPhys a n x).cores = s.cores := rfl
@[simp] theorem State.setPhys_clusters (s : State) (a n x : Nat) : (s.setPhys a n x).clusters = s.clusters := rfl
@[simp] theorem State.setPhys_parts (s : State) (a n x : Nat) : (s.setPhys a n x).parts = s.parts := rfl
@[simp] theorem State.setPhys_domains (s : State) (a n x : Nat) : (s.setPhys a n x).domains = s.domains := rfl
@[simp] theorem State.setPhys_engines (s : State) (a n x : Nat) : (s.setPhys a n x).engines = s.engines := rfl
@[simp] theorem State.setPhys_frecs (s : State) (a n x : Nat) : (s.setPhys a n x).frecs = s.frecs := rfl
@[simp] theorem State.setPhys_fabric (s : State) (a n x : Nat) : (s.setPhys a n x).fabric = s.fabric := rfl
@[simp] theorem State.setPhys_dev (s : State) (a n x : Nat) : (s.setPhys a n x).dev = s.dev := rfl
@[simp] theorem State.setPhys_frames (s : State) (a n x : Nat) : (s.setPhys a n x).frames = s.frames := rfl
@[simp] theorem State.setPhys_replicas (s : State) (a n x : Nat) : (s.setPhys a n x).replicas = s.replicas := rfl
@[simp] theorem State.setPhys_collapses (s : State) (a n x : Nat) : (s.setPhys a n x).collapses = s.collapses := rfl
@[simp] theorem State.setPhys_cycle (s : State) (a n x : Nat) : (s.setPhys a n x).cycle = s.cycle := rfl
@[simp] theorem State.setPhys_ns (s : State) (a n x : Nat) : (s.setPhys a n x).ns = s.ns := rfl
@[simp] theorem State.setPhys_tags (s : State) (a n x : Nat) : (s.setPhys a n x).tags = s.tags := rfl
@[simp] theorem State.setPhys_cur (s : State) (a n x : Nat) : (s.setPhys a n x).cur = s.cur := rfl
@[simp] theorem State.setPhys_nxt (s : State) (a n x : Nat) : (s.setPhys a n x).nxt = s.nxt := rfl
@[simp] theorem State.setPhys_pairs (s : State) (a n x : Nat) : (s.setPhys a n x).pairs = s.pairs := rfl
@[simp] theorem State.setPhys_agenda (s : State) (a n x : Nat) : (s.setPhys a n x).agenda = s.agenda := rfl
@[simp] theorem State.setPhys_choice (s : State) (a n x : Nat) : (s.setPhys a n x).choice = s.choice := rfl
@[simp] theorem State.setPhys_fresh (s : State) (a n x : Nat) : (s.setPhys a n x).fresh = s.fresh := rfl
theorem State.setPhys_mem (s : State) (a n x : Nat) : (s.setPhys a n x).mem = memWrite s.mem a (bytesOf n x) := rfl

@[simp] theorem State.zeroPhys_wgs (s : State) (a n : Nat) : (s.zeroPhys a n).wgs = s.wgs := rfl
@[simp] theorem State.zeroPhys_cores (s : State) (a n : Nat) : (s.zeroPhys a n).cores = s.cores := rfl
@[simp] theorem State.zeroPhys_clusters (s : State) (a n : Nat) : (s.zeroPhys a n).clusters = s.clusters := rfl
@[simp] theorem State.zeroPhys_parts (s : State) (a n : Nat) : (s.zeroPhys a n).parts = s.parts := rfl
@[simp] theorem State.zeroPhys_domains (s : State) (a n : Nat) : (s.zeroPhys a n).domains = s.domains := rfl
@[simp] theorem State.zeroPhys_engines (s : State) (a n : Nat) : (s.zeroPhys a n).engines = s.engines := rfl
@[simp] theorem State.zeroPhys_frecs (s : State) (a n : Nat) : (s.zeroPhys a n).frecs = s.frecs := rfl
@[simp] theorem State.zeroPhys_fabric (s : State) (a n : Nat) : (s.zeroPhys a n).fabric = s.fabric := rfl
@[simp] theorem State.zeroPhys_frames (s : State) (a n : Nat) : (s.zeroPhys a n).frames = s.frames := rfl
@[simp] theorem State.zeroPhys_replicas (s : State) (a n : Nat) : (s.zeroPhys a n).replicas = s.replicas := rfl
@[simp] theorem State.zeroPhys_collapses (s : State) (a n : Nat) : (s.zeroPhys a n).collapses = s.collapses := rfl
@[simp] theorem State.zeroPhys_cycle (s : State) (a n : Nat) : (s.zeroPhys a n).cycle = s.cycle := rfl
@[simp] theorem State.zeroPhys_ns (s : State) (a n : Nat) : (s.zeroPhys a n).ns = s.ns := rfl
@[simp] theorem State.zeroPhys_tags (s : State) (a n : Nat) : (s.zeroPhys a n).tags = s.tags := rfl
@[simp] theorem State.zeroPhys_cur (s : State) (a n : Nat) : (s.zeroPhys a n).cur = s.cur := rfl
@[simp] theorem State.zeroPhys_nxt (s : State) (a n : Nat) : (s.zeroPhys a n).nxt = s.nxt := rfl
@[simp] theorem State.zeroPhys_pairs (s : State) (a n : Nat) : (s.zeroPhys a n).pairs = s.pairs := rfl
@[simp] theorem State.zeroPhys_agenda (s : State) (a n : Nat) : (s.zeroPhys a n).agenda = s.agenda := rfl
@[simp] theorem State.zeroPhys_choice (s : State) (a n : Nat) : (s.zeroPhys a n).choice = s.choice := rfl
@[simp] theorem State.zeroPhys_fresh (s : State) (a n : Nat) : (s.zeroPhys a n).fresh = s.fresh := rfl
theorem State.zeroPhys_mem (s : State) (a n : Nat) : (s.zeroPhys a n).mem = cellClear (w := 8) s.mem a (a + n) := rfl

@[simp] theorem State.raisePf_mem (s : State) (v : Nat) : (s.raisePf v).mem = s.mem := rfl
@[simp] theorem State.raisePf_wgs (s : State) (v : Nat) : (s.raisePf v).wgs = s.wgs := rfl
@[simp] theorem State.raisePf_cores (s : State) (v : Nat) : (s.raisePf v).cores = s.cores := rfl
@[simp] theorem State.raisePf_clusters (s : State) (v : Nat) : (s.raisePf v).clusters = s.clusters := rfl
@[simp] theorem State.raisePf_parts (s : State) (v : Nat) : (s.raisePf v).parts = s.parts := rfl
@[simp] theorem State.raisePf_domains (s : State) (v : Nat) : (s.raisePf v).domains = s.domains := rfl
@[simp] theorem State.raisePf_engines (s : State) (v : Nat) : (s.raisePf v).engines = s.engines := rfl
@[simp] theorem State.raisePf_frecs (s : State) (v : Nat) : (s.raisePf v).frecs = s.frecs := rfl
@[simp] theorem State.raisePf_fabric (s : State) (v : Nat) : (s.raisePf v).fabric = s.fabric := rfl
@[simp] theorem State.raisePf_frames (s : State) (v : Nat) : (s.raisePf v).frames = s.frames := rfl
@[simp] theorem State.raisePf_replicas (s : State) (v : Nat) : (s.raisePf v).replicas = s.replicas := rfl
@[simp] theorem State.raisePf_collapses (s : State) (v : Nat) : (s.raisePf v).collapses = s.collapses := rfl
@[simp] theorem State.raisePf_cycle (s : State) (v : Nat) : (s.raisePf v).cycle = s.cycle := rfl
@[simp] theorem State.raisePf_ns (s : State) (v : Nat) : (s.raisePf v).ns = s.ns := rfl
@[simp] theorem State.raisePf_tags (s : State) (v : Nat) : (s.raisePf v).tags = s.tags := rfl
@[simp] theorem State.raisePf_cur (s : State) (v : Nat) : (s.raisePf v).cur = s.cur := rfl
@[simp] theorem State.raisePf_nxt (s : State) (v : Nat) : (s.raisePf v).nxt = s.nxt := rfl
@[simp] theorem State.raisePf_pairs (s : State) (v : Nat) : (s.raisePf v).pairs = s.pairs := rfl
@[simp] theorem State.raisePf_agenda (s : State) (v : Nat) : (s.raisePf v).agenda = s.agenda := rfl
@[simp] theorem State.raisePf_choice (s : State) (v : Nat) : (s.raisePf v).choice = s.choice := rfl
@[simp] theorem State.raisePf_fresh (s : State) (v : Nat) : (s.raisePf v).fresh = s.fresh := rfl

@[simp] theorem State.modCore_mem (s : State) (n : Nat) (f : Core → Core) : (s.modCore n f).mem = s.mem := rfl
@[simp] theorem State.modCore_wgs (s : State) (n : Nat) (f : Core → Core) : (s.modCore n f).wgs = s.wgs := rfl
@[simp] theorem State.modCore_clusters (s : State) (n : Nat) (f : Core → Core) : (s.modCore n f).clusters = s.clusters := rfl
@[simp] theorem State.modCore_parts (s : State) (n : Nat) (f : Core → Core) : (s.modCore n f).parts = s.parts := rfl
@[simp] theorem State.modCore_domains (s : State) (n : Nat) (f : Core → Core) : (s.modCore n f).domains = s.domains := rfl
@[simp] theorem State.modCore_engines (s : State) (n : Nat) (f : Core → Core) : (s.modCore n f).engines = s.engines := rfl
@[simp] theorem State.modCore_frecs (s : State) (n : Nat) (f : Core → Core) : (s.modCore n f).frecs = s.frecs := rfl
@[simp] theorem State.modCore_fabric (s : State) (n : Nat) (f : Core → Core) : (s.modCore n f).fabric = s.fabric := rfl
@[simp] theorem State.modCore_dev (s : State) (n : Nat) (f : Core → Core) : (s.modCore n f).dev = s.dev := rfl
@[simp] theorem State.modCore_frames (s : State) (n : Nat) (f : Core → Core) : (s.modCore n f).frames = s.frames := rfl
@[simp] theorem State.modCore_replicas (s : State) (n : Nat) (f : Core → Core) : (s.modCore n f).replicas = s.replicas := rfl
@[simp] theorem State.modCore_collapses (s : State) (n : Nat) (f : Core → Core) : (s.modCore n f).collapses = s.collapses := rfl
@[simp] theorem State.modCore_cycle (s : State) (n : Nat) (f : Core → Core) : (s.modCore n f).cycle = s.cycle := rfl
@[simp] theorem State.modCore_ns (s : State) (n : Nat) (f : Core → Core) : (s.modCore n f).ns = s.ns := rfl
@[simp] theorem State.modCore_tags (s : State) (n : Nat) (f : Core → Core) : (s.modCore n f).tags = s.tags := rfl
@[simp] theorem State.modCore_cur (s : State) (n : Nat) (f : Core → Core) : (s.modCore n f).cur = s.cur := rfl
@[simp] theorem State.modCore_nxt (s : State) (n : Nat) (f : Core → Core) : (s.modCore n f).nxt = s.nxt := rfl
@[simp] theorem State.modCore_pairs (s : State) (n : Nat) (f : Core → Core) : (s.modCore n f).pairs = s.pairs := rfl
@[simp] theorem State.modCore_agenda (s : State) (n : Nat) (f : Core → Core) : (s.modCore n f).agenda = s.agenda := rfl
@[simp] theorem State.modCore_choice (s : State) (n : Nat) (f : Core → Core) : (s.modCore n f).choice = s.choice := rfl
@[simp] theorem State.modCore_fresh (s : State) (n : Nat) (f : Core → Core) : (s.modCore n f).fresh = s.fresh := rfl

@[simp] theorem State.modPart_mem (s : State) (n : Nat) (f : Partition → Partition) : (s.modPart n f).mem = s.mem := by
  unfold State.modPart; (repeat' split) <;> rfl
@[simp] theorem State.modPart_wgs (s : State) (n : Nat) (f : Partition → Partition) : (s.modPart n f).wgs = s.wgs := by
  unfold State.modPart; (repeat' split) <;> rfl
@[simp] theorem State.modPart_cores (s : State) (n : Nat) (f : Partition → Partition) : (s.modPart n f).cores = s.cores := by
  unfold State.modPart; (repeat' split) <;> rfl
@[simp] theorem State.modPart_clusters (s : State) (n : Nat) (f : Partition → Partition) : (s.modPart n f).clusters = s.clusters := by
  unfold State.modPart; (repeat' split) <;> rfl
@[simp] theorem State.modPart_domains (s : State) (n : Nat) (f : Partition → Partition) : (s.modPart n f).domains = s.domains := by
  unfold State.modPart; (repeat' split) <;> rfl
@[simp] theorem State.modPart_engines (s : State) (n : Nat) (f : Partition → Partition) : (s.modPart n f).engines = s.engines := by
  unfold State.modPart; (repeat' split) <;> rfl
@[simp] theorem State.modPart_frecs (s : State) (n : Nat) (f : Partition → Partition) : (s.modPart n f).frecs = s.frecs := by
  unfold State.modPart; (repeat' split) <;> rfl
@[simp] theorem State.modPart_fabric (s : State) (n : Nat) (f : Partition → Partition) : (s.modPart n f).fabric = s.fabric := by
  unfold State.modPart; (repeat' split) <;> rfl
@[simp] theorem State.modPart_dev (s : State) (n : Nat) (f : Partition → Partition) : (s.modPart n f).dev = s.dev := by
  unfold State.modPart; (repeat' split) <;> rfl
@[simp] theorem State.modPart_frames (s : State) (n : Nat) (f : Partition → Partition) : (s.modPart n f).frames = s.frames := by
  unfold State.modPart; (repeat' split) <;> rfl
@[simp] theorem State.modPart_replicas (s : State) (n : Nat) (f : Partition → Partition) : (s.modPart n f).replicas = s.replicas := by
  unfold State.modPart; (repeat' split) <;> rfl
@[simp] theorem State.modPart_collapses (s : State) (n : Nat) (f : Partition → Partition) : (s.modPart n f).collapses = s.collapses := by
  unfold State.modPart; (repeat' split) <;> rfl
@[simp] theorem State.modPart_cycle (s : State) (n : Nat) (f : Partition → Partition) : (s.modPart n f).cycle = s.cycle := by
  unfold State.modPart; (repeat' split) <;> rfl
@[simp] theorem State.modPart_ns (s : State) (n : Nat) (f : Partition → Partition) : (s.modPart n f).ns = s.ns := by
  unfold State.modPart; (repeat' split) <;> rfl
@[simp] theorem State.modPart_tags (s : State) (n : Nat) (f : Partition → Partition) : (s.modPart n f).tags = s.tags := by
  unfold State.modPart; (repeat' split) <;> rfl
@[simp] theorem State.modPart_cur (s : State) (n : Nat) (f : Partition → Partition) : (s.modPart n f).cur = s.cur := by
  unfold State.modPart; (repeat' split) <;> rfl
@[simp] theorem State.modPart_nxt (s : State) (n : Nat) (f : Partition → Partition) : (s.modPart n f).nxt = s.nxt := by
  unfold State.modPart; (repeat' split) <;> rfl
@[simp] theorem State.modPart_pairs (s : State) (n : Nat) (f : Partition → Partition) : (s.modPart n f).pairs = s.pairs := by
  unfold State.modPart; (repeat' split) <;> rfl
@[simp] theorem State.modPart_agenda (s : State) (n : Nat) (f : Partition → Partition) : (s.modPart n f).agenda = s.agenda := by
  unfold State.modPart; (repeat' split) <;> rfl
@[simp] theorem State.modPart_choice (s : State) (n : Nat) (f : Partition → Partition) : (s.modPart n f).choice = s.choice := by
  unfold State.modPart; (repeat' split) <;> rfl
@[simp] theorem State.modPart_fresh (s : State) (n : Nat) (f : Partition → Partition) : (s.modPart n f).fresh = s.fresh := by
  unfold State.modPart; (repeat' split) <;> rfl

@[simp] theorem State.setCtx_mem (s : State) (p n : Nat) (c : Context) : (s.setCtx p n c).mem = s.mem := by
  unfold State.setCtx State.modPart; (repeat' split) <;> rfl
@[simp] theorem State.setCtx_wgs (s : State) (p n : Nat) (c : Context) : (s.setCtx p n c).wgs = s.wgs := by
  unfold State.setCtx State.modPart; (repeat' split) <;> rfl
@[simp] theorem State.setCtx_cores (s : State) (p n : Nat) (c : Context) : (s.setCtx p n c).cores = s.cores := by
  unfold State.setCtx State.modPart; (repeat' split) <;> rfl
@[simp] theorem State.setCtx_clusters (s : State) (p n : Nat) (c : Context) : (s.setCtx p n c).clusters = s.clusters := by
  unfold State.setCtx State.modPart; (repeat' split) <;> rfl
@[simp] theorem State.setCtx_domains (s : State) (p n : Nat) (c : Context) : (s.setCtx p n c).domains = s.domains := by
  unfold State.setCtx State.modPart; (repeat' split) <;> rfl
@[simp] theorem State.setCtx_engines (s : State) (p n : Nat) (c : Context) : (s.setCtx p n c).engines = s.engines := by
  unfold State.setCtx State.modPart; (repeat' split) <;> rfl
@[simp] theorem State.setCtx_frecs (s : State) (p n : Nat) (c : Context) : (s.setCtx p n c).frecs = s.frecs := by
  unfold State.setCtx State.modPart; (repeat' split) <;> rfl
@[simp] theorem State.setCtx_fabric (s : State) (p n : Nat) (c : Context) : (s.setCtx p n c).fabric = s.fabric := by
  unfold State.setCtx State.modPart; (repeat' split) <;> rfl
@[simp] theorem State.setCtx_dev (s : State) (p n : Nat) (c : Context) : (s.setCtx p n c).dev = s.dev := by
  unfold State.setCtx State.modPart; (repeat' split) <;> rfl
@[simp] theorem State.setCtx_frames (s : State) (p n : Nat) (c : Context) : (s.setCtx p n c).frames = s.frames := by
  unfold State.setCtx State.modPart; (repeat' split) <;> rfl
@[simp] theorem State.setCtx_replicas (s : State) (p n : Nat) (c : Context) : (s.setCtx p n c).replicas = s.replicas := by
  unfold State.setCtx State.modPart; (repeat' split) <;> rfl
@[simp] theorem State.setCtx_collapses (s : State) (p n : Nat) (c : Context) : (s.setCtx p n c).collapses = s.collapses := by
  unfold State.setCtx State.modPart; (repeat' split) <;> rfl
@[simp] theorem State.setCtx_cycle (s : State) (p n : Nat) (c : Context) : (s.setCtx p n c).cycle = s.cycle := by
  unfold State.setCtx State.modPart; (repeat' split) <;> rfl
@[simp] theorem State.setCtx_ns (s : State) (p n : Nat) (c : Context) : (s.setCtx p n c).ns = s.ns := by
  unfold State.setCtx State.modPart; (repeat' split) <;> rfl
@[simp] theorem State.setCtx_tags (s : State) (p n : Nat) (c : Context) : (s.setCtx p n c).tags = s.tags := by
  unfold State.setCtx State.modPart; (repeat' split) <;> rfl
@[simp] theorem State.setCtx_cur (s : State) (p n : Nat) (c : Context) : (s.setCtx p n c).cur = s.cur := by
  unfold State.setCtx State.modPart; (repeat' split) <;> rfl
@[simp] theorem State.setCtx_nxt (s : State) (p n : Nat) (c : Context) : (s.setCtx p n c).nxt = s.nxt := by
  unfold State.setCtx State.modPart; (repeat' split) <;> rfl
@[simp] theorem State.setCtx_pairs (s : State) (p n : Nat) (c : Context) : (s.setCtx p n c).pairs = s.pairs := by
  unfold State.setCtx State.modPart; (repeat' split) <;> rfl
@[simp] theorem State.setCtx_agenda (s : State) (p n : Nat) (c : Context) : (s.setCtx p n c).agenda = s.agenda := by
  unfold State.setCtx State.modPart; (repeat' split) <;> rfl
@[simp] theorem State.setCtx_choice (s : State) (p n : Nat) (c : Context) : (s.setCtx p n c).choice = s.choice := by
  unfold State.setCtx State.modPart; (repeat' split) <;> rfl
@[simp] theorem State.setCtx_fresh (s : State) (p n : Nat) (c : Context) : (s.setCtx p n c).fresh = s.fresh := by
  unfold State.setCtx State.modPart; (repeat' split) <;> rfl

@[simp] theorem State.modCtx_mem (s : State) (p n : Nat) (f : Context → Context) : (s.modCtx p n f).mem = s.mem := by
  unfold State.modCtx State.setCtx State.modPart; (repeat' split) <;> rfl
@[simp] theorem State.modCtx_wgs (s : State) (p n : Nat) (f : Context → Context) : (s.modCtx p n f).wgs = s.wgs := by
  unfold State.modCtx State.setCtx State.modPart; (repeat' split) <;> rfl
@[simp] theorem State.modCtx_cores (s : State) (p n : Nat) (f : Context → Context) : (s.modCtx p n f).cores = s.cores := by
  unfold State.modCtx State.setCtx State.modPart; (repeat' split) <;> rfl
@[simp] theorem State.modCtx_clusters (s : State) (p n : Nat) (f : Context → Context) : (s.modCtx p n f).clusters = s.clusters := by
  unfold State.modCtx State.setCtx State.modPart; (repeat' split) <;> rfl
@[simp] theorem State.modCtx_domains (s : State) (p n : Nat) (f : Context → Context) : (s.modCtx p n f).domains = s.domains := by
  unfold State.modCtx State.setCtx State.modPart; (repeat' split) <;> rfl
@[simp] theorem State.modCtx_engines (s : State) (p n : Nat) (f : Context → Context) : (s.modCtx p n f).engines = s.engines := by
  unfold State.modCtx State.setCtx State.modPart; (repeat' split) <;> rfl
@[simp] theorem State.modCtx_frecs (s : State) (p n : Nat) (f : Context → Context) : (s.modCtx p n f).frecs = s.frecs := by
  unfold State.modCtx State.setCtx State.modPart; (repeat' split) <;> rfl
@[simp] theorem State.modCtx_fabric (s : State) (p n : Nat) (f : Context → Context) : (s.modCtx p n f).fabric = s.fabric := by
  unfold State.modCtx State.setCtx State.modPart; (repeat' split) <;> rfl
@[simp] theorem State.modCtx_dev (s : State) (p n : Nat) (f : Context → Context) : (s.modCtx p n f).dev = s.dev := by
  unfold State.modCtx State.setCtx State.modPart; (repeat' split) <;> rfl
@[simp] theorem State.modCtx_frames (s : State) (p n : Nat) (f : Context → Context) : (s.modCtx p n f).frames = s.frames := by
  unfold State.modCtx State.setCtx State.modPart; (repeat' split) <;> rfl
@[simp] theorem State.modCtx_replicas (s : State) (p n : Nat) (f : Context → Context) : (s.modCtx p n f).replicas = s.replicas := by
  unfold State.modCtx State.setCtx State.modPart; (repeat' split) <;> rfl
@[simp] theorem State.modCtx_collapses (s : State) (p n : Nat) (f : Context → Context) : (s.modCtx p n f).collapses = s.collapses := by
  unfold State.modCtx State.setCtx State.modPart; (repeat' split) <;> rfl
@[simp] theorem State.modCtx_cycle (s : State) (p n : Nat) (f : Context → Context) : (s.modCtx p n f).cycle = s.cycle := by
  unfold State.modCtx State.setCtx State.modPart; (repeat' split) <;> rfl
@[simp] theorem State.modCtx_ns (s : State) (p n : Nat) (f : Context → Context) : (s.modCtx p n f).ns = s.ns := by
  unfold State.modCtx State.setCtx State.modPart; (repeat' split) <;> rfl
@[simp] theorem State.modCtx_tags (s : State) (p n : Nat) (f : Context → Context) : (s.modCtx p n f).tags = s.tags := by
  unfold State.modCtx State.setCtx State.modPart; (repeat' split) <;> rfl
@[simp] theorem State.modCtx_cur (s : State) (p n : Nat) (f : Context → Context) : (s.modCtx p n f).cur = s.cur := by
  unfold State.modCtx State.setCtx State.modPart; (repeat' split) <;> rfl
@[simp] theorem State.modCtx_nxt (s : State) (p n : Nat) (f : Context → Context) : (s.modCtx p n f).nxt = s.nxt := by
  unfold State.modCtx State.setCtx State.modPart; (repeat' split) <;> rfl
@[simp] theorem State.modCtx_pairs (s : State) (p n : Nat) (f : Context → Context) : (s.modCtx p n f).pairs = s.pairs := by
  unfold State.modCtx State.setCtx State.modPart; (repeat' split) <;> rfl
@[simp] theorem State.modCtx_agenda (s : State) (p n : Nat) (f : Context → Context) : (s.modCtx p n f).agenda = s.agenda := by
  unfold State.modCtx State.setCtx State.modPart; (repeat' split) <;> rfl
@[simp] theorem State.modCtx_choice (s : State) (p n : Nat) (f : Context → Context) : (s.modCtx p n f).choice = s.choice := by
  unfold State.modCtx State.setCtx State.modPart; (repeat' split) <;> rfl
@[simp] theorem State.modCtx_fresh (s : State) (p n : Nat) (f : Context → Context) : (s.modCtx p n f).fresh = s.fresh := by
  unfold State.modCtx State.setCtx State.modPart; (repeat' split) <;> rfl

@[simp] theorem State.modWg_mem (s : State) (c k : Nat) (f : Wg → Wg) : (s.modWg c k f).mem = s.mem := by
  unfold State.modWg; (repeat' split) <;> rfl
@[simp] theorem State.modWg_cores (s : State) (c k : Nat) (f : Wg → Wg) : (s.modWg c k f).cores = s.cores := by
  unfold State.modWg; (repeat' split) <;> rfl
@[simp] theorem State.modWg_clusters (s : State) (c k : Nat) (f : Wg → Wg) : (s.modWg c k f).clusters = s.clusters := by
  unfold State.modWg; (repeat' split) <;> rfl
@[simp] theorem State.modWg_parts (s : State) (c k : Nat) (f : Wg → Wg) : (s.modWg c k f).parts = s.parts := by
  unfold State.modWg; (repeat' split) <;> rfl
@[simp] theorem State.modWg_domains (s : State) (c k : Nat) (f : Wg → Wg) : (s.modWg c k f).domains = s.domains := by
  unfold State.modWg; (repeat' split) <;> rfl
@[simp] theorem State.modWg_engines (s : State) (c k : Nat) (f : Wg → Wg) : (s.modWg c k f).engines = s.engines := by
  unfold State.modWg; (repeat' split) <;> rfl
@[simp] theorem State.modWg_frecs (s : State) (c k : Nat) (f : Wg → Wg) : (s.modWg c k f).frecs = s.frecs := by
  unfold State.modWg; (repeat' split) <;> rfl
@[simp] theorem State.modWg_fabric (s : State) (c k : Nat) (f : Wg → Wg) : (s.modWg c k f).fabric = s.fabric := by
  unfold State.modWg; (repeat' split) <;> rfl
@[simp] theorem State.modWg_dev (s : State) (c k : Nat) (f : Wg → Wg) : (s.modWg c k f).dev = s.dev := by
  unfold State.modWg; (repeat' split) <;> rfl
@[simp] theorem State.modWg_frames (s : State) (c k : Nat) (f : Wg → Wg) : (s.modWg c k f).frames = s.frames := by
  unfold State.modWg; (repeat' split) <;> rfl
@[simp] theorem State.modWg_replicas (s : State) (c k : Nat) (f : Wg → Wg) : (s.modWg c k f).replicas = s.replicas := by
  unfold State.modWg; (repeat' split) <;> rfl
@[simp] theorem State.modWg_collapses (s : State) (c k : Nat) (f : Wg → Wg) : (s.modWg c k f).collapses = s.collapses := by
  unfold State.modWg; (repeat' split) <;> rfl
@[simp] theorem State.modWg_cycle (s : State) (c k : Nat) (f : Wg → Wg) : (s.modWg c k f).cycle = s.cycle := by
  unfold State.modWg; (repeat' split) <;> rfl
@[simp] theorem State.modWg_ns (s : State) (c k : Nat) (f : Wg → Wg) : (s.modWg c k f).ns = s.ns := by
  unfold State.modWg; (repeat' split) <;> rfl
@[simp] theorem State.modWg_tags (s : State) (c k : Nat) (f : Wg → Wg) : (s.modWg c k f).tags = s.tags := by
  unfold State.modWg; (repeat' split) <;> rfl
@[simp] theorem State.modWg_cur (s : State) (c k : Nat) (f : Wg → Wg) : (s.modWg c k f).cur = s.cur := by
  unfold State.modWg; (repeat' split) <;> rfl
@[simp] theorem State.modWg_nxt (s : State) (c k : Nat) (f : Wg → Wg) : (s.modWg c k f).nxt = s.nxt := by
  unfold State.modWg; (repeat' split) <;> rfl
@[simp] theorem State.modWg_pairs (s : State) (c k : Nat) (f : Wg → Wg) : (s.modWg c k f).pairs = s.pairs := by
  unfold State.modWg; (repeat' split) <;> rfl
@[simp] theorem State.modWg_agenda (s : State) (c k : Nat) (f : Wg → Wg) : (s.modWg c k f).agenda = s.agenda := by
  unfold State.modWg; (repeat' split) <;> rfl
@[simp] theorem State.modWg_choice (s : State) (c k : Nat) (f : Wg → Wg) : (s.modWg c k f).choice = s.choice := by
  unfold State.modWg; (repeat' split) <;> rfl
@[simp] theorem State.modWg_fresh (s : State) (c k : Nat) (f : Wg → Wg) : (s.modWg c k f).fresh = s.fresh := by
  unfold State.modWg; (repeat' split) <;> rfl

@[simp] theorem State.raiseVf_mem (s : State) (p v : Nat) : (s.raiseVf p v).mem = s.mem := by
  unfold State.raiseVf State.modPart; (repeat' split) <;> rfl
@[simp] theorem State.raiseVf_wgs (s : State) (p v : Nat) : (s.raiseVf p v).wgs = s.wgs := by
  unfold State.raiseVf State.modPart; (repeat' split) <;> rfl
@[simp] theorem State.raiseVf_cores (s : State) (p v : Nat) : (s.raiseVf p v).cores = s.cores := by
  unfold State.raiseVf State.modPart; (repeat' split) <;> rfl
@[simp] theorem State.raiseVf_clusters (s : State) (p v : Nat) : (s.raiseVf p v).clusters = s.clusters := by
  unfold State.raiseVf State.modPart; (repeat' split) <;> rfl
@[simp] theorem State.raiseVf_domains (s : State) (p v : Nat) : (s.raiseVf p v).domains = s.domains := by
  unfold State.raiseVf State.modPart; (repeat' split) <;> rfl
@[simp] theorem State.raiseVf_engines (s : State) (p v : Nat) : (s.raiseVf p v).engines = s.engines := by
  unfold State.raiseVf State.modPart; (repeat' split) <;> rfl
@[simp] theorem State.raiseVf_frecs (s : State) (p v : Nat) : (s.raiseVf p v).frecs = s.frecs := by
  unfold State.raiseVf State.modPart; (repeat' split) <;> rfl
@[simp] theorem State.raiseVf_fabric (s : State) (p v : Nat) : (s.raiseVf p v).fabric = s.fabric := by
  unfold State.raiseVf State.modPart; (repeat' split) <;> rfl
@[simp] theorem State.raiseVf_dev (s : State) (p v : Nat) : (s.raiseVf p v).dev = s.dev := by
  unfold State.raiseVf State.modPart; (repeat' split) <;> rfl
@[simp] theorem State.raiseVf_frames (s : State) (p v : Nat) : (s.raiseVf p v).frames = s.frames := by
  unfold State.raiseVf State.modPart; (repeat' split) <;> rfl
@[simp] theorem State.raiseVf_replicas (s : State) (p v : Nat) : (s.raiseVf p v).replicas = s.replicas := by
  unfold State.raiseVf State.modPart; (repeat' split) <;> rfl
@[simp] theorem State.raiseVf_collapses (s : State) (p v : Nat) : (s.raiseVf p v).collapses = s.collapses := by
  unfold State.raiseVf State.modPart; (repeat' split) <;> rfl
@[simp] theorem State.raiseVf_cycle (s : State) (p v : Nat) : (s.raiseVf p v).cycle = s.cycle := by
  unfold State.raiseVf State.modPart; (repeat' split) <;> rfl
@[simp] theorem State.raiseVf_ns (s : State) (p v : Nat) : (s.raiseVf p v).ns = s.ns := by
  unfold State.raiseVf State.modPart; (repeat' split) <;> rfl
@[simp] theorem State.raiseVf_tags (s : State) (p v : Nat) : (s.raiseVf p v).tags = s.tags := by
  unfold State.raiseVf State.modPart; (repeat' split) <;> rfl
@[simp] theorem State.raiseVf_cur (s : State) (p v : Nat) : (s.raiseVf p v).cur = s.cur := by
  unfold State.raiseVf State.modPart; (repeat' split) <;> rfl
@[simp] theorem State.raiseVf_nxt (s : State) (p v : Nat) : (s.raiseVf p v).nxt = s.nxt := by
  unfold State.raiseVf State.modPart; (repeat' split) <;> rfl
@[simp] theorem State.raiseVf_pairs (s : State) (p v : Nat) : (s.raiseVf p v).pairs = s.pairs := by
  unfold State.raiseVf State.modPart; (repeat' split) <;> rfl
@[simp] theorem State.raiseVf_agenda (s : State) (p v : Nat) : (s.raiseVf p v).agenda = s.agenda := by
  unfold State.raiseVf State.modPart; (repeat' split) <;> rfl
@[simp] theorem State.raiseVf_choice (s : State) (p v : Nat) : (s.raiseVf p v).choice = s.choice := by
  unfold State.raiseVf State.modPart; (repeat' split) <;> rfl
@[simp] theorem State.raiseVf_fresh (s : State) (p v : Nat) : (s.raiseVf p v).fresh = s.fresh := by
  unfold State.raiseVf State.modPart; (repeat' split) <;> rfl

@[simp] theorem State.tag_mem (s : State) : s.tag.2.mem = s.mem := rfl
@[simp] theorem State.tag_wgs (s : State) : s.tag.2.wgs = s.wgs := rfl
@[simp] theorem State.tag_cores (s : State) : s.tag.2.cores = s.cores := rfl
@[simp] theorem State.tag_clusters (s : State) : s.tag.2.clusters = s.clusters := rfl
@[simp] theorem State.tag_parts (s : State) : s.tag.2.parts = s.parts := rfl
@[simp] theorem State.tag_domains (s : State) : s.tag.2.domains = s.domains := rfl
@[simp] theorem State.tag_engines (s : State) : s.tag.2.engines = s.engines := rfl
@[simp] theorem State.tag_frecs (s : State) : s.tag.2.frecs = s.frecs := rfl
@[simp] theorem State.tag_fabric (s : State) : s.tag.2.fabric = s.fabric := rfl
@[simp] theorem State.tag_dev (s : State) : s.tag.2.dev = s.dev := rfl
@[simp] theorem State.tag_frames (s : State) : s.tag.2.frames = s.frames := rfl
@[simp] theorem State.tag_replicas (s : State) : s.tag.2.replicas = s.replicas := rfl
@[simp] theorem State.tag_collapses (s : State) : s.tag.2.collapses = s.collapses := rfl
@[simp] theorem State.tag_cycle (s : State) : s.tag.2.cycle = s.cycle := rfl
@[simp] theorem State.tag_ns (s : State) : s.tag.2.ns = s.ns := rfl
@[simp] theorem State.tag_cur (s : State) : s.tag.2.cur = s.cur := rfl
@[simp] theorem State.tag_nxt (s : State) : s.tag.2.nxt = s.nxt := rfl
@[simp] theorem State.tag_pairs (s : State) : s.tag.2.pairs = s.pairs := rfl
@[simp] theorem State.tag_agenda (s : State) : s.tag.2.agenda = s.agenda := rfl
@[simp] theorem State.tag_choice (s : State) : s.tag.2.choice = s.choice := rfl
@[simp] theorem State.tag_fresh (s : State) : s.tag.2.fresh = s.fresh := rfl

@[simp] theorem State.choose_mem (s : State) : s.choose.2.mem = s.mem := by
  unfold State.choose; split <;> rfl
@[simp] theorem State.choose_wgs (s : State) : s.choose.2.wgs = s.wgs := by
  unfold State.choose; split <;> rfl
@[simp] theorem State.choose_cores (s : State) : s.choose.2.cores = s.cores := by
  unfold State.choose; split <;> rfl
@[simp] theorem State.choose_clusters (s : State) : s.choose.2.clusters = s.clusters := by
  unfold State.choose; split <;> rfl
@[simp] theorem State.choose_parts (s : State) : s.choose.2.parts = s.parts := by
  unfold State.choose; split <;> rfl
@[simp] theorem State.choose_domains (s : State) : s.choose.2.domains = s.domains := by
  unfold State.choose; split <;> rfl
@[simp] theorem State.choose_engines (s : State) : s.choose.2.engines = s.engines := by
  unfold State.choose; split <;> rfl
@[simp] theorem State.choose_frecs (s : State) : s.choose.2.frecs = s.frecs := by
  unfold State.choose; split <;> rfl
@[simp] theorem State.choose_fabric (s : State) : s.choose.2.fabric = s.fabric := by
  unfold State.choose; split <;> rfl
@[simp] theorem State.choose_dev (s : State) : s.choose.2.dev = s.dev := by
  unfold State.choose; split <;> rfl
@[simp] theorem State.choose_frames (s : State) : s.choose.2.frames = s.frames := by
  unfold State.choose; split <;> rfl
@[simp] theorem State.choose_replicas (s : State) : s.choose.2.replicas = s.replicas := by
  unfold State.choose; split <;> rfl
@[simp] theorem State.choose_collapses (s : State) : s.choose.2.collapses = s.collapses := by
  unfold State.choose; split <;> rfl
@[simp] theorem State.choose_cycle (s : State) : s.choose.2.cycle = s.cycle := by
  unfold State.choose; split <;> rfl
@[simp] theorem State.choose_ns (s : State) : s.choose.2.ns = s.ns := by
  unfold State.choose; split <;> rfl
@[simp] theorem State.choose_tags (s : State) : s.choose.2.tags = s.tags := by
  unfold State.choose; split <;> rfl
@[simp] theorem State.choose_cur (s : State) : s.choose.2.cur = s.cur := by
  unfold State.choose; split <;> rfl
@[simp] theorem State.choose_nxt (s : State) : s.choose.2.nxt = s.nxt := by
  unfold State.choose; split <;> rfl
@[simp] theorem State.choose_pairs (s : State) : s.choose.2.pairs = s.pairs := by
  unfold State.choose; split <;> rfl
@[simp] theorem State.choose_agenda (s : State) : s.choose.2.agenda = s.agenda := by
  unfold State.choose; split <;> rfl

@[simp] theorem State.deliver_mem (s : State) (w : WgId) (c : Cause) (pc pend g k : Nat) (o : Option Nat) :
    (s.deliver w c pc pend g k o).2.mem = s.mem := rfl
@[simp] theorem State.deliver_wgs (s : State) (w : WgId) (c : Cause) (pc pend g k : Nat) (o : Option Nat) :
    (s.deliver w c pc pend g k o).2.wgs = s.wgs := rfl
@[simp] theorem State.deliver_cores (s : State) (w : WgId) (c : Cause) (pc pend g k : Nat) (o : Option Nat) :
    (s.deliver w c pc pend g k o).2.cores = s.cores := rfl
@[simp] theorem State.deliver_clusters (s : State) (w : WgId) (c : Cause) (pc pend g k : Nat) (o : Option Nat) :
    (s.deliver w c pc pend g k o).2.clusters = s.clusters := rfl
@[simp] theorem State.deliver_parts (s : State) (w : WgId) (c : Cause) (pc pend g k : Nat) (o : Option Nat) :
    (s.deliver w c pc pend g k o).2.parts = s.parts := rfl
@[simp] theorem State.deliver_domains (s : State) (w : WgId) (c : Cause) (pc pend g k : Nat) (o : Option Nat) :
    (s.deliver w c pc pend g k o).2.domains = s.domains := rfl
@[simp] theorem State.deliver_engines (s : State) (w : WgId) (c : Cause) (pc pend g k : Nat) (o : Option Nat) :
    (s.deliver w c pc pend g k o).2.engines = s.engines := rfl
@[simp] theorem State.deliver_fabric (s : State) (w : WgId) (c : Cause) (pc pend g k : Nat) (o : Option Nat) :
    (s.deliver w c pc pend g k o).2.fabric = s.fabric := rfl
@[simp] theorem State.deliver_dev (s : State) (w : WgId) (c : Cause) (pc pend g k : Nat) (o : Option Nat) :
    (s.deliver w c pc pend g k o).2.dev = s.dev := rfl
@[simp] theorem State.deliver_frames (s : State) (w : WgId) (c : Cause) (pc pend g k : Nat) (o : Option Nat) :
    (s.deliver w c pc pend g k o).2.frames = s.frames := rfl
@[simp] theorem State.deliver_replicas (s : State) (w : WgId) (c : Cause) (pc pend g k : Nat) (o : Option Nat) :
    (s.deliver w c pc pend g k o).2.replicas = s.replicas := rfl
@[simp] theorem State.deliver_collapses (s : State) (w : WgId) (c : Cause) (pc pend g k : Nat) (o : Option Nat) :
    (s.deliver w c pc pend g k o).2.collapses = s.collapses := rfl
@[simp] theorem State.deliver_cycle (s : State) (w : WgId) (c : Cause) (pc pend g k : Nat) (o : Option Nat) :
    (s.deliver w c pc pend g k o).2.cycle = s.cycle := rfl
@[simp] theorem State.deliver_ns (s : State) (w : WgId) (c : Cause) (pc pend g k : Nat) (o : Option Nat) :
    (s.deliver w c pc pend g k o).2.ns = s.ns := rfl
@[simp] theorem State.deliver_cur (s : State) (w : WgId) (c : Cause) (pc pend g k : Nat) (o : Option Nat) :
    (s.deliver w c pc pend g k o).2.cur = s.cur := rfl
@[simp] theorem State.deliver_nxt (s : State) (w : WgId) (c : Cause) (pc pend g k : Nat) (o : Option Nat) :
    (s.deliver w c pc pend g k o).2.nxt = s.nxt := rfl
@[simp] theorem State.deliver_pairs (s : State) (w : WgId) (c : Cause) (pc pend g k : Nat) (o : Option Nat) :
    (s.deliver w c pc pend g k o).2.pairs = s.pairs := rfl
@[simp] theorem State.deliver_agenda (s : State) (w : WgId) (c : Cause) (pc pend g k : Nat) (o : Option Nat) :
    (s.deliver w c pc pend g k o).2.agenda = s.agenda := rfl
@[simp] theorem State.deliver_choice (s : State) (w : WgId) (c : Cause) (pc pend g k : Nat) (o : Option Nat) :
    (s.deliver w c pc pend g k o).2.choice = s.choice := rfl
@[simp] theorem State.deliver_fresh (s : State) (w : WgId) (c : Cause) (pc pend g k : Nat) (o : Option Nat) :
    (s.deliver w c pc pend g k o).2.fresh = s.fresh := rfl

/-! ### Workgroups -/

@[simp] theorem Wg.setLane_id (w : Wg) (g l : Nat) (t : Thread) : (w.setLane g l t).id = w.id := rfl
@[simp] theorem Wg.setLane_groups (w : Wg) (g l : Nat) (t : Thread) : (w.setLane g l t).groups = w.groups := rfl
@[simp] theorem Wg.setLane_ctl (w : Wg) (g l : Nat) (t : Thread) : (w.setLane g l t).ctl = w.ctl := rfl
@[simp] theorem Wg.setLane_ctlSusp (w : Wg) (g l : Nat) (t : Thread) : (w.setLane g l t).ctlSusp = w.ctlSusp := rfl
@[simp] theorem Wg.setLane_ctlReplay (w : Wg) (g l : Nat) (t : Thread) : (w.setLane g l t).ctlReplay = w.ctlReplay := rfl
@[simp] theorem Wg.setLane_ctlTrap (w : Wg) (g l : Nat) (t : Thread) : (w.setLane g l t).ctlTrap = w.ctlTrap := rfl
@[simp] theorem Wg.setLane_ctlHeld (w : Wg) (g l : Nat) (t : Thread) : (w.setLane g l t).ctlHeld = w.ctlHeld := rfl
@[simp] theorem Wg.setLane_fails (w : Wg) (g l : Nat) (t : Thread) : (w.setLane g l t).fails = w.fails := rfl
@[simp] theorem Wg.setLane_s (w : Wg) (g l : Nat) (t : Thread) : (w.setLane g l t).s = w.s := rfl
@[simp] theorem Wg.setLane_sLog (w : Wg) (g l : Nat) (t : Thread) : (w.setLane g l t).sLog = w.sLog := rfl
@[simp] theorem Wg.setLane_sSeq (w : Wg) (g l : Nat) (t : Thread) : (w.setLane g l t).sSeq = w.sSeq := rfl
@[simp] theorem Wg.setLane_dq (w : Wg) (g l : Nat) (t : Thread) : (w.setLane g l t).dq = w.dq := rfl
@[simp] theorem Wg.setLane_dqBase (w : Wg) (g l : Nat) (t : Thread) : (w.setLane g l t).dqBase = w.dqBase := rfl
@[simp] theorem Wg.setLane_csrs (w : Wg) (g l : Nat) (t : Thread) : (w.setLane g l t).csrs = w.csrs := rfl
@[simp] theorem Wg.setLane_scratch (w : Wg) (g l : Nat) (t : Thread) : (w.setLane g l t).scratch = w.scratch := rfl
@[simp] theorem Wg.setLane_fifo0 (w : Wg) (g l : Nat) (t : Thread) : (w.setLane g l t).fifo0 = w.fifo0 := rfl
@[simp] theorem Wg.setLane_fifo1 (w : Wg) (g l : Nat) (t : Thread) : (w.setLane g l t).fifo1 = w.fifo1 := rfl
@[simp] theorem Wg.setLane_slopes (w : Wg) (g l : Nat) (t : Thread) : (w.setLane g l t).slopes = w.slopes := rfl
@[simp] theorem Wg.setLane_stats (w : Wg) (g l : Nat) (t : Thread) : (w.setLane g l t).stats = w.stats := rfl
@[simp] theorem Wg.setLane_unit (w : Wg) (g l : Nat) (t : Thread) : (w.setLane g l t).unit = w.unit := rfl
@[simp] theorem Wg.setLane_mailbox (w : Wg) (g l : Nat) (t : Thread) : (w.setLane g l t).mailbox = w.mailbox := rfl
@[simp] theorem Wg.setLane_drained (w : Wg) (g l : Nat) (t : Thread) : (w.setLane g l t).drained = w.drained := rfl
@[simp] theorem Wg.setLane_engOps (w : Wg) (g l : Nat) (t : Thread) : (w.setLane g l t).engOps = w.engOps := rfl
@[simp] theorem Wg.setLane_ended (w : Wg) (g l : Nat) (t : Thread) : (w.setLane g l t).ended = w.ended := rfl
@[simp] theorem Wg.setLane_faulter (w : Wg) (g l : Nat) (t : Thread) : (w.setLane g l t).faulter = w.faulter := rfl

@[simp] theorem Wg.modLane_id (w : Wg) (g l : Nat) (f : Thread → Thread) : (w.modLane g l f).id = w.id := by
  unfold Wg.modLane; split <;> rfl
@[simp] theorem Wg.modLane_groups (w : Wg) (g l : Nat) (f : Thread → Thread) : (w.modLane g l f).groups = w.groups := by
  unfold Wg.modLane; split <;> rfl
@[simp] theorem Wg.modLane_ctl (w : Wg) (g l : Nat) (f : Thread → Thread) : (w.modLane g l f).ctl = w.ctl := by
  unfold Wg.modLane; split <;> rfl
@[simp] theorem Wg.modLane_ctlSusp (w : Wg) (g l : Nat) (f : Thread → Thread) : (w.modLane g l f).ctlSusp = w.ctlSusp := by
  unfold Wg.modLane; split <;> rfl
@[simp] theorem Wg.modLane_ctlReplay (w : Wg) (g l : Nat) (f : Thread → Thread) : (w.modLane g l f).ctlReplay = w.ctlReplay := by
  unfold Wg.modLane; split <;> rfl
@[simp] theorem Wg.modLane_ctlTrap (w : Wg) (g l : Nat) (f : Thread → Thread) : (w.modLane g l f).ctlTrap = w.ctlTrap := by
  unfold Wg.modLane; split <;> rfl
@[simp] theorem Wg.modLane_ctlHeld (w : Wg) (g l : Nat) (f : Thread → Thread) : (w.modLane g l f).ctlHeld = w.ctlHeld := by
  unfold Wg.modLane; split <;> rfl
@[simp] theorem Wg.modLane_fails (w : Wg) (g l : Nat) (f : Thread → Thread) : (w.modLane g l f).fails = w.fails := by
  unfold Wg.modLane; split <;> rfl
@[simp] theorem Wg.modLane_s (w : Wg) (g l : Nat) (f : Thread → Thread) : (w.modLane g l f).s = w.s := by
  unfold Wg.modLane; split <;> rfl
@[simp] theorem Wg.modLane_sLog (w : Wg) (g l : Nat) (f : Thread → Thread) : (w.modLane g l f).sLog = w.sLog := by
  unfold Wg.modLane; split <;> rfl
@[simp] theorem Wg.modLane_sSeq (w : Wg) (g l : Nat) (f : Thread → Thread) : (w.modLane g l f).sSeq = w.sSeq := by
  unfold Wg.modLane; split <;> rfl
@[simp] theorem Wg.modLane_dq (w : Wg) (g l : Nat) (f : Thread → Thread) : (w.modLane g l f).dq = w.dq := by
  unfold Wg.modLane; split <;> rfl
@[simp] theorem Wg.modLane_dqBase (w : Wg) (g l : Nat) (f : Thread → Thread) : (w.modLane g l f).dqBase = w.dqBase := by
  unfold Wg.modLane; split <;> rfl
@[simp] theorem Wg.modLane_csrs (w : Wg) (g l : Nat) (f : Thread → Thread) : (w.modLane g l f).csrs = w.csrs := by
  unfold Wg.modLane; split <;> rfl
@[simp] theorem Wg.modLane_scratch (w : Wg) (g l : Nat) (f : Thread → Thread) : (w.modLane g l f).scratch = w.scratch := by
  unfold Wg.modLane; split <;> rfl
@[simp] theorem Wg.modLane_fifo0 (w : Wg) (g l : Nat) (f : Thread → Thread) : (w.modLane g l f).fifo0 = w.fifo0 := by
  unfold Wg.modLane; split <;> rfl
@[simp] theorem Wg.modLane_fifo1 (w : Wg) (g l : Nat) (f : Thread → Thread) : (w.modLane g l f).fifo1 = w.fifo1 := by
  unfold Wg.modLane; split <;> rfl
@[simp] theorem Wg.modLane_slopes (w : Wg) (g l : Nat) (f : Thread → Thread) : (w.modLane g l f).slopes = w.slopes := by
  unfold Wg.modLane; split <;> rfl
@[simp] theorem Wg.modLane_stats (w : Wg) (g l : Nat) (f : Thread → Thread) : (w.modLane g l f).stats = w.stats := by
  unfold Wg.modLane; split <;> rfl
@[simp] theorem Wg.modLane_unit (w : Wg) (g l : Nat) (f : Thread → Thread) : (w.modLane g l f).unit = w.unit := by
  unfold Wg.modLane; split <;> rfl
@[simp] theorem Wg.modLane_mailbox (w : Wg) (g l : Nat) (f : Thread → Thread) : (w.modLane g l f).mailbox = w.mailbox := by
  unfold Wg.modLane; split <;> rfl
@[simp] theorem Wg.modLane_drained (w : Wg) (g l : Nat) (f : Thread → Thread) : (w.modLane g l f).drained = w.drained := by
  unfold Wg.modLane; split <;> rfl
@[simp] theorem Wg.modLane_engOps (w : Wg) (g l : Nat) (f : Thread → Thread) : (w.modLane g l f).engOps = w.engOps := by
  unfold Wg.modLane; split <;> rfl
@[simp] theorem Wg.modLane_ended (w : Wg) (g l : Nat) (f : Thread → Thread) : (w.modLane g l f).ended = w.ended := by
  unfold Wg.modLane; split <;> rfl
@[simp] theorem Wg.modLane_faulter (w : Wg) (g l : Nat) (f : Thread → Thread) : (w.modLane g l f).faulter = w.faulter := by
  unfold Wg.modLane; split <;> rfl

@[simp] theorem Wg.setGroup_id (w : Wg) (g : Nat) (x : Group) : (w.setGroup g x).id = w.id := rfl
@[simp] theorem Wg.setGroup_lanes (w : Wg) (g : Nat) (x : Group) : (w.setGroup g x).lanes = w.lanes := rfl
@[simp] theorem Wg.setGroup_ctl (w : Wg) (g : Nat) (x : Group) : (w.setGroup g x).ctl = w.ctl := rfl
@[simp] theorem Wg.setGroup_ctlSusp (w : Wg) (g : Nat) (x : Group) : (w.setGroup g x).ctlSusp = w.ctlSusp := rfl
@[simp] theorem Wg.setGroup_ctlReplay (w : Wg) (g : Nat) (x : Group) : (w.setGroup g x).ctlReplay = w.ctlReplay := rfl
@[simp] theorem Wg.setGroup_ctlTrap (w : Wg) (g : Nat) (x : Group) : (w.setGroup g x).ctlTrap = w.ctlTrap := rfl
@[simp] theorem Wg.setGroup_ctlHeld (w : Wg) (g : Nat) (x : Group) : (w.setGroup g x).ctlHeld = w.ctlHeld := rfl
@[simp] theorem Wg.setGroup_fails (w : Wg) (g : Nat) (x : Group) : (w.setGroup g x).fails = w.fails := rfl
@[simp] theorem Wg.setGroup_s (w : Wg) (g : Nat) (x : Group) : (w.setGroup g x).s = w.s := rfl
@[simp] theorem Wg.setGroup_sLog (w : Wg) (g : Nat) (x : Group) : (w.setGroup g x).sLog = w.sLog := rfl
@[simp] theorem Wg.setGroup_sSeq (w : Wg) (g : Nat) (x : Group) : (w.setGroup g x).sSeq = w.sSeq := rfl
@[simp] theorem Wg.setGroup_dq (w : Wg) (g : Nat) (x : Group) : (w.setGroup g x).dq = w.dq := rfl
@[simp] theorem Wg.setGroup_dqBase (w : Wg) (g : Nat) (x : Group) : (w.setGroup g x).dqBase = w.dqBase := rfl
@[simp] theorem Wg.setGroup_csrs (w : Wg) (g : Nat) (x : Group) : (w.setGroup g x).csrs = w.csrs := rfl
@[simp] theorem Wg.setGroup_scratch (w : Wg) (g : Nat) (x : Group) : (w.setGroup g x).scratch = w.scratch := rfl
@[simp] theorem Wg.setGroup_fifo0 (w : Wg) (g : Nat) (x : Group) : (w.setGroup g x).fifo0 = w.fifo0 := rfl
@[simp] theorem Wg.setGroup_fifo1 (w : Wg) (g : Nat) (x : Group) : (w.setGroup g x).fifo1 = w.fifo1 := rfl
@[simp] theorem Wg.setGroup_slopes (w : Wg) (g : Nat) (x : Group) : (w.setGroup g x).slopes = w.slopes := rfl
@[simp] theorem Wg.setGroup_stats (w : Wg) (g : Nat) (x : Group) : (w.setGroup g x).stats = w.stats := rfl
@[simp] theorem Wg.setGroup_unit (w : Wg) (g : Nat) (x : Group) : (w.setGroup g x).unit = w.unit := rfl
@[simp] theorem Wg.setGroup_mailbox (w : Wg) (g : Nat) (x : Group) : (w.setGroup g x).mailbox = w.mailbox := rfl
@[simp] theorem Wg.setGroup_drained (w : Wg) (g : Nat) (x : Group) : (w.setGroup g x).drained = w.drained := rfl
@[simp] theorem Wg.setGroup_engOps (w : Wg) (g : Nat) (x : Group) : (w.setGroup g x).engOps = w.engOps := rfl
@[simp] theorem Wg.setGroup_ended (w : Wg) (g : Nat) (x : Group) : (w.setGroup g x).ended = w.ended := rfl
@[simp] theorem Wg.setGroup_faulter (w : Wg) (g : Nat) (x : Group) : (w.setGroup g x).faulter = w.faulter := rfl

end Sys2Proof.Machine
end

