-- ==== Sys2Proof/Laws/Memory.lean ====
section
/-! SUPPORT. Main memory: every operation on it keeps its canonical form; what a byte reads as after each. Then the relation that every
operation of the machine is to have with the state before it, and the operations that change memory, workgroups or fuses. -/

namespace Sys2Proof.Laws
open Machine

/-! ### Bytes of memory -/

theorem memWrite_wf (bs : List Byte) : ∀ (m : Memory) (a : Nat), Memory.wf m = true → Memory.wf (memWrite m a bs) = true := by
  induction bs with
  | nil => intro m a h; exact h
  | cons b bs ih => intro m a h; exact ih _ _ (cellSet_wf (w := 8) a b h)

theorem memRead_length (m : Memory) (n : Nat) : ∀ a, (memRead m a n).length = n := by
  induction n with
  | zero => intro a; rfl
  | succ n ih => intro a; simp [memRead, ih]

theorem memRead_get (m : Memory) (n : Nat) : ∀ a i, i < n → (memRead m a n)[i]? = some (cellGet (w := 8) m (a + i)) := by
  induction n with
  | zero => intro a i h; omega
  | succ n ih =>
    intro a i h
    cases i with
    | zero => simp [memRead]
    | succ i =>
      simp only [memRead, List.getElem?_cons_succ]
      rw [ih (a + 1) i (by omega)]
      congr 2; omega

/-- A byte after a write: the byte written there, otherwise the byte before. -/
theorem cellGet_memWrite (bs : List Byte) : ∀ (m : Memory) (a b : Nat), Memory.wf m = true →
    cellGet (w := 8) (memWrite m a bs) b =
      if a ≤ b ∧ b < a + bs.length then (bs[b - a]?).getD 0 else cellGet (w := 8) m b := by
  induction bs with
  | nil =>
    intro m a b _
    rw [memWrite, if_neg]
    intro h; rw [List.length_nil] at h; omega
  | cons x bs ih =>
    intro m a b h
    rw [memWrite, ih _ _ _ (cellSet_wf (w := 8) a x h), cellGet_cellSet (w := 8) h]
    simp only [List.length_cons]
    by_cases h1 : a + 1 ≤ b ∧ b < a + 1 + bs.length
    · rw [if_pos h1, if_pos (by omega)]
      obtain ⟨k, hk⟩ : ∃ k, b - a = k + 1 := ⟨b - a - 1, by omega⟩
      have hk' : b - (a + 1) = k := by omega
      rw [hk, hk']; simp
    · rw [if_neg h1]
      by_cases h2 : b = a
      · subst h2; simp
      · rw [if_neg h2, if_neg (by omega)]

/-- A store outside the bytes written leaves a byte as it was. -/
theorem cellGet_memWrite_out (m : Memory) (a b : Nat) (bs : List Byte) (h : Memory.wf m = true) (hb : b < a ∨ a + bs.length ≤ b) :
    cellGet (w := 8) (memWrite m a bs) b = cellGet (w := 8) m b := by
  rw [cellGet_memWrite bs m a b h, if_neg (by omega)]

/-- A read of what was written gives it. -/
theorem memRead_memWrite (m : Memory) (a : Nat) (bs : List Byte) (h : Memory.wf m = true) :
    memRead (memWrite m a bs) a bs.length = bs := by
  apply List.ext_getElem?
  intro i
  by_cases hi : i < bs.length
  · rw [memRead_get _ _ _ _ hi, cellGet_memWrite bs m a (a + i) h, if_pos (by omega)]
    simp [List.getElem?_eq_getElem hi]
  · rw [List.getElem?_eq_none (by rw [memRead_length]; omega), List.getElem?_eq_none (by omega)]

theorem memInv_setPhys (s : State) (a n x : Nat) (h : MemInv s) : MemInv (s.setPhys a n x) := memWrite_wf _ _ _ h
theorem memInv_zeroPhys (s : State) (a n : Nat) (h : MemInv s) : MemInv (s.zeroPhys a n) := cellClear_wf _ _ h

/-! ### What no operation breaks -/

/-- From s to t memory stays canonical, workgroups stay in their places, and no fuse changes. -/
def Kept (s t : State) : Prop := (MemInv s → MemInv t) ∧ (WgsStand s → WgsStand t) ∧ t.dev.minSvn = s.dev.minSvn

theorem Kept.refl (s : State) : Kept s s := ⟨id, id, rfl⟩

theorem Kept.trans {s t u : State} (a : Kept s t) (b : Kept t u) : Kept s u :=
  ⟨b.1 ∘ a.1, b.2.1 ∘ a.2.1, b.2.2.trans a.2.2⟩

/-- What changes none of the three keeps them. -/
theorem Kept.of_eq {s t : State} (m : t.mem = s.mem) (w : t.wgs = s.wgs) (d : t.dev.minSvn = s.dev.minSvn) : Kept s t :=
  ⟨fun h => by simpa [MemInv, m] using h, fun h => by simpa [WgsStand, w] using h, d⟩

theorem Kept.fold {α : Type} (f : State → α → State) (h : ∀ s a, Kept s (f s a)) : ∀ (l : List α) (s : State), Kept s (l.foldl f s)
  | [], s => Kept.refl s
  | a :: l, s => (h s a).trans (Kept.fold f h l (f s a))

theorem kept_setCore (s : State) (n : Nat) (c : Core) : Kept s (s.setCore n c) := .of_eq rfl rfl rfl
theorem kept_modCore (s : State) (n : Nat) (f : Core → Core) : Kept s (s.modCore n f) := .of_eq rfl rfl rfl
theorem kept_setCluster (s : State) (n : Nat) (c : Cluster) : Kept s (s.setCluster n c) := .of_eq rfl rfl rfl
theorem kept_setPart (s : State) (n : Nat) (p : Partition) : Kept s (s.setPart n p) := .of_eq rfl rfl rfl
theorem kept_modPart (s : State) (n : Nat) (f : Partition → Partition) : Kept s (s.modPart n f) := .of_eq (by simp) (by simp) (by simp)
theorem kept_setCtx (s : State) (p n : Nat) (c : Context) : Kept s (s.setCtx p n c) := .of_eq (by simp) (by simp) (by simp)
theorem kept_modCtx (s : State) (p n : Nat) (f : Context → Context) : Kept s (s.modCtx p n f) := .of_eq (by simp) (by simp) (by simp)
theorem kept_setFabGroup (s : State) (g : Nat) (x : FabGroup) : Kept s (s.setFabGroup g x) := .of_eq rfl rfl rfl
theorem kept_raiseVf (s : State) (p v : Nat) : Kept s (s.raiseVf p v) := .of_eq (by simp) (by simp) (by simp)
theorem kept_raisePf (s : State) (v : Nat) : Kept s (s.raisePf v) := .of_eq rfl rfl rfl
theorem kept_choose (s : State) : Kept s s.choose.2 := .of_eq (by simp) (by simp) (by simp)
theorem kept_tag (s : State) : Kept s s.tag.2 := .of_eq rfl rfl rfl
theorem kept_deliver (s : State) (w : WgId) (c : Cause) (pc pend g k : Nat) (o : Option Nat) :
    Kept s (s.deliver w c pc pend g k o).2 := .of_eq rfl rfl rfl
theorem kept_post (s : State) (w : WgId) (c : Cause) (pc : Nat) : Kept s (s.post w c pc) := .of_eq rfl rfl rfl

/-- A workgroup put into its own place. -/
theorem kept_setWg (s : State) (w : Wg) : Kept s (s.setWg w) := by
  refine ⟨id, fun h k x hk => ?_, rfl⟩
  by_cases hkk : k = w.id.core * 8 + w.id.slot
  · subst hkk
    rw [State.setWg_wgs, tabGet_tabSet_self] at hk
    cases hk; rfl
  · rw [State.setWg_wgs, tabGet_tabSet_ne _ _ _ _ hkk] at hk
    exact h k x hk

theorem kept_modWg (s : State) (c k : Nat) (f : Wg → Wg) : Kept s (s.modWg c k f) := by
  unfold State.modWg; split
  · exact kept_setWg _ _
  · exact Kept.refl _

theorem kept_delWg (s : State) (c k : Nat) : Kept s (s.delWg c k) := by
  refine ⟨id, fun h j x hj => ?_, rfl⟩
  rw [State.delWg_wgs, tabGet_tabDel] at hj
  split at hj
  · cases hj
  · exact h j x hj

/-- A change of every workgroup that leaves each where it is. -/
theorem kept_mapWgs (s : State) (f : Nat → Wg → Wg) (h : ∀ k w, (f k w).id = w.id) :
    Kept s { s with wgs := s.wgs.map fun e => (e.1, f e.1 e.2) } := by
  refine ⟨id, fun hs k x hk => ?_, rfl⟩
  have hk : tabGet (s.wgs.map fun e => (e.1, f e.1 e.2)) k = some x := hk
  rw [tabGet_map] at hk
  cases hw : tabGet s.wgs k with
  | none => simp [hw] at hk
  | some w =>
    simp only [hw, Option.map_some, Option.some.injEq] at hk
    subst hk
    rw [h]; exact hs k w hw

theorem kept_memWrite (s : State) (a : Nat) (bs : List Byte) : Kept s { s with mem := memWrite s.mem a bs } :=
  ⟨fun h => memWrite_wf _ _ _ h, id, rfl⟩
theorem kept_setPhys (s : State) (a n x : Nat) : Kept s (s.setPhys a n x) := kept_memWrite s a _
theorem kept_zeroPhys (s : State) (a n : Nat) : Kept s (s.zeroPhys a n) := ⟨memInv_zeroPhys s a n, id, rfl⟩

/-- A register write of an issuing path reaches no other place of the table. -/
theorem kept_retire (p : Path) (s : State) (n : Nat) (ws : List (Nat × List RegWrite)) : Kept s (p.retire s n ws) := kept_setWg _ _

theorem kept_raise (p : Path) (s : State) (c : Cause) (m : Bool) : Kept s (p.raise s c m) := by
  unfold Path.raise; simp only []
  split <;> exact (kept_deliver _ _ _ _ _ _ _ _).trans (kept_setWg _ _)

end Sys2Proof.Laws
end

