-- ==== Sys2Proof/Laws/Step.lean ====
section
/-! SUPPORT. What the shared operations around a meaning can do, each said once: finding what issues, waiting, computing, answering a
command, and the step. -/

namespace Sys2Proof.Laws
open Machine

/-! ### What issues -/

/-- Choices made leave everything but what is chosen from. -/
def Chose (s t : State) : Prop := t = { s with choice := t.choice, fresh := t.fresh }

theorem Chose.refl (s : State) : Chose s s := rfl

theorem Chose.trans {s t u : State} (a : Chose s t) (b : Chose t u) : Chose s u := by
  unfold Chose at *; rw [b, a]

theorem chose_choose (s : State) : Chose s s.choose.2 := by
  unfold Chose State.choose; split <;> rfl

theorem chose_fold {α β : Type} (f : β × State → α → β × State) (h : ∀ a x, Chose a.2 (f a x).2) :
    ∀ (l : List α) (a : β × State), Chose a.2 (l.foldl f a).2
  | [], a => Chose.refl a.2
  | x :: l, a => (h a x).trans (chose_fold f h l (f a x))

theorem chose_uniforms (s : State) (w : Wg) (n : Nat) : Chose s (s.uniforms w n).2 := by
  unfold State.uniforms
  refine chose_fold _ (fun a r => ?_) _ (w.s, s)
  dsimp only
  split
  · exact Chose.refl _
  · exact chose_choose _

/-- The path or control thread that issues, and its workgroup in the table. -/
theorem path_some {s s' : State} {p : Path} (h : s.path? = some (p, s')) :
    Chose s s' ∧ ∃ core slot, s.wg? core slot = some p.w ∧
      ((∃ g m, s.cur = some (.lanes core slot g m) ∧ p.ctl = false ∧ p.grp = g ∧ p.mask = m) ∨
       (s.cur = some (.ctrl core slot) ∧ p.ctl = true ∧ p.grp = 0 ∧ p.mask = 1 ∧ p.uni = p.w.s ∧ s' = s)) := by
  unfold State.path? at h
  split at h
  · cases h
  · next core slot g m hc =>
    rw [Option.map_eq_some_iff] at h
    obtain ⟨w, hw, h⟩ := h
    simp only [Prod.mk.injEq] at h
    obtain ⟨hp, hs⟩ := h
    subst hp hs
    exact ⟨chose_uniforms _ _ _, core, slot, hw, .inl ⟨g, m, hc, rfl, rfl, rfl⟩⟩
  · next core slot hc =>
    rw [Option.map_eq_some_iff] at h
    obtain ⟨w, hw, h⟩ := h
    simp only [Prod.mk.injEq] at h
    obtain ⟨hp, hs⟩ := h
    subst hp hs
    exact ⟨Chose.refl _, core, slot, hw, .inr ⟨hc, rfl, rfl, rfl, rfl, rfl⟩⟩

theorem Chose.kept {s t : State} (h : Chose s t) : Kept s t := by
  unfold Chose at h; rw [h]; exact .of_eq rfl rfl rfl

theorem Chose.mem {s t : State} (h : Chose s t) : t.mem = s.mem := by unfold Chose at h; rw [h]
theorem Chose.wgs {s t : State} (h : Chose s t) : t.wgs = s.wgs := by unfold Chose at h; rw [h]
theorem Chose.parts {s t : State} (h : Chose s t) : t.parts = s.parts := by unfold Chose at h; rw [h]
theorem Chose.cores {s t : State} (h : Chose s t) : t.cores = s.cores := by unfold Chose at h; rw [h]
theorem Chose.dev {s t : State} (h : Chose s t) : t.dev = s.dev := by unfold Chose at h; rw [h]
theorem Chose.fabric {s t : State} (h : Chose s t) : t.fabric = s.fabric := by unfold Chose at h; rw [h]
theorem Chose.tags {s t : State} (h : Chose s t) : t.tags = s.tags := by unfold Chose at h; rw [h]
theorem Chose.frecs {s t : State} (h : Chose s t) : t.frecs = s.frecs := by unfold Chose at h; rw [h]

/-! ### Meanings by their shape -/

/-- A meaning that only computes: a next state, or no thread issues. -/
theorem compute_cases {s : State} {g : Guard} {n : Nat} {op : Path → Thread → List RegWrite} :
    (s.path? = none ∧ compute s g n op = .fault .noThread) ∨
    ∃ p s', s.path? = some (p, s') ∧ compute s g n op = .next (p.retire s' n ((p.active g).map fun e => (e.1, op p e.2))) := by
  unfold compute
  cases h : s.path? with
  | none => exact .inl ⟨rfl, rfl⟩
  | some q => exact .inr ⟨q.1, q.2, rfl, rfl⟩

theorem compute_kept {s t : State} {g : Guard} {n : Nat} {op : Path → Thread → List RegWrite} (h : compute s g n op = .next t) :
    Kept s t := by
  obtain ⟨-, e⟩ | ⟨p, s', hp, e⟩ := compute_cases (s := s) (g := g) (n := n) (op := op)
  · rw [e] at h; cases h
  · rw [e] at h; cases h
    exact (path_some hp).1.kept.trans (kept_retire _ _ _ _)

/-- A command's row: its mailbox holds no such command, a reserved byte is set, it waits, or it is carried out and answered. -/
theorem runCommand_cases (fn : Fn) (code : Nat) (named : List (Nat × Nat)) (act : List Byte → State → Option CmdDone) (s : State) :
    runCommand fn code named act s = .next s ∨
    ∃ m, s.mbox? fn = some m ∧ m.busy = true ∧ cmdCode m.issued = code ∧ s.answersCmd = true ∧ s.takesCmd fn code = true ∧
      ((cmdZeroOk m.issued named = false ∧ runCommand fn code named act s = .next (s.respond fn code mrBadParam [])) ∨
       (cmdZeroOk m.issued named = true ∧ ∃ d, act m.issued s = some d ∧
         runCommand fn code named act s = .next (d.state.respond fn code d.result d.data))) := by
  unfold runCommand
  cases hm : s.mbox? fn with
  | none => exact .inl rfl
  | some m =>
    dsimp only
    split
    · exact .inl rfl
    · next hc =>
      simp only [Bool.or_eq_true, Bool.not_eq_true', bne_iff_ne, ne_eq, not_or, Bool.not_eq_false, Decidable.not_not] at hc
      obtain ⟨⟨⟨h1, h2⟩, h3⟩, h4⟩ := hc
      split
      · next hz => exact .inr ⟨m, rfl, h1, h2, h3, h4, .inl ⟨by simpa using hz, rfl⟩⟩
      · next hz =>
        cases ha : act m.issued s with
        | none => exact .inl rfl
        | some d => exact .inr ⟨m, rfl, h1, h2, h3, h4, .inr ⟨by simpa using hz, d, ha, rfl⟩⟩

theorem kept_respond (s : State) (fn : Fn) (code result : Nat) (data : List Byte) : Kept s (s.respond fn code result data) := by
  cases fn with
  | pf0 => exact .of_eq rfl rfl rfl
  | vf n => exact (kept_modPart _ _ _).trans (kept_raiseVf _ _ _)

/-- A command keeps what its effect keeps. -/
theorem runCommand_kept {fn : Fn} {code : Nat} {named : List (Nat × Nat)} {act : List Byte → State → Option CmdDone} {s t : State}
    (ha : ∀ cmd d, act cmd s = some d → Kept s d.state) (h : runCommand fn code named act s = .next t) : Kept s t := by
  obtain e | ⟨m, -, -, -, -, -, ⟨-, e⟩ | ⟨-, d, hd, e⟩⟩ := runCommand_cases fn code named act s
  · rw [e] at h; cases h; exact Kept.refl _
  · rw [e] at h; cases h; exact kept_respond _ _ _ _ _
  · rw [e] at h; cases h; exact (ha _ d hd).trans (kept_respond _ _ _ _ _)

/-! ### The step -/

theorem kept_endPair (s : State) (q : Pair) : Kept s (s.endPair q) := kept_modWg _ _ _ _

theorem kept_shift (s : State) : Kept s s.shift := by
  unfold State.shift
  split
  · exact .of_eq rfl rfl rfl
  · exact Kept.trans (t := { s with cur := none, pairs := [] }) (.of_eq rfl rfl rfl) (Kept.fold _ kept_endPair _ _)

theorem kept_noteIssued (s : State) (p : Path) : Kept s (s.noteIssued p) := by
  unfold State.noteIssued; split
  · exact Kept.refl _
  · exact .of_eq rfl rfl rfl

/-- What a step can be, before contexts keep what memory was: the issue of the present path, or the agenda's next turn. -/
theorem stepCore_cases (s : State) :
    (∃ r, s.cur = some r ∧ stepCore s = stepIssue s) ∨
    (s.cur = none ∧ s.agenda = [] ∧ stepCore s = .next s) ∨
    ∃ t ts, s.cur = none ∧ s.agenda = t :: ts ∧ stepCore s = stepTurn t { s with agenda := ts } := by
  unfold stepCore
  cases hc : s.cur with
  | some r => exact .inl ⟨r, rfl, rfl⟩
  | none =>
    cases ha : s.agenda with
    | nil => exact .inr (.inl ⟨rfl, rfl, rfl⟩)
    | cons t ts => exact .inr (.inr ⟨t, ts, rfl, rfl, rfl⟩)

/-- A step answers what its core answers, after which contexts keep what memory was. -/
theorem step_next {s u : State} (h : step s = .next u) : ∃ t, stepCore s = .next t ∧ u = t.remember s := by
  unfold step at h
  split at h
  · next t ht => cases h; exact ⟨t, ht, rfl⟩
  · next x _ => exact absurd h (by simp_all)

theorem remember_wgs (t s : State) : (t.remember s).wgs = t.wgs := by unfold State.remember; split <;> rfl
theorem remember_mem (t s : State) : (t.remember s).mem = t.mem := by unfold State.remember; split <;> rfl
theorem remember_dev (t s : State) : (t.remember s).dev = t.dev := by unfold State.remember; split <;> rfl
theorem remember_cores (t s : State) : (t.remember s).cores = t.cores := by unfold State.remember; split <;> rfl
theorem remember_agenda (t s : State) : (t.remember s).agenda = t.agenda := by unfold State.remember; split <;> rfl
theorem remember_same {t s : State} (h : t.mem = s.mem) : t.remember s = t := by unfold State.remember; rw [if_pos h]

end Sys2Proof.Laws
end

