-- ==== Sys2Proof/Laws/Shared.lean ====
section
/-! SUPPORT. What the operations that several meanings share can do, each said once: operations gathered by place, frames marked as
tables, the resolution of a page that is there, and the dispatcher's read of a pointer cell. -/

namespace Sys2Proof.Laws
open Machine

/-- Gathering by place loses no lane and adds none. -/
theorem mem_byPlace (ea : LaneOp → Nat) (os : List LaneOp) (o : LaneOp) : o ∈ byPlace ea os ↔ o ∈ os := by
  simp only [byPlace, List.mem_flatMap, List.mem_filter, beq_iff_eq]
  exact ⟨fun ⟨_, _, h, _⟩ => h, fun h => ⟨ea o, List.mem_eraseDups.mpr (List.mem_map_of_mem h), h, rfl⟩⟩

@[simp] theorem markTable_mem (s : State) (b : Nat) : (s.markTable b).mem = s.mem := rfl
@[simp] theorem markTable_wgs (s : State) (b : Nat) : (s.markTable b).wgs = s.wgs := rfl

/-- Marking a frame as a table moves no frame: their bases stay what they were. -/
theorem markTable_bases (s : State) (b : Nat) : (s.markTable b).frames.map (·.base) = s.frames.map (·.base) := by
  simp only [State.markTable, List.map_map]
  exact List.map_congr_left fun f _ => by simp only [Function.comp]; split <;> rfl

/-- The resolution of a NOT_PRESENT record leaves a page that is present by now, and with it all of the state, as it is (log 119,
DESIGN CHOICE). -/
theorem resolve_present {s : State} {pid ctx va : Nat} {c : Context} {r : BitVec 256} {l : Leaf} (hc : s.ctx? pid ctx = some c)
    (hr : c.regionOf va = some r) (hk : rgKind r = 1 ∨ rgKind r = 3) (hl : s.walk va c.l4base 4 = .ok l) :
    s.resolve pid ctx va cTranslation 1 = .installed s := by
  have hd : (cTranslation == cDiscarded) = false := by decide
  simp [State.resolve, hc, hr, hk, hl, hd, Except.toOption]

/-- The dispatcher's read of a pointer cell writes no memory. -/
theorem readCell_mem (s : State) (who : Who) (va now : Nat) : (s.readCell who va now).2.mem = s.mem := by
  unfold State.readCell
  split
  · rfl
  · simp only [State.modCtx_mem]
    split <;> simp

/-! ### Fusion (R181) -/

/-- What two groups that can be fused have: each its unpromoted path p1, at one PC and on disjoint lanes, with one instruction that
fusion admits, no losing path waiting, and neither is halted. -/
theorem canFuse_some {s : State} {w : Wg} {g h : Nat} (hf : s.canFuse w g h = true) :
    ∃ a b p q i mj f mj' f', w.slots g = some (a, p, false) ∧ w.slots h = some (b, q, false) ∧ a.1 = b.1 ∧ a.2 &&& b.2 = 0 ∧
      s.ready (w.lanesRef g a.2) = .run i mj f ∧ s.ready (w.lanesRef h b.2) = .run i mj' f' ∧
      neverFused mj = false ∧ neverFused mj' = false ∧ (w.group g).halted = false ∧ (w.group h).halted = false := by
  have one : ∀ k a i, s.fusable w k = some (a, i) → ∃ p mj f, w.slots k = some (a, p, false) ∧
      s.ready (w.lanesRef k a.2) = .run i mj f ∧ neverFused mj = false ∧ (w.group k).halted = false := by
    intro k a i hk
    unfold State.fusable at hk
    split at hk
    · next a' p hs =>
      simp only at hk
      split at hk
      · cases hk
      · next hh =>
        split at hk
        · next i' mj f hr =>
          split at hk
          · cases hk
          · next hn => cases hk; exact ⟨p, mj, f, hs, hr, by simpa using hn, by simp_all⟩
        · cases hk
    · cases hk
  unfold State.canFuse at hf
  split at hf
  · next a i b j ha hb =>
    obtain ⟨p, mj, f, h1, h2, h3, h4⟩ := one g a i ha
    obtain ⟨q, mj', f', h5, h6, h7, h8⟩ := one h b j hb
    simp only [Bool.and_eq_true, beq_iff_eq] at hf
    obtain ⟨⟨e1, e2⟩, rfl⟩ := hf
    exact ⟨a, b, p, q, i, mj, f, mj', f', h1, h5, e1, e2, h2, h6, h3, h7, h4, h8⟩
  · cases hf

/-- A fused issue keeps memory and every workgroup in its place. -/
theorem kept_selectFused (s : State) (w : Wg) (g h : Nat) : Kept s (s.selectFused w g h) := by
  unfold State.selectFused
  split
  · simp only
    split <;> exact Kept.trans (kept_choose s) (Kept.trans (kept_setWg _ _) (.of_eq rfl rfl rfl))
  · exact Kept.refl _

end Sys2Proof.Laws
end

