-- ==== Sys2Proof/Tests/Slice0.lean ====
section
/-! SUPPORT. The model's own tests: words written out from the encoding tables, ill-formed terms, and for every statement that has
premises a machine that meets them. Expected results come from the manual's tables and examples, or from hand calculation. -/

namespace Sys2Proof.Tests
open Machine Claims
set_option Elab.async false

/-! ### Helpers -/

/-- Long-form fields, all zero: guard p0, registers 0, type .UI32. -/
def f0 : LForm :=
  { kind := .l, g := { neg := false, p := 0 }, d := 0, a := 0, b := 0, c := 0, f := 0, la := 0, ty := .ui32, m := 0
    s := 0, x := 0, w2 := 0, lit := 0 }

/-- Short-form fields, all zero. -/
def s0 : SForm := { g := { neg := false, p := 0 }, d := 0, a := 0, b := 0 }

/-- The bytes of an instruction's 32-bit words (R6, R189). -/
def ofWords (ws : List Nat) : List Byte := ws.flatMap fun w => leBytes 4 w

/-- What the words decode to. -/
def reads (ws : List Nat) : Option Instr := match decode (ofWords ws) with | .ok (i, n) => if n = 4 * ws.length then some i else none | .error _ => none

/-! ### Words of each family, field by field: Word 0 as B, A, D, GN, GP, OP, LEN; Word 1 as X, S, M, T, LA, C, F (Table 7-1) -/

/-- Example 8-1: ADD v4, v4, 1 with a literal. -/
theorem test_word_add : reads [0b000000_000100_000100_0_0000_0010000_10, 1, 0]
    = some (.add { f0 with kind := .sl, d := 4, a := 4, lit := 1 }) := by decide +kernel

/-- MAD.SI64.SAT v6, v8, 5, v10: the literal replaces B in LEN 11 (Table 8-2, R220). -/
theorem test_word_mad : reads [0b000000_001000_000110_0_0000_0010100_11, 0b000_000_0001_0011_0000_001010_00000000, 0, 5, 0]
    = some (.mad { f0 with kind := .ll, d := 6, a := 8, c := 10, ty := .si64, m := 1, lit := 5 }) := by decide +kernel

/-- Example 8-1: ICMP.LT with the uniform s16 against v4, into p1. -/
theorem test_word_icmp : reads [0b000000_000100_000001_0_0000_0100100_01, 0b010_000_0000_0000_0000_000000_00000010, 0]
    = some (.icmp { f0 with d := 1, a := 4, f := 2, x := 2 }) := by decide +kernel

/-- @!p3 CALL L form with DISP[17:0] = 5 and an upper displacement of 1 (Table 8-1). -/
theorem test_word_call : reads [0b000000_000000_000101_1_0011_0000011_01, 0, 1]
    = some (.call { f0 with g := { neg := true, p := 3 }, d := 5, w2 := 1 }) := by decide +kernel

/-- TRAP with CODE 0x3_0001 in Word 0 [31:14] (Table 8-1). -/
theorem test_word_trap : reads [0b110000_000000_000001_0_0000_0001010_00]
    = some (.trapShort { neg := false, p := 0 } 0x3_0001#18) := by decide +kernel

/-- SCANG.MAX.EXCL.SI32 v5, v4: F = 2, M = 1 (Table 8-4). -/
theorem test_word_scang : reads [0b000000_000100_000101_0_0000_0101011_01, 0b000_000_0001_0001_0000_000000_00000010, 0]
    = some (.scang { f0 with d := 5, a := 4, f := 2, m := 1, ty := .si32 }) := by decide +kernel

/-- FADD.BF16 v1, v2, s3 with M = 9 and the magnitude of a, the negation of b (Table 12-1, R338). -/
theorem test_word_fadd : reads [0b000011_000010_000001_0_0000_1001000_01, 0b010_000_1001_1010_0000_000000_00000000, 0b0110]
    = some (.fadd { f0 with d := 1, a := 2, b := 3, x := 2, ty := .bf16, m := 9, w2 := 6 }) := by decide +kernel

/-- RCP v7, v8 with lookahead 3 (Table 12-1). -/
theorem test_word_rcp : reads [0b000000_001000_000111_0_0000_1010011_01, 0b000_000_0000_1000_0011_000000_00000000, 0]
    = some (.rcp { f0 with d := 7, a := 8, ty := .f32, la := 3 }) := by decide +kernel

/-- LD.SP.16.SX.ACQ.DEV v4, [v5 + 8] with lookahead 2 (Table 10-1): F = 01_0_0_1_001. -/
theorem test_word_ld : reads [0b000000_000101_000100_0_0000_0110000_01, 0b000_010_0001_0000_0010_000000_01001001, 8]
    = some (.ld { f0 with d := 4, a := 5, f := 0x49, m := 1, s := 2, la := 2, w2 := 8 }) := by decide +kernel

/-- ATOM.ADD.G.UI64.DEV v6, [v2:v3 − 8], literal 1: LB = 1 (Table 10-1, R279). -/
theorem test_word_atom : reads [0b000000_000010_000110_0_0000_0110101_11, 0b000_010_0000_0010_0000_000000_00100000, 0xFFFFFFF8, 1, 0]
    = some (.atom { f0 with kind := .ll, d := 6, a := 2, f := 0x20, ty := .ui64, s := 2, w2 := 0xFFFFFFF8, lit := 1 }) := by
  decide +kernel

/-- LVARV.AR.CL v4, [v2:v3 + 16], v6 (Table 10-1). -/
theorem test_word_lvarv : reads [0b000110_000010_000100_0_0000_0111100_01, 0b000_001_0011_0000_0000_000000_00000000, 16]
    = some (.lvarv { f0 with d := 4, a := 2, b := 6, m := 3, s := 1, w2 := 16 }) := by decide +kernel

/-- RATOM.CAS.G.UI64 v4:v5, [v2:v3], v6:v7, v8:v9 (Tables 10-1 and 10-2). -/
theorem test_word_ratom : reads [0b000110_000010_000100_0_0000_1000011_01, 0b000_011_0000_0010_0000_001000_00001000, 0]
    = some (.ratom { f0 with d := 4, a := 2, b := 6, c := 8, f := 8, s := 3, ty := .ui64 }) := by decide +kernel

/-- MXMUL.Q2.P4 k8, k9 of descriptor 7, tile 3 (Table 13-2). -/
theorem test_word_mxmul : reads [0b001001_001000_000000_0_0000_1100010_01, 0b000_000_0011_0000_0000_000000_00000010, 0x0007_0003]
    = some (.mxmul { f0 with a := 8, b := 9, f := 2, m := 3, w2 := 0x70003 }) := by decide +kernel

/-- CPYG k4 with a literal offset of 256 (Table 14-1). -/
theorem test_word_cpyg : reads [0b000000_000100_000000_0_0000_1101101_11, 0, 0, 256, 0]
    = some (.cpyg { f0 with kind := .ll, a := 4, lit := 256 }) := by decide +kernel

/-- SQOP.APPEND k4:k5, k6, k7 with lookahead 1 (Table 14-1). -/
theorem test_word_sqop : reads [0b000111_000110_000100_0_0000_1110000_01, 0b000_000_0000_0000_0001_000000_00000001, 0]
    = some (.sqopAppend { f0 with d := 4, a := 6, b := 7, f := 1, la := 1 }) := by decide +kernel

/-- RETIRE.FAB.ARRIVE k4, k5, k6, k7: ACT 1 and F[2] (Table 14-1). -/
theorem test_word_retire : reads [0b000110_000101_000100_0_0000_1110100_01, 0b000_000_0000_0000_0000_000111_00000101, 0]
    = some (.retire { f0 with d := 4, a := 5, b := 6, c := 7, f := 5 }) := by decide +kernel

/-- REQOP.GET k4:k5, k6, field 3 (Table 14-1). -/
theorem test_word_reqop : reads [0b000000_000110_000100_0_0000_1111000_01, 0b000_000_0000_0000_0000_000000_00000010, 3]
    = some (.reqopGet { f0 with d := 4, a := 6, f := 2, w2 := 3 }) := by decide +kernel

/-- CSRW of FIFOCFG (0x18) from k5 (Tables 14-1 and 14-6). -/
theorem test_word_csrw : reads [0b000000_000101_000000_0_0000_1111011_01, 0, 0x18]
    = some (.csrwFifocfg { f0 with a := 5, w2 := 0x18 }) := by decide +kernel

/-- WAIT.CYC k5, @q1 (Table 14-1). -/
theorem test_word_wait : reads [0b000000_000101_000000_0_0001_1111101_01, 0b000_000_0000_0000_0000_000000_00000001, 0]
    = some (.waitCyc { f0 with g := { neg := false, p := 1 }, a := 5, f := 1 }) := by decide +kernel

/-- R207: OP 0x0D is reserved, whatever its other bits. -/
theorem test_word_reserved : reads [0b000000_000000_000000_0_0000_0001101_00] = none := by decide +kernel

/-- R192: NOP uses no register, so a D of 1 is no instruction. -/
theorem test_word_unused_field : reads [0b000000_000000_000001_0_0000_0001100_00] = none := by decide +kernel

/-- The words of Example 8-1 (ADD) written back from the instruction. -/
theorem test_encode_add : encode (.add { f0 with kind := .sl, d := 4, a := 4, lit := 1 }) = ofWords [0x0041_0042, 1, 0] := by
  decide +kernel

/-- The first word of a table row is read from its low bits (R6): SYNCG.GRP of 96 bits. -/
theorem test_table_word : decodeTableWord 96 0x1_0000_001D = some (.syncgGrp { f0 with f := 1 }) := by decide +kernel

/-! ### A word for each constructor: its hexadecimal words, packed by hand from Table 7-1 and the entry of its row -/

/-- Words and what they stand for. -/
def allRead (l : List (List Nat × Instr)) : Bool := l.all fun e => reads e.1 == some e.2

/-- Control-flow (Table 8-1). -/
theorem test_words_control_flow : allRead [
    ([0xA970E604], .braShort { neg := true, p := 3 } 173507),
    ([0x568F0005, 0x0, 0x80000001], .bra { f0 with d := 60, a := 40, b := 21, w2 := 0x80000001 }),
    ([0x400008], .brxShort { s0 with a := 4 }),
    ([0x500009, 0x0, 0xFFFFFFF0], .brx { f0 with a := 5, w2 := 0xFFFFFFF0 }),
    ([0x400C], .callShort { neg := false, p := 0 } 1),
    ([0xFFFFC00D, 0x0, 0x2], .call { f0 with d := 63, a := 63, b := 63, w2 := 0x2 }),
    ([0x418010], .callxShort { s0 with d := 6, a := 4 }),
    ([0x828011, 0x0, 0x10], .callx { f0 with d := 10, a := 8, w2 := 0x10 }),
    ([0x3E00014], .ret { s0 with a := 62 }),
    ([0x1E18], .exit { s0 with g := { neg := false, p := 15 } }),
    ([0x1C], .syncgShort s0),
    ([0x1D, 0x0, 0x0], .syncg f0),
    ([0x1D, 0x1, 0x0], .syncgGrp { f0 with f := 1 }),
    ([0x20], .yield s0),
    ([0xFFFFC024], .bkpt { neg := false, p := 0 } 262143),
    ([0x24028], .trapShort { neg := false, p := 0 } 9),
    ([0x1C029, 0x0, 0x3FFF], .trap { f0 with d := 7, w2 := 0x3FFF }),
    ([0x1802C], .dqpop { s0 with d := 6 }),
    ([0x2030], .nopShort { s0 with g := { neg := true, p := 0 } }),
    ([0x31, 0x0, 0x0], .nop f0),
    ([0x140001E4], .dqpushShort { s0 with b := 5 }),
    ([0x180001E5, 0x80000, 0x0], .dqpush { f0 with b := 6, ty := .ui64 }),
    ([0x1E6, 0x9ABCDEF0, 0x12345678], .dqpush { f0 with kind := .sl, ty := .ui64, lit := 0x123456789ABCDEF0 })] = true := by decide +kernel

/-- Integer (Table 8-2). -/
theorem test_words_integer : allRead [
    ([0xC204040], .addShort { s0 with d := 1, a := 2, b := 3 }),
    ([0xC204041, 0x5C0000, 0x0], .add { f0 with d := 1, a := 2, b := 3, m := 1, ty := .si8 }),
    ([0x408043, 0xC0000, 0x0, 0x9, 0x0], .add { f0 with kind := .ll, d := 2, a := 4, ty := .si64, lit := 0x9 }),
    ([0xC204044], .subShort { s0 with d := 1, a := 2, b := 3 }),
    ([0xC204045, 0x140000, 0x0], .sub { f0 with d := 1, a := 2, b := 3, ty := .si16 }),
    ([0xC204048], .mulShort { s0 with d := 1, a := 2, b := 3 }),
    ([0x20404A, 0x0, 0x80000000], .mul { f0 with kind := .sl, d := 1, a := 2, lit := 0x8000000000000000 }),
    ([0xF7EFC04C], .mulhShort { s0 with d := 63, a := 62, b := 61 }),
    ([0x1840804D, 0xC0000, 0x0], .mulh { f0 with d := 2, a := 4, b := 6, ty := .si64 }),
    ([0xC204051, 0x40400, 0x0], .mad { f0 with d := 1, a := 2, b := 3, c := 4, ty := .si32 }),
    ([0xC204054], .minmaxShort { s0 with d := 1, a := 2, b := 3 }),
    ([0xC204055, 0x100001, 0x0], .minmax { f0 with d := 1, a := 2, b := 3, f := 1, ty := .ui16 }),
    ([0x204058], .absnegShort { s0 with d := 1, a := 2 }),
    ([0x204059, 0x580001, 0x0], .absneg { f0 with d := 1, a := 2, f := 1, m := 1, ty := .ui8 }),
    ([0xC20405C], .andShort { s0 with d := 1, a := 2, b := 3 }),
    ([0x1840805D, 0x80000, 0x0], .and_ { f0 with d := 2, a := 4, b := 6, ty := .ui64 }),
    ([0xC204060], .orShort { s0 with d := 1, a := 2, b := 3 }),
    ([0x408062, 0xFF, 0x0], .or_ { f0 with kind := .sl, d := 2, a := 4, lit := 0xFF }),
    ([0xC204064], .xorShort { s0 with d := 1, a := 2, b := 3 }),
    ([0x18408065, 0x60000000, 0x0], .xor_ { f0 with d := 2, a := 4, b := 6, x := 3 }),
    ([0xC204069, 0x4E8, 0x0], .tern { f0 with d := 1, a := 2, b := 3, c := 4, f := 232 }),
    ([0xC20406C], .shlShort { s0 with d := 1, a := 2, b := 3 }),
    ([0xC20406D, 0x440000, 0x0], .shl { f0 with d := 1, a := 2, b := 3, m := 1, ty := .si32 }),
    ([0xC204070], .shrShort { s0 with d := 1, a := 2, b := 3 }),
    ([0x14408071, 0x80000, 0x0], .shr { f0 with d := 2, a := 4, b := 5, ty := .ui64 }),
    ([0xC204074], .sarShort { s0 with d := 1, a := 2, b := 3 }),
    ([0x14408075, 0xC0000, 0x0], .sar { f0 with d := 2, a := 4, b := 5, ty := .si64 }),
    ([0xC204079, 0x440000, 0x0], .bfe { f0 with d := 1, a := 2, b := 3, m := 1, ty := .si32 }),
    ([0xC20407D, 0x400400, 0x0], .bfi { f0 with d := 1, a := 2, b := 3, c := 4, m := 1 }),
    ([0x204080], .bitcShort { s0 with d := 1, a := 2 }),
    ([0x204081, 0x3, 0x0], .bitc { f0 with d := 1, a := 2, f := 3 }),
    ([0xC004084], .movShort { s0 with d := 1, b := 3 }),
    ([0x10008085, 0x40080000, 0x0], .mov { f0 with d := 2, b := 4, x := 2, ty := .ui64 }),
    ([0x95A24088], .moviShort { neg := false, p := 0 } 9 2394),
    ([0x24089, 0x0, 0xDEADBEEF], .movi { f0 with d := 9, w2 := 0xDEADBEEF }),
    ([0xC20408D, 0x400, 0x0], .sel { f0 with d := 1, a := 2, b := 3, c := 4 }),
    ([0x1840809C], .leaShort { s0 with d := 2, a := 4, b := 6 }),
    ([0x1840809D, 0x2C80000, 0x0], .lea { f0 with d := 2, a := 4, b := 6, m := 11, ty := .ui64 }),
    ([0x40B0], .srdShort { s0 with d := 1 }),
    ([0x80B1, 0xE, 0x0], .srd { f0 with d := 2, f := 14 }),
    ([0x4040B5, 0x5C0003, 0x0], .cvti { f0 with d := 1, a := 4, f := 3, m := 1, ty := .si8 })] = true := by decide +kernel

/-- Predicates and groups (Tables 8-3 and 8-4). -/
theorem test_words_predicates_and_groups : allRead [
    ([0x404093, 0xC40305, 0x0, 0x4D, 0x0], .icmp { f0 with kind := .ll, d := 1, a := 4, c := 3, f := 5, m := 3, ty := .si32, lit := 0x4D }),
    ([0xC204094], .plopShort { s0 with d := 1, a := 2, b := 3 }),
    ([0x204095, 0x5, 0x0], .plop { f0 with d := 1, a := 2, f := 5 }),
    ([0x14098], .pmovGetShort { s0 with d := 5 }),
    ([0x14099, 0x0, 0x0], .pmovGet { f0 with d := 5 }),
    ([0x600099, 0x1, 0x0], .pmovSet { f0 with a := 6, f := 1 }),
    ([0xC2040A0], .lxchShort { s0 with d := 1, a := 2, b := 3 }),
    ([0xC2040A1, 0x3, 0x0], .lxch { f0 with d := 1, a := 2, b := 3, f := 3 }),
    ([0x2040A4], .gqryShort { s0 with d := 1, a := 2 }),
    ([0x2040A5, 0x4, 0x0], .gqry { f0 with d := 1, a := 2, f := 4 }),
    ([0x2040A8], .redgShort { s0 with d := 1, a := 2 }),
    ([0x2040A9, 0x40005, 0x0], .redg { f0 with d := 1, a := 2, f := 5, ty := .si32 }),
    ([0x2040AC], .scangShort { s0 with d := 1, a := 2 }),
    ([0x4080AD, 0x4C0001, 0x0], .scang { f0 with d := 2, a := 4, f := 1, m := 1, ty := .si64 })] = true := by decide +kernel

/-- Memory (Table 10-1). -/
theorem test_words_memory : allRead [
    ([0x6140C1, 0x3C082, 0x4], .ld { f0 with d := 5, a := 6, f := 130, la := 15, w2 := 0x4 }),
    ([0x6000C7, 0x10800022, 0xFFFFFFFC, 0x5, 0x0], .st { f0 with kind := .ll, a := 6, f := 34, m := 2, s := 4, w2 := 0xFFFFFFFC, lit := 0x5 }),
    ([0x6140C9, 0x47C0841, 0xC0003], .ldt { f0 with d := 5, a := 6, c := 8, f := 65, m := 1, s := 1, ty := .b, w2 := 0xC0003 }),
    ([0x146000CD, 0x3C0000, 0xFFF8000], .stt { f0 with a := 6, b := 5, ty := .b, w2 := 0xFFF8000 }),
    ([0x6140D1, 0x4209, 0x8], .ldnr { f0 with d := 5, a := 6, c := 2, f := 9, la := 1, w2 := 0x8 }),
    ([0x1C6140D5, 0x9048042, 0x0], .atom { f0 with d := 5, a := 6, b := 7, f := 66, la := 2, m := 4, s := 2, ty := .si32 }),
    ([0x1C6140D9, 0x4440940, 0x0], .cas { f0 with d := 5, a := 6, b := 7, c := 9, f := 64, m := 1, s := 1, ty := .si32 }),
    ([0x6000DF, 0xCA00000, 0x0, 0x0, 0x100], .scadd { f0 with kind := .ll, a := 6, m := 2, s := 3, ty := .f32, lit := 0x10000000000 }),
    ([0x6000E1, 0x0, 0x18], .alb { f0 with a := 6, w2 := 0x18 }),
    ([0x40E5, 0x8800000, 0x0], .ale { f0 with d := 1, m := 2, s := 2 }),
    ([0xE9, 0x5000000, 0x0], .fence { f0 with m := 4, s := 1 }),
    ([0xE9, 0x8000001, 0x0], .fenceAlias { f0 with f := 1, s := 2 }),
    ([0x4000EF, 0x21, 0x0, 0x1000, 0x0], .lvinit { f0 with kind := .ll, a := 4, f := 33, lit := 0x1000 }),
    ([0x206100F1, 0x8800000, 0x0], .lvarv { f0 with d := 4, a := 6, b := 8, m := 2, s := 2 }),
    ([0x106000F5, 0x8400000, 0x0], .lvwait { f0 with a := 6, b := 4, m := 1, s := 2 }),
    ([0x4000F9, 0x8C00000, 0x0], .sstepDev { f0 with a := 4, m := 3, s := 2 }),
    ([0x4000F9, 0xCC00000, 0x0], .sstepFab { f0 with a := 4, m := 3, s := 3 }),
    ([0x6140FD, 0x0, 0x703], .wopen { f0 with d := 5, a := 6, w2 := 0x703 }),
    ([0x14101, 0x0, 0x7F], .wclose { f0 with d := 5, w2 := 0x7F }),
    ([0x614105, 0xC40C002, 0x0], .rld { f0 with d := 5, a := 6, f := 2, la := 3, m := 1, s := 3 }),
    ([0x20600109, 0xC800003, 0x0], .rst { f0 with a := 6, b := 8, f := 3, m := 2, s := 3 }),
    ([0x1C61410D, 0xCC00001, 0x0], .ratom { f0 with d := 5, a := 6, b := 7, f := 1, m := 3, s := 3 }),
    ([0x600113, 0x21, 0x0, 0x10000, 0x0], .pfetch { f0 with kind := .ll, a := 6, f := 33, lit := 0x10000 }),
    ([0x18414115, 0x0, 0x0], .discard { f0 with d := 5, a := 4, b := 6 })] = true := by decide +kernel

/-- Vector (Table 12-1). -/
theorem test_words_vector : allRead [
    ([0xC204120], .faddShort { s0 with d := 1, a := 2, b := 3 }),
    ([0x204123, 0x1640000, 0x2, 0x3C00, 0x0], .fadd { f0 with kind := .ll, d := 1, a := 2, m := 5, ty := .f16, w2 := 0x2, lit := 0x3C00 }),
    ([0xC204124], .fmulShort { s0 with d := 1, a := 2, b := 3 }),
    ([0x204126, 0x3F800000, 0x0], .fmul { f0 with kind := .sl, d := 1, a := 2, ty := .f32, lit := 0x3F800000 }),
    ([0xC204129, 0x83E00400, 0x1], .ffma { f0 with d := 1, a := 2, b := 3, c := 4, m := 15, x := 4, ty := .f32, w2 := 0x1 }),
    ([0xC20412C], .fminmaxShort { s0 with d := 1, a := 2, b := 3 }),
    ([0xC20412D, 0x280003, 0x0], .fminmax { f0 with d := 1, a := 2, b := 3, f := 3, ty := .bf16 }),
    ([0xC204131, 0xA00507, 0x0], .fcmp { f0 with d := 1, a := 2, b := 3, c := 5, f := 7, m := 2, ty := .f32 }),
    ([0x204135, 0x340000, 0x1FF], .fclass { f0 with d := 1, a := 2, ty := .f4e2m1, w2 := 0x1FF }),
    ([0x204139, 0xAC0008, 0x0], .fcvt { f0 with d := 1, a := 2, f := 8, m := 2, ty := .f8e4m3 }),
    ([0x40813D, 0xCC0009, 0x0], .fcvti { f0 with d := 2, a := 4, f := 9, m := 3, ty := .si64 }),
    ([0x204141, 0x280002, 0x0], .icvtf { f0 with d := 1, a := 2, f := 2, ty := .bf16 }),
    ([0x204144], .ex2Short { s0 with d := 1, a := 2 }),
    ([0x204145, 0x210000, 0x0], .ex2 { f0 with d := 1, a := 2, la := 4, ty := .f32 }),
    ([0x204148], .lg2Short { s0 with d := 1, a := 2 }),
    ([0x204149, 0x2200000, 0x0], .lg2 { f0 with d := 1, a := 2, m := 8, ty := .f32 }),
    ([0x20414C], .rcpShort { s0 with d := 1, a := 2 }),
    ([0x20414D, 0x20200000, 0x0], .rcp { f0 with d := 1, a := 2, x := 1, ty := .f32 }),
    ([0x204150], .rsqShort { s0 with d := 1, a := 2 }),
    ([0x204151, 0x23C000, 0x0], .rsq { f0 with d := 1, a := 2, la := 15, ty := .f32 }),
    ([0xC204155, 0x680400, 0x0], .fdot2 { f0 with d := 1, a := 2, b := 3, c := 4, m := 1, ty := .bf16 }),
    ([0xC204159, 0x740403, 0x0], .pack { f0 with d := 1, a := 2, b := 3, c := 4, f := 3, m := 1, ty := .f4e2m1 }),
    ([0x20415D, 0x340007, 0x0], .unpack { f0 with d := 1, a := 2, f := 7, ty := .f4e2m1 }),
    ([0x204161, 0x380006, 0x210000], .cbdec { f0 with d := 1, a := 2, f := 6, ty := .cb4, w2 := 0x210000 })] = true := by decide +kernel

/-- Matrix (Table 13-2). -/
theorem test_words_matrix : allRead [
    ([0x181, 0x3, 0xFFFF], .mxzero { f0 with f := 3, w2 := 0xFFFF }),
    ([0x14400185, 0x3C00000, 0x70000], .plane { f0 with a := 4, b := 5, m := 15, w2 := 0x70000 }),
    ([0x84400189, 0x1C00001, 0x7000F], .mxmul { f0 with a := 4, b := 33, f := 1, m := 7, w2 := 0x7000F }),
    ([0x1440018F, 0x6, 0x20001, 0x1000, 0x0], .mxspm { f0 with kind := .ll, a := 4, b := 5, f := 6, w2 := 0x20001, lit := 0x1000 }),
    ([0x14400191, 0xC00678, 0xABCDE3F5], .mxepi { f0 with a := 4, b := 5, c := 6, f := 120, m := 3, w2 := 0xABCDE3F5 }),
    ([0x14400195, 0x605, 0x30002], .mxstore { f0 with a := 4, b := 5, c := 6, f := 5, w2 := 0x30002 }),
    ([0x14400199, 0x24000, 0x30002], .mxldacc { f0 with a := 4, b := 5, la := 9, w2 := 0x30002 }),
    ([0x40019D, 0x0, 0xF], .mxscaleAlpha { f0 with a := 4, w2 := 0xF }),
    ([0x40019D, 0x4, 0x1], .mxscaleFinal { f0 with a := 4, f := 4, w2 := 0x1 }),
    ([0x4001A1, 0x4000, 0x2], .clmerge { f0 with a := 4, la := 1, w2 := 0x2 }),
    ([0x1A7, 0x0, 0x3F, 0x3F800000, 0x0], .slope { f0 with kind := .ll, w2 := 0x3F, lit := 0x3F800000 })] = true := by decide +kernel

/-- Engines (Table 14-1). -/
theorem test_words_engines : allRead [
    ([0x4001B1, 0x4000, 0x200], .cpy { f0 with a := 4, la := 1, w2 := 0x200 }),
    ([0x4001B5, 0x0, 0x0], .cpyg { f0 with a := 4 }),
    ([0x181B9, 0x0, 0x3F], .balloc { f0 with d := 6, w2 := 0x3F }),
    ([0x141BF, 0x0, 0x3, 0x0, 0x40000], .bfreeRel { f0 with kind := .ll, d := 5, w2 := 0x3, lit := 0x4000000000000 }),
    ([0x8141BD, 0x1, 0x3], .bfreeAddref { f0 with d := 5, a := 8, f := 1, w2 := 0x3 }),
    ([0x181C1, 0x0, 0x282], .sqopCreate { f0 with d := 6, w2 := 0x282 }),
    ([0x181C3, 0x0, 0x282, 0x5, 0x0], .sqopCreate { f0 with kind := .ll, d := 6, w2 := 0x282, lit := 5 }),
    ([0x9181C3, 0x1, 0x0, 0x1E, 0x0], .sqopAppend { f0 with kind := .ll, d := 6, a := 9, f := 1, lit := 0x1E }),
    ([0x289181C1, 0x2, 0x0], .sqopXlate { f0 with d := 6, a := 9, b := 10, f := 2 }),
    ([0x2C9181C1, 0x3, 0x0], .sqopFork { f0 with d := 6, a := 9, b := 11, f := 3 }),
    ([0x309181C1, 0x4, 0x0], .sqopTrim { f0 with d := 6, a := 9, b := 12, f := 4 }),
    ([0x9181C1, 0x5, 0x0], .sqopDrop { f0 with d := 6, a := 9, f := 5 }),
    ([0x1C4], .rsenter s0),
    ([0x1C8], .rsleave s0),
    ([0x184001CD, 0x10800000, 0x8], .publish { f0 with a := 4, b := 6, m := 2, s := 4, w2 := 0x8 }),
    ([0x1C6141D3, 0x3, 0x0, 0x0, 0x0], .retire { f0 with kind := .ll, d := 5, a := 6, b := 7, f := 3 })] = true := by decide +kernel

/-- Serving and system (Table 14-1). -/
theorem test_words_serving_and_system : allRead [
    ([0x144001D5, 0x8000, 0x0], .route { f0 with a := 4, b := 5, la := 2 }),
    ([0x5101D9, 0x0, 0x31005], .rcsnap { f0 with d := 4, a := 5, w2 := 0x31005 }),
    ([0x5001DD, 0xC000, 0x0], .fetchw { f0 with a := 5, la := 3 }),
    ([0x4181E3, 0x0, 0x0, 0x385, 0x0], .reqopEmit { f0 with kind := .ll, d := 6, a := 4, lit := 0x385 }),
    ([0x4181E1, 0x1, 0x0], .reqopCancel { f0 with d := 6, a := 4, f := 1 }),
    ([0x4181E3, 0x1, 0x0, 0x5, 0x0], .reqopCancel { f0 with kind := .ll, d := 6, a := 4, f := 1, lit := 5 }),
    ([0x4181E1, 0x2, 0x5], .reqopGet { f0 with d := 6, a := 4, f := 2, w2 := 0x5 }),
    ([0x101E9, 0x0, 0x5], .csrr { f0 with d := 4, w2 := 0x5 }),
    ([0x5001ED, 0x0, 0x0], .csrw { f0 with a := 5 }),
    ([0x1F0], .eret s0),
    ([0x1F5, 0x0, 0x0], .waitEng f0),
    ([0x4001F5, 0x1, 0x0], .waitCyc { f0 with a := 4, f := 1 }),
    ([0x144001F9, 0x0, 0x0], .sysTlbinv { f0 with a := 4, b := 5 }),
    ([0x1F9, 0x1, 0x0], .sysTlbinvPart { f0 with f := 1 }),
    ([0x4001F9, 0x2, 0xFFFF0000], .sysTdset { f0 with a := 4, f := 2, w2 := 0xFFFF0000 }),
    ([0x1F9, 0x3, 0x0], .sysHalt { f0 with f := 3 }),
    ([0x4001F9, 0x4, 0x0], .sysDbg { f0 with a := 4, f := 4 })] = true := by decide +kernel

/-! ### Ill-formed terms, one for each check -/

/-- A type that the entry does not allow. -/
theorem test_wf_type : (Instr.and_ { f0 with ty := .f32 }).wf = false := by decide +kernel
/-- A modifier that the entry does not define. -/
theorem test_wf_modifier : (Instr.add { f0 with m := 2 }).wf = false := by decide +kernel
/-- A scope that the entry does not allow: SSTEP at .WG. -/
theorem test_wf_scope : (Instr.sstepDev { f0 with m := 3, s := 0 }).wf = false := by decide +kernel
/-- A minor number out of range. -/
theorem test_wf_minor : (Instr.bitc { f0 with f := 4 }).wf = false := by decide +kernel
/-- A lookahead on an instruction that is not long-latency. -/
theorem test_wf_lookahead : (Instr.add { f0 with la := 1 }).wf = false := by decide +kernel
/-- A bit of Word 2 outside the entry's field. -/
theorem test_wf_word2 : (Instr.trap { f0 with w2 := 0x4000 }).wf = false := by decide +kernel
/-- A destination that the entry does not have. -/
theorem test_wf_dest : (Instr.st { f0 with f := 2, d := 1 }).wf = false := by decide +kernel
/-- A register in each unused source field. -/
theorem test_wf_sources : (Instr.mov { f0 with a := 1 }).wf = false ∧ (Instr.absneg { f0 with f := 1, b := 1 }).wf = false ∧
    (Instr.add { f0 with c := 1 }).wf = false := by decide +kernel
/-- An X bit on a field that is no register operand. -/
theorem test_wf_xbit : (Instr.sel { f0 with x := 4 }).wf = false := by decide +kernel
/-- A literal value in a form without one. -/
theorem test_wf_literal : (Instr.add { f0 with lit := 1 }).wf = false := by decide +kernel
/-- A form that the major does not have: ROUTE with a literal, MAD in LEN 10. -/
theorem test_wf_form : (Instr.route { f0 with kind := .ll }).wf = false ∧ (Instr.mad { f0 with kind := .sl }).wf = false := by
  decide +kernel
/-- A value that the entry's own condition excludes: a control register that Table 14-6 does not list, a literal in place of
the data of a .128 access. -/
theorem test_wf_entry : (Instr.csrr { f0 with w2 := 0x15 }).wf = false ∧
    (Instr.st { f0 with kind := .ll, f := 0x24 }).wf = false := by decide +kernel
/-- A constructor whose fields select another row: SYNCG with the minor of SYNCG.GRP. -/
theorem test_wf_row : (Instr.syncg { f0 with f := 1 }).wf = false ∧ (Instr.syncgGrp { f0 with f := 1 }).wf = true := by
  decide +kernel

/-! ### Machines that meet the premises of statements -/

/-- One lane of partition 0, context 0, core 0, slot 0 about to issue at VA 0. -/
def laneM : State := State.reset.place 32 0x30

/-- Its control thread about to issue. -/
def ctlM : State := { laneM with cur := some (.ctrl 0 0) }

/-- The machine with its workgroup changed. -/
def onWg (s : State) (go : Wg → Wg) : State := s.modWg 0 0 go

/-- The machine with its lane changed. -/
def onLane (s : State) (go : Thread → Thread) : State := onWg s fun w => w.modLane 0 0 go

/-- The machine with its control thread changed. -/
def onCtl (s : State) (go : Thread → Thread) : State := onWg s fun w => { w with ctl := go w.ctl }

/-- The state an instruction leads to. -/
def after (i : Instr) (s : State) : State := match exec i s with | .next t => t | _ => s

/-- A path or control thread is about to issue that has a property. -/
def Here (s : State) (q : Path → State → Bool) : Prop := ∃ x, s.path? = some x ∧ q x.1 x.2 = true

/-- A workgroup that stands in core 0, slot 0 has a property. -/
def Stood (s : State) (q : Wg → Bool) : Prop := ∃ w, Stands s 0 0 w ∧ q w = true

theorem meets {α : Type} {x : Option α} {q : α → Bool} (h : x.any q = true) : ∃ a, x = some a ∧ q a = true := by
  cases x with
  | none => simp at h
  | some a => exact ⟨a, rfl, by simpa using h⟩

theorem here {s : State} {q : Path → State → Bool} (h : (s.path?.any fun x => q x.1 x.2) = true) : Here s q := meets h

theorem stood {s : State} {q : Wg → Bool} (h : ((s.wg? 0 0).any fun w => w.id.core == 0 && w.id.slot == 0 && q w) = true) :
    Stood s q := by
  obtain ⟨w, hw, h⟩ := meets h
  simp only [Bool.and_eq_true, beq_iff_eq] at h
  exact ⟨w, ⟨hw, h.1.1, h.1.2⟩, h.2⟩

theorem stand_all {s : State} (h : s.wgs.all (fun e => e.1 == e.2.id.core * 8 + e.2.id.slot) = true) : WgsStand s := by
  intro k w hk
  generalize s.wgs = t at h hk
  induction t with
  | nil => simp [tabGet] at hk
  | cons a r ih =>
    obtain ⟨a, b⟩ := a
    simp only [List.all_cons, Bool.and_eq_true, beq_iff_eq] at h
    simp only [tabGet] at hk
    split at hk
    · cases hk; omega
    · exact ih h.2 hk

/-- Lane, control thread: the premises of Completes, LaneCompletes, Branches, LongCompletes and CtlStep. -/
theorem witness_lane_issues : Here laneM fun p _ => !p.ctl := here (by decide +kernel)
theorem witness_ctl_issues : Here ctlM fun p _ => p.ctl && p.w.ctl.guard f0.g := here (by decide +kernel)
theorem witness_stand : WgsStand laneM := stand_all (by decide +kernel)

/-- BarriersComplete: the one lane waits at SYNCG.GRP, or at SYNCG. -/
theorem witness_barrier_group : Stood (after (.syncgGrp f0) laneM) fun w =>
    (w.group 0).waitGrp != 0 && (w.group 0).waitGrp == w.living 0 := stood (by decide +kernel)
theorem witness_barrier_all : Stood (after (.syncg f0) laneM) fun w =>
    w.ngroups == 1 && (w.group 0).waitAll != 0 && (w.group 0).waitAll == w.living 0 := stood (by decide +kernel)

/-- TrapsAreRaised and BreakpointHaltsGroup: no debugger, and one attached. -/
theorem witness_break_raises : Here laneM fun p _ => !p.w.csrs.att := here (by decide +kernel)
theorem witness_break_halts : Here (onWg laneM fun w => { w with csrs := { w.csrs with att := true } }) fun p _ =>
    !p.ctl && p.w.csrs.att && held p f0.g != 0 := here (by decide +kernel)

/-- A lane that has executed TRAP with a handler at 8. -/
def trapM : State := after (.trapShort f0.g 5) (onWg laneM fun w => { w with csrs := { w.csrs with trapvec := 8 } })

/-- HandlerEntryAndReturn: the cause waits; and a handler entered for a group, or by the control thread, returns. -/
theorem witness_handler_entry : Stood trapM fun w => !w.ended && !w.csrs.hm && w.ctl.outs == [] && w.ctlSusp == .none &&
    w.ctl.wait == .none && w.ctlTrap == none && !w.ctl.ended && w.ngroups == 1 && w.csrs.trapvec != 0 && (w.group 0).traps.length == 1 &&
    ((w.lane? 0 0).any fun th => th.outs == []) :=
  stood (by decide +kernel)
theorem witness_handler_return : Here { after (.trapEntry 0 0) trapM with cur := some (.ctrl 0 0) } fun p _ =>
    p.ctl && p.w.ctl.guard f0.g && p.w.csrs.hm && !p.w.csrs.kill && p.w.csrs.trapcause.getLsbD 26 := here (by decide +kernel)
theorem witness_handler_return_ctl : Here { after (.trapShort f0.g 5)
      (onWg ctlM fun w => { w with csrs := { w.csrs with trapvec := 8 } }) with cur := some (.ctrl 0 0) } fun p _ =>
    p.ctl && p.w.csrs.hm && !p.w.csrs.kill && !p.w.csrs.trapcause.getLsbD 26 := here (by decide +kernel)

/-- UnhandledCauseIsFatal. -/
theorem witness_no_handler : Stood laneM fun w => w.csrs.trapvec == 0 && !w.csrs.hm && (w.group 0).susp == .none := stood (by decide +kernel)
theorem witness_no_handler_twice : Stood (onWg laneM fun w => w.setGroup 0 { Group.init with susp := .fault 3 }) fun w =>
    w.csrs.trapvec == 0 && !w.csrs.hm && (w.group 0).susp != .none := stood (by decide +kernel)

/-- A decision queue of n entries. -/
def queued (n : Nat) (s : State) : State := onWg s fun w => { w with dq := List.replicate n { value := 7, seq := 0 } }

/-- DecisionQueue: a pop of an empty queue and of one entry; a push onto 15 entries and onto 16. -/
theorem witness_pop_empty : Here laneM fun p _ => !p.ctl && held p f0.g != 0 && p.w.dqBase ≤ (p.w.group p.grp).dqPos &&
    p.w.dq[(p.w.group p.grp).dqPos - p.w.dqBase]? == none := here (by decide +kernel)
theorem witness_pop_ended : Here (onCtl laneM fun t => { t with ended := true }) fun p _ => !p.ctl && held p f0.g != 0 && p.w.ctl.ended &&
    p.w.dq[(p.w.group p.grp).dqPos - p.w.dqBase]? == none := here (by decide +kernel)
theorem witness_pop : Here (queued 1 laneM) fun p _ => !p.ctl && held p f0.g != 0 && p.w.dqBase ≤ (p.w.group p.grp).dqPos &&
    p.w.dq[(p.w.group p.grp).dqPos - p.w.dqBase]? != none := here (by decide +kernel)
theorem witness_push : Here (queued 15 ctlM) fun p _ => p.ctl && p.w.ctl.guard f0.g && p.w.dq.length < 16 := here (by decide +kernel)
theorem witness_push_full : Here (queued 16 ctlM) fun p _ => p.ctl && p.w.ctl.guard f0.g && 16 ≤ p.w.dq.length :=
  here (by decide +kernel)

/-- QueueTrimKeepsEntries. -/
theorem witness_trim : Stood (queued 1 laneM) fun w => 0 < w.ngroups && w.living 0 != 0 && w.dqBase ≤ (w.group 0).dqPos :=
  stood (by decide +kernel)

/-! ### Vector arithmetic -/

/-- A descriptor with the given format, first extent and stride, of all of the address space it names, readable and writable. -/
def descBits (fmt ext0 str0 : Nat) (sp : Bool) : BitVec 2048 :=
  BitVec.ofNat 2048 (4096 * 2 ^ 64 + fmt * 2 ^ 128 + 3 * 2 ^ 320 + b2n sp * 2 ^ 322 + 2 ^ 323 + 2 ^ 327 + ext0 * 2 ^ 384 + str0 * 2 ^ 640)

/-- The machine with descriptor 1 of its partition. -/
def withDesc (b : BitVec 2048) (s : State) : State := s.modPart 0 fun q => { q with descs := [(1, b)] }

/-- CodebookDecodeCompletes: held for no lane, and with a codebook. -/
theorem witness_cbdec_off : Here laneM fun p _ => !p.ctl && held p { neg := true, p := 0 } == 0 := here (by decide +kernel)
theorem witness_cbdec : Here (withDesc (descBits 8 16 1 false) laneM) fun p s => !p.ctl && held p f0.g != 0 &&
    ((s.descriptor p.w.id.core p.w.id.pid 1).1.any fun d => d.rd && d.fmt == 8 && d.fmtOk) := here (by decide +kernel)

/-- LongLatencyCompletes: an EX2 with lookahead 1 is outstanding; so are results for two registers. -/
def outQ (w : Wg) (tag : Nat) (parts : Bool) : Bool := (w.lane? 0 0).any fun th => th.parts tag == parts &&
  ((th.outs.find? fun o => o.tag == tag && o.ready).any fun o =>
    (parts == decide (1 < o.writes.length)) && o.writes.all fun r => match r with | .s _ _ => false | _ => true) &&
  (w.groupLanes 0).all fun e => e.2.outs.all fun y => y.ready || y.reissue.isNone
theorem witness_outstanding : Stood (after (.ex2 { f0 with la := 1, ty := .f32 }) laneM) fun w => outQ w 0 false := stood (by decide +kernel)
theorem witness_outstanding_parts : Stood (onLane laneM fun t => { t with outs :=
    [{ tag := 7, left := 1, ready := true, writes := [.v 4 1, .v 5 2], owes := .nothing, reissue := none }] }) fun w => outQ w 7 true := stood (by decide +kernel)

/-- EncodeDecodeIsExact: a subnormal and the largest value of FP8. -/
theorem witness_exact : decodeF fE4M3 1 ≠ .nan ∧ decodeF fE4M3 0x7E ≠ .nan ∧ 0x7E < 2 ^ fE4M3.width := by decide +kernel

/-- RoundingIsNearest: a third, and a value just below the largest. -/
theorem witness_nearest : roundCode fE2M1 0 false 1 3 ≤ fE2M1.top ∧ roundCode fE2M1 0 false 59 10 ≤ fE2M1.top ∧
    7 ≤ fE2M1.top := by decide +kernel

/-! ### Memory -/

/-- An address in the placed page, in v0:v1 or k0, past the code. -/
def atBase (a : Nat) (s : State) : State :=
  onLane (onCtl s fun t => { t with k := [(0, BitVec.ofNat 64 a)] }) fun t => { t with v := [(0, BitVec.ofNat 32 a)] }

/-- Fields of an access with base v0 or k0 and data v2 or k2. -/
def fm : LForm := { f0 with b := 2, d := 4 }

/-- Every access of a statement can be made. -/
def runs {α : Type} (act : Path → State → Option (α × State)) (s : State) : Prop := Here s fun p t => (act p t).isSome

theorem witness_plain : Here laneM fun p _ => !p.w.csrs.watchctl.getLsbD 0 && (p.active f0.g).all fun e => e.2.region == none :=
  here (by decide +kernel)

/-- LoadsAndStoresComplete: the last 8 bytes of a page, by a lane and the control thread, and LDNR of a page that is not there. -/
theorem witness_load : runs (fun p t => loadsOf .ld { fm with f := 3 } p 8 (p.gather (.ld { fm with f := 3 }) .ld { fm with f := 3 }).lanes t)
    (atBase 4088 laneM) := here (by decide +kernel)
theorem witness_load_ctl : runs (fun p t => loadsOf .ld { fm with f := 3 } p 8 (p.gather (.ld { fm with f := 3 }) .ld { fm with f := 3 }).lanes t)
    (atBase 4088 ctlM) := here (by decide +kernel)
theorem witness_load_scratch : runs (fun p t => loadsOf .ld { fm with f := 0x43 } p 8
    (p.gather (.ld { fm with f := 0x43 }) .ld { fm with f := 0x43 }).lanes t) (atBase 4088 laneM) := here (by decide +kernel)
theorem witness_store : runs (fun p t => storesOf .st { fm with f := 2 } p 4 (p.gather (.st { fm with f := 2 }) .st { fm with f := 2 }).lanes t)
    (atBase 4092 laneM) := here (by decide +kernel)
theorem witness_publish : runs (fun p t => storesOf .publish fm p 8 (p.gather (.publish fm) .publish fm).lanes t) (atBase 256 ctlM) :=
  here (by decide +kernel)
theorem witness_ldnr : runs (fun p t => eachLane (fun s o =>
        match placed p 0 (eaOf .ldnr fm o.a.toNat) (2 ^ fm.size) .read s o.lane with
        | some (.mem pa, s1) => some (some (s1.phys pa (2 ^ fm.size)), s1)
        | some (_, s1) => some (none, s1)
        | none => some (none, s)) (p.gather (.ldnr fm) .ldnr fm).lanes t) (atBase 4096 laneM) := here (by decide +kernel)

/-- TensorAccessesComplete: the last byte of a descriptor of 4,096. -/
theorem witness_tensor : Here (withDesc (descBits 6 4096 1 false) (atBase 4095 laneM)) fun p t =>
    held p f0.g != 0 && match t.descriptor p.w.id.core p.w.id.pid 1 with
    | (some d, s1) => (p.gather (.ldt fm) .ldt fm).lanes.all fun o =>
        match elementAddr (some d) 1 .read 0 (ldtCoord fm o), elementAddr (some d) 1 .write 0 (ldtCoord fm o) with
        | .ok x, .ok y => (placed p 0 x (d.ew / 8) .read s1 o.lane).isSome && (placed p 0 y (d.ew / 8) .write s1 o.lane).isSome
        | _, _ => false
    | _ => false := here (by decide +kernel)

/-- FencesAndWindowsComplete: an offset that is no multiple of 128, the last good one, one past it; an entry free, the workgroup's
own, and another's. -/
def windowM (w : List (Nat × Window)) (a : Nat) : State := (atBase a ctlM).modCore 0 fun k => { k with windows := w }
theorem witness_window_bad : Here (windowM [] 127) fun p _ => p.ctl && p.opA p.w.ctl .wopen f0 % 2 ^ 32 % 128 != 0 := here (by decide +kernel)
theorem witness_window_past : Here (windowM [] 4096) fun p _ =>
    p.ctl && 4096 * p.w.id.scr < p.opA p.w.ctl .wopen f0 % 2 ^ 32 + 128 := here (by decide +kernel)
theorem witness_window_free : Here (windowM [] 3968) fun p t =>
    let o := p.opA p.w.ctl .wopen f0 % 2 ^ 32
    p.ctl && o % 128 == 0 && o + 128 ≤ 4096 * p.w.id.scr && p.w.fifoAt o == none && tabGet (t.core 0).windows 0 == none :=
  here (by decide +kernel)
theorem witness_window_mine : Here (windowM [(0, { ctx := 0, pid := 0, wgs := 0, sw := false, wcore := 0, offs := 0 })] 0) fun p t =>
    p.ctl && (tabGet (t.core 0).windows 0).any fun x => x.pid == p.w.id.pid && x.ctx == p.w.id.ctx && x.wgs == p.w.id.slot :=
  here (by decide +kernel)
theorem witness_window_other : Here (windowM [(0, { ctx := 0, pid := 0, wgs := 1, sw := false, wcore := 0, offs := 0 })] 0) fun p t =>
    p.ctl && (tabGet (t.core 0).windows 0).any fun x => x.wgs != p.w.id.slot := here (by decide +kernel)

/-- DiscardAndDescriptorWriteComplete. -/
theorem witness_discard : Here (onCtl ctlM fun t => { t with k := [(2, 4096)] }) fun p t =>
    p.ctl && (t.ctx? p.w.id.pid p.w.id.ctx).any fun c =>
      let ea := eaOf .discard fm (p.opA p.w.ctl .discard fm)
      let len := p.opB p.w.ctl .discard fm % 2 ^ 64
      ea % 4096 == 0 && len == 4096 && match t.discardFrom p.who c.l4base (len / 4096) 0 ea [] with | (.ok ds, _) => ds.length == 1 | _ => false :=
  here (by decide +kernel)
theorem witness_tdset : Here (atBase 16 ctlM) fun p t =>
    let ea := p.opA p.w.ctl .sys f0
    p.ctl && ea % 16 == 0 && match p.readBytes t ea 16 with | (.ok _, s2) => (s2.part? p.w.id.pid).isSome | _ => false :=
  here (by decide +kernel)

/-- AtomicUpdatesComplete and ScatterAddSums. -/
theorem witness_atom : runs (fun p t => updatesOf .atom fm p 4 (fun o m => atomNew 0 .ui32 m o.b.toNat) (p.gather (.atom fm) .atom fm).lanes t)
    (atBase 64 laneM) := here (by decide +kernel)
theorem witness_cas : runs (fun p t => updatesOf .cas fm p 4 (fun _ m => m) (p.gather (.cas fm) .cas fm).lanes t) (atBase 64 ctlM) :=
  here (by decide +kernel)
theorem witness_scadd : runs (fun p t => eachLane (fun s o => placed p 0 (eaOf .scadd fm o.a.toNat) 4 .atomic s o.lane)
    (p.gather (.scadd fm) .scadd fm).lanes t) (atBase 64 laneM) := here (by decide +kernel)
theorem witness_scadd_scratch : Here (atBase 4092 laneM) fun p _ =>
    let f := { fm with f := 0x40 }
    !p.ctl && f.space == 1 && cellsWf p.w.scratch && 4092 + 4 ≤ 4096 * p.w.id.scr && p.w.fifoAt 4092 == none && held p f.g != 0 &&
      (p.gather (.scadd f) .scadd f).lanes.all fun o => eaOf .scadd f o.a.toNat == 4092 := here (by decide +kernel)

/-- A lane in a region of line 128, after a store to its first byte. -/
def regionM : State := { after (.alb { f0 with a := 0 }) (atBase 128 laneM) with cur := some (.lanes 0 0 0 1) }

/-- RegionsComplete: ALB, an access of the last four bytes of the line in it, the ninth-but-one access, ALE. -/
theorem witness_alb : runs (fun p t => eachLane (fun s o =>
        match p.place s o.lane (eaOf .alb f0 o.a.toNat / 128 * 128) .atomic false with
        | (.ok (.mem _), s) => some ((), s) | _ => none) (p.gather (.alb f0) .alb f0).lanes t) (atBase 255 laneM) := here (by decide +kernel)
theorem witness_region : Here (atBase 252 regionM) fun p t =>
    let f := { fm with f := 2 }
    !p.ctl && !p.w.csrs.watchctl.getLsbD 0 && (p.active f.g).all (fun e => e.2.region != none) &&
      (p.gather (.ld f) .ld f).lanes.all fun o => (p.region o.lane).any fun r =>
        eaOf .ld f o.a.toNat % 4 == 0 && !r.bars (eaOf .ld f o.a.toNat) 4 && t.eccSub (r.pa + (eaOf .ld f o.a.toNat - r.line.toNat)) 4 true == none :=
  here (by decide +kernel)

/-! ### Level objects -/

/-- An object at 256 with the given target, fill, phase and mode. -/
def objM (v : Nat) (s : State) : State := { atBase 256 s with mem := memWrite (atBase 256 s).mem 0x5100 (bytesOf 16 v) }

/-- LevelOperationsComplete: a target given; the first and the last arrival; a wait that passes and one that does not. -/
theorem witness_lvinit : Here (onLane (atBase 256 laneM) fun t => { t with v := [(0, 256), (2, 3)] }) fun p t =>
    (p.gather (.lvinit fm) .lvinit fm).lanes.all fun o => o.b.toNat % 2 ^ 32 != 0 && (placed p 0 (eaOf .lvinit fm o.a.toNat) 16 .write t o.lane).isSome :=
  here (by decide +kernel)
def lvarvQ (p : Path) (t : State) (fill : Nat) : Bool :=
  (p.gather (.lvarv fm) .lvarv fm).lanes.all fun o => o.b.toNat % 2 ^ 32 == 1 &&
    (placed p 0 (eaOf .lvarv fm o.a.toNat) 16 .atomic t o.lane).any fun x =>
      let v := x.2.spotNat x.1 16
      lvTarget v == 2 && lvFill v == fill
theorem witness_lvarv : Here (onLane (objM 2 laneM) fun t => { t with v := [(0, 256), (2, 1)] }) fun p t => lvarvQ p t 0 := here (by decide +kernel)
theorem witness_lvarv_last : Here (onLane (objM (2 + 2 ^ 32) laneM) fun t => { t with v := [(0, 256), (2, 1)] }) fun p t => lvarvQ p t 1 :=
  here (by decide +kernel)
theorem witness_lvwait : Here (objM (2 + 5 * 2 ^ 64) laneM) fun p t => (p.gather (.lvwait fm) .lvwait fm).lanes.all fun o =>
    (placed p 0 (eaOf .lvwait fm o.a.toNat) 16 .read t o.lane).any fun x =>
      lvTarget (x.2.spotNat x.1 16) != 0 && lvPhc (x.2.spotNat x.1 16) != o.b.toNat % 2 ^ 32 := here (by decide +kernel)
theorem witness_lvwait_waits : Here (objM 2 laneM) fun p t => (p.gather (.lvwait fm) .lvwait fm).lanes.all fun o =>
    (placed p 0 (eaOf .lvwait fm o.a.toNat) 16 .read t o.lane).any fun x =>
      lvTarget (x.2.spotNat x.1 16) != 0 && lvPhc (x.2.spotNat x.1 16) == o.b.toNat % 2 ^ 32 := here (by decide +kernel)

/-- LevelWaitEnds: the control thread waits, and the phase has moved on. -/
def levelM : State :=
  let s := after (.lvwait { fm with m := 1 }) (objM 2 ctlM)
  { s with mem := memWrite s.mem 0x5100 (bytesOf 16 (2 + 2 ^ 64)) }
theorem witness_level_ends : Stood levelM fun w => match w.ctl.wait with
    | .level ea phc _ _ _ => !w.watches .read ea.toNat 16 && match levelM.engRead w.id false ea.toNat 16 with
      | (.ok bs, _) => lvPhc (ofBytes bs) != phc.toNat | _ => false
    | _ => false := stood (by decide +kernel)

/-- SuperstepArrives: the first and the last arrival. -/
def sstepQ (p : Path) (t : State) (fill : Nat) : Bool :=
  p.ctl && p.w.engOps == 0 && (t.part? p.w.id.pid).isSome && (placed p 0 (eaOf .sstep f0 (p.opA p.w.ctl .sstep f0)) 16 .atomic t 0).any fun x =>
    let v := x.2.spotNat x.1 16
    !lvMode v && lvTarget v == 2 && lvFill v == fill
theorem witness_sstep : Here (objM 2 ctlM) fun p t => sstepQ p t 0 := here (by decide +kernel)
theorem witness_sstep_last : Here (objM (2 + 2 ^ 32) ctlM) fun p t => sstepQ p t 1 := here (by decide +kernel)
theorem witness_sstep_fabric : Here ((objM 2 ctlM).modPart 0 fun q => { q with fabric := true }) fun p t =>
    sstepQ p t 0 && (t.part? 0).any fun q => q.fabric := here (by decide +kernel)

/-- LanesThatMeetACauseWait: an address that is no multiple, and one in no page. -/
theorem witness_misaligned : Here (atBase 255 laneM) fun p _ =>
    let f := { fm with f := 2 }
    !p.ctl && (p.w.group p.grp).susp == .none && match (p.gather (.ld f) .ld f).lanes with | [o] => eaOf .ld f o.a.toNat % 4 != 0 | _ => false :=
  here (by decide +kernel)
theorem witness_no_page : Here (atBase 4096 laneM) fun p t =>
    let f := { fm with f := 2 }
    !p.ctl && match (p.gather (.st f) .st f).lanes with
      | [o] => eaOf .st f o.a.toNat % 4 == 0 && match p.spot t o.lane 0 (eaOf .st f o.a.toNat) 4 .write false with | (.error (.cause _), _) => true | _ => false
      | _ => false := here (by decide +kernel)

/-! ### Matrix unit, copy engine -/

/-- The workgroup holds every tile. -/
def tilesM (s : State) : State := onWg s fun w => { w with csrs := { w.csrs with accmask := ~~~0#64 } }

/-- MatrixInstructionsIssue: an MXZERO that issues, one whose check fails, and a PLANE with its descriptor. -/
theorem witness_mxzero : Here (tilesM ctlM) fun p s => p.ctl && p.w.ctl.guard f0.g && !mxReadsDesc .mxzero 0 &&
    mxCheck p.w .mxzero { f0 with w2 := 0xFFFF } none 0 0 0 == none && (s.queue p.w.id.core 0).length < 16 && !p.countFull s :=
  here (by decide +kernel)
theorem witness_mxzero_fails : Here ctlM fun p _ => p.ctl && (mxCheck p.w .mxzero { f0 with w2 := 0x8000 } none 0 0 0).isSome :=
  here (by decide +kernel)
theorem witness_plane : Here (withDesc (descBits 6 4096 1 false) ctlM) fun p s =>
    let a := 8 * 2 ^ 32 + 2 ^ 48
    p.ctl && mxReadsDesc .plane a && match s.descriptor p.w.id.core p.w.id.pid 1 with
      | (some d, s1) => mxCheck p.w .plane { f0 with w2 := 0x10000 } (some d) a 0 0 == none && (s1.queue p.w.id.core 0).length < 16
      | _ => false := here (by decide +kernel)

/-- A machine with one matrix operation in quarter 0, issued by its control thread, that runs to its end. -/
def mxM (i : Instr) (k : List (Nat × DWord)) : State :=
  { after i (onCtl (tilesM ctlM) fun t => { t with k := k }) with choice := [0] }

/-- The oldest operation of quarter 0 is the one a statement names. -/
abbrev oldest (s : State) (q : MxOp → Wg → Bool) : Prop :=
  ((s.queue 0 0).head?.any fun op => (s.wg? 0 0).any fun w => w.id.core == 0 && w.id.slot == op.slot && op.stop == .none && !op.joined &&
    op.next == 0 && s.choice.headD 1 == 0 && (s.wgs.all fun e => e.1 == e.2.id.core * 8 + e.2.id.slot) && q op w) = true

/-- MatrixOperationsComplete. -/
theorem witness_mxzero_runs : oldest (mxM (.mxzero { f0 with w2 := 0x8001 }) []) fun op _ => op.i == .mxzero { f0 with w2 := 0x8001 } := by
  decide +kernel
theorem witness_slope_runs : oldest (mxM (.slope { f0 with c := 1, w2 := 63 }) [(1, 5)]) fun op w =>
    op.i == .slope { f0 with c := 1, w2 := 63 } && cellsWf w.slopes := by decide +kernel
theorem witness_mxscale_runs : oldest (mxM (.mxscaleAlpha { f0 with w2 := 15 }) []) fun op _ =>
    op.i == .mxscaleAlpha { f0 with w2 := 15 } && mxHi { f0 with w2 := 15 } % 4 == 0 &&
    cellsWf ((mxM (.mxscaleAlpha { f0 with w2 := 15 }) []).core 0).tiles := by decide +kernel
theorem witness_mx_stand : WgsStand (mxM (.mxscaleAlpha { f0 with w2 := 15 }) []) := stand_all (by decide +kernel)

/-- MatrixMultiplyCompletes: one chunk, one column, of descriptor 1. -/
def mulF : LForm := { f0 with a := 1, b := 2, w2 := 0x10000 }
def mulM : State :=
  { after (.mxmul mulF) (onCtl (withDesc (descBits 6 64 1 false) (onWg (tilesM ctlM) fun w => { w with id := { w.id with scr := 2 } }))
      fun t => { t with k := [(1, BitVec.ofNat 64 (64 * 2 ^ 32 + 2 ^ 48))] }) with choice := [0] }
theorem witness_mxmul_runs : oldest mulM fun op w => op.i == .mxmul mulF && bitsAt op.a.toNat 47 32 == 64 && bitsAt op.a.toNat 54 48 == 1 &&
    cellsWf (mulM.core 0).tiles && (List.range 8).all fun j => match weights (mulM.choose).2 w.id .mxmul mulF op 0 j with
      | (.ok vs, s2) => vs.length == 8 && s2 == (mulM.choose).2 | _ => false := by decide +kernel

/-- ClusterMergeCompletes: a CLMERGE alone in its mask, and the merge once it has arrived. -/
def mergeM : State := mxM (.clmerge { f0 with a := 1 }) [(1, BitVec.ofNat 64 (2 ^ 32))]
theorem witness_clmerge : oldest mergeM fun op w => op.i == .clmerge { f0 with a := 1 } &&
    (tabGet (mergeM.cluster 0).merges ((w.id.pid * 32 + w.id.ctx) * 8 + bitsAt op.a.toNat 38 36)).isNone := by decide +kernel
theorem witness_merge : ((tabGet ((after (.matrixOperation 0 0) mergeM).cluster 0).merges 0).any fun m =>
    (List.range 4).all fun c => !m.pm.testBit c || m.arrivals.any fun a => a.1 == c) = true := by decide +kernel

/-- A copy of two bytes from 0 to 8 within the scratchpad, by descriptors 1 and 2, its command at 256. -/
def copyBits : BitVec 1024 := BitVec.ofNat 1024 (1 + 2 * 2 ^ 16 + 2 ^ 32 + 8 * 2 ^ 384 + 2 * 2 ^ 640)
def copyM : State := atBase 256 (onWg (ctlM.modPart 0 fun q => { q with descs := [(1, descBits 6 4096 1 true), (2, descBits 6 4096 1 true)] })
  fun w => { w with scratch := memWrite [] 256 (bytesOf 128 copyBits.toNat) })

/-- CopiesIssue: a command whose checks hold; one whose origin is out of bounds; an offset that is no multiple of 16. -/
theorem witness_copy : Here copyM fun p s => p.ctl && p.opA p.w.ctl .cpy f0 % 2 ^ 32 == 256 && match p.w.copyCommand 256 with
    | .ok c => (match s.copyCheck p.w c false with | (.ok _, s1) => (s1.core 0).copies.length < 32 && !p.countFull s1 | _ => false)
    | _ => false := here (by decide +kernel)
theorem witness_copy_fails : Here (onWg copyM fun w => { w with scratch := memWrite [] 256 (bytesOf 128 (copyBits.toNat + 4087 * 2 ^ 384)) })
    fun p s => match p.w.copyCommand 256 with | .ok c => (match s.copyCheck p.w c false with | (.error _, _) => true | _ => false) | _ => false :=
  here (by decide +kernel)
theorem witness_copy_misaligned : Here (atBase 255 copyM) fun p _ => p.opA p.w.ctl .cpy f0 % 16 != 0 := here (by decide +kernel)

/-- CopyEngineMovesElements: the copy above, issued. -/
def copyRunM : State := { after (.cpy f0) copyM with choice := [0] }
theorem witness_copy_runs : (match (copyRunM.core 0).copies, copyRunM.wg? 0 0 with
    | [op], some w => w.id.core == 0 && w.id.slot == op.slot && op.stop == .none && op.next == 0 && !cmLv op.cmd && !cmMcast op.cmd &&
        !op.gather && op.src.sp && op.dst.sp && op.dst.stata == 0 && op.src.ew == 8 && op.dst.ew == 8 && !fmtBlock op.src.fmt &&
        !fmtBlock op.dst.fmt && !w.csrs.fifocfg.getLsbD 15 && !w.csrs.fifocfg.getLsbD 31 && cmCount op.cmd == 2 && copyRunM.fabric.out == [] &&
        (List.range 2).all fun e => (op.dst.coords (cmDst op.cmd e)).bind (op.dst.addrOf true) == some (8 + e) &&
          (copySource op w.id.scr (copiedUpTo op w (8 + ·) e) e).isSome
    | _, _ => false) = true := by decide +kernel

/-- CopyArrives: the copy above with an object at VA 256, done. -/
def arriveM : State :=
  let s := objM 2 (onWg copyM fun w => { w with scratch := memWrite [] 256 (bytesOf 128 (copyBits.toNat + 2 ^ 40 + 256 * 2 ^ 64)) })
  { after (.copyEngineOperation 0 0) { after (.cpy f0) { s with cur := some (.ctrl 0 0) } with choice := [0] } with choice := [0] }
theorem witness_copy_arrives : (match (arriveM.core 0).copies, arriveM.wg? 0 0 with
    | [op], some w => arriveM.fabric.out == [] && cmLv op.cmd && cmCount op.cmd ≤ op.next && op.stop == .none && match arriveM.engSpot w.id false (cmLva op.cmd) 16 .atomic with
      | (.ok x, s1) => (match (s1.choose).2.engSpot w.id false (cmLva op.cmd) 16 .atomic with
        | (.ok y, s2) => lvTarget (s2.spotNat y 16) != 0 && lvFill (s2.spotNat y 16) < lvTarget (s2.spotNat y 16) &&
            s1.spotNat x 16 == s2.spotNat y 16
        | _ => false)
      | _ => false
    | _, _ => false) = true := by decide +kernel

/-! ### Pools, sequences, epochs -/

/-- A pool of n blocks of 4 KiB, with free blocks and reference counts. -/
def poolOf (n : Nat) (free : List Nat) (refs : Tab Nat) : Pool :=
  { vbase := 0x100000, nblk := n, resv := 0, flcnt := 0, badfree := 0, emptyc := 0, pbase := 0x100000, flbase := 0, refbase := 0, tier := 0
    die := 0, bshift := 12, mpool := 0, free := free, refs := refs }

/-- The machine with pool 0 and handle entries in its partition. -/
def withPool (x : Pool) (hs : Tab Handle) (s : State) : State := s.modPart 0 fun q => { q with pools := [(0, x)], handles := hs }

/-- The machine after an engine instruction of the control thread whose k-registers are `k`. -/
def askM (x : Pool) (hs : Tab Handle) (i : Instr) (k : List (Nat × DWord)) : State :=
  after i (onCtl (withPool x hs ctlM) fun t => { t with k := k })

/-- The one request of engine instance 0 is one that a statement names. -/
abbrev sole (s : State) (q : EngineReq → Bool) : Prop :=
  ((match s.engines.filter fun x => isPoolReq x && s.instanceOf x == 0 with
    | [r] => (s.wg? r.core r.slot).any fun w => w.id.core == r.core && w.id.slot == r.slot && (w.ctl.outs.any fun o => o.tag == r.tag) && q r
    | _ => false) && s.wgs.all fun e => e.1 == e.2.id.core * 8 + e.2.id.slot) = true

/-- EngineRequestsIssue: room in the reader count, and a section's count of 4,095. -/
theorem witness_request : Here ctlM fun p s => p.ctl && p.w.ctl.guard f0.g && !p.countFull s := here (by decide +kernel)
theorem witness_request_full : Here ((onCtl ctlM fun t => { t with rdepth := 1 }).modCore 0 fun c => { c with c0 := 4095 }) fun p s =>
    p.ctl && p.countFull s := here (by decide +kernel)
theorem witness_request_retire : Here (onCtl ctlM fun t => { t with k := [(1, 1)] }) fun p s =>
    let f := { f0 with b := 1, f := 3 }
    p.ctl && s.retireOk p.w.id.pid f (p.opA p.w.ctl .retire f) (p.opB p.w.ctl .retire f) (p.opC p.w.ctl .retire f) := here (by decide +kernel)

/-- BlockOperations: no pool, no free block, a free block. -/
theorem witness_balloc_bad : sole (askM (poolOf 1 [] []) [] (.balloc { f0 with w2 := 63 }) []) fun r =>
    ((askM (poolOf 1 [] []) [] (.balloc { f0 with w2 := 63 }) []).pool? r.pid 63).isNone := by decide +kernel
theorem witness_balloc_empty : sole (askM (poolOf 1 [] []) [] (.balloc f0) []) fun r => r.i == .balloc f0 := by decide +kernel
theorem witness_balloc : sole (askM (poolOf 1 [0] []) [] (.balloc f0) []) fun r =>
    ((askM (poolOf 1 [0] []) [] (.balloc f0) []).pool? r.pid 0).any fun x => x.resv < x.free.length := by decide +kernel
/-- BlockOperations: an address that is no block's; the last block with counts 0, 1, 65,534 and 65,535. -/
def freeM (a n : Nat) : State := askM (poolOf 2 [] (if n = 0 then [] else [(1, n)])) [] (.bfreeAddref { f0 with f := 1 }) [(0, BitVec.ofNat 64 a)]
theorem witness_bfree_block : sole (freeM 0x102000 1) fun r => (List.range 2).all fun b => r.a.toNat != 0x100000 + b * 4096 := by decide +kernel
theorem witness_bfree : ∀ n ∈ [0, 1, 65534, 65535], sole (freeM 0x101000 n) fun r =>
    r.a.toNat == 0x100000 + 1 * 4096 && ((freeM 0x101000 n).pool? r.pid 0).any fun x => x.count 1 == n := by decide +kernel
theorem witness_bfree_rel : sole (askM (poolOf 2 [] [(1, 1)]) [] (.bfreeRel f0) [(0, 0x101000)]) fun r => r.i == .bfreeRel f0 := by
  decide +kernel

/-- A LIVE sequence of length n over pool 0, entries of 16 bytes, 256 to a block. -/
def seqOf (n nsb : Nat) : Handle :=
  { gen := 0, chk := 0, state := 1, pool := 0, tshift := 4, root := 0, nsb := nsb, len := n, rsv := 0, rsvM := 0, owner := 0 }
def seqM (i : Instr) (n : DWord) : State := askM (poolOf 80 ((List.range 80).drop 3) [(0, 1), (1, 1), (2, 1)]) [(0, seqOf 256 1)] i [(1, n)]
def fs (f : BitVec 8) : LForm := { f0 with b := 1, f := f }

/-- SequenceOperationsComplete: a new sequence; a handle that names none; and each operation on one of 256 positions. -/
theorem witness_create : sole (askM (poolOf 4 [0, 1, 2, 3] []) [] (.sqopCreate { f0 with w2 := 0x100 }) []) fun r =>
    r.pid < 16 && bitsAt (0x100 : Word).toNat 10 6 == 4 &&
      ((askM (poolOf 4 [0, 1, 2, 3] []) [] (.sqopCreate { f0 with w2 := 0x100 }) []).handle? r.pid 0).isNone := by decide +kernel
theorem witness_no_handle : sole (askM (poolOf 4 [0, 1, 2, 3] []) [] (.sqopXlate (fs 2)) []) fun r =>
    ((askM (poolOf 4 [0, 1, 2, 3] []) [] (.sqopXlate (fs 2)) []).handleEntry r.pid r.a.toNat).isNone := by decide +kernel
theorem witness_append_args : ([0, 1, 16384, 16385].all fun n => match (seqM (.sqopAppend (fs 1)) (BitVec.ofNat 64 n)).engines with
    | [r] => r.b.toNat == n && ((seqM (.sqopAppend (fs 1)) (BitVec.ofNat 64 n)).handleEntry r.pid r.a.toNat).any fun e => e.2.state == 1
    | _ => false) = true := by decide +kernel
theorem witness_append : sole (seqM (.sqopAppend (fs 1)) 16384) fun r =>
    let s := seqM (.sqopAppend (fs 1)) 16384
    (s.handleEntry r.pid r.a.toNat).any fun e => (s.pool? r.pid e.2.pool).any fun x =>
      let tpb := 2 ^ (x.bshift - e.2.tshift)
      let nsb := ceilDiv (e.2.len + 16384) tpb
      let data := nsb - e.2.nsb
      let leaves := ceilDiv nsb 1024 - ceilDiv e.2.nsb 1024
      nsb ≤ 262144 && (data == 0 || e.2.nsb % 1024 == 0 || (tableBlock s x e.2 e.2.nsb).1 < x.nblk) && e.2.rsv == 0 && e.2.rsvM == 0 &&
        x.resv + data + leaves ≤ x.free.length := by decide +kernel
theorem witness_xlate : sole (seqM (.sqopXlate (fs 2)) 255) fun r => r.i == .sqopXlate (fs 2) && r.b.toNat < 256 := by decide +kernel
theorem witness_spilled : sole (askM (poolOf 80 [] []) [(0, { seqOf 256 1 with state := 2 })] (.sqopXlate (fs 2)) []) fun r =>
    ((askM (poolOf 80 [] []) [(0, { seqOf 256 1 with state := 2 })] (.sqopXlate (fs 2)) []).handleEntry r.pid r.a.toNat).any fun e =>
      e.2.state == 2 && r.i != .sqopDrop (fs 2) := by decide +kernel
theorem witness_xlate_past : sole (seqM (.sqopXlate (fs 2)) 256) fun r => r.i == .sqopXlate (fs 2) && 256 ≤ r.b.toNat := by decide +kernel
theorem witness_lost_pool : sole (askM (poolOf 80 [] []) [(0, { seqOf 256 1 with pool := 1 })] (.sqopTrim (fs 4)) []) fun r =>
    let s := askM (poolOf 80 [] []) [(0, { seqOf 256 1 with pool := 1 })] (.sqopTrim (fs 4)) []
    (s.handleEntry r.pid r.a.toNat).any fun e => e.2.state == 1 && (s.pool? r.pid e.2.pool).isNone := by decide +kernel

/-- A FORK to n of the 256 positions of a sequence with root 0, leaf 1 and data block 2: how many of the pool's blocks past the third
are free, and the count of block 2. -/
def forkM (n : DWord) (free count leaf : Nat) : State :=
  let s := askM (poolOf 80 ((List.range free).map (· + 3)) [(0, 1), (1, 1), (2, count)]) [(0, seqOf 256 1)] (.sqopFork (fs 3)) [(1, n)]
  { s with mem := memWrite (memWrite s.mem 0x100000 (bytesOf 4 leaf)) 0x101000 (bytesOf 4 2) }
abbrev forkQ (s : State) (n : Nat) (bad many short : Bool) : Prop := sole s fun r =>
  r.i == .sqopFork (fs 3) && r.b.toNat == n && Memory.wf s.mem && r.pid < 16 && (s.handleEntry r.pid r.a.toNat).any fun h =>
    let e := h.2
    e.state == 1 && (s.pool? r.pid e.pool).any fun x =>
      let bs := forkBlocks s x x e n
      x.mpool == e.pool && x.bshift == 12 && (bs.any fun z => !(z.1 < x.nblk && z.2 < x.nblk : Bool)) == bad &&
        (bs.take (forkShared x e n)).any (fun z => 65535 < forkCount s x x e n z.2) == many &&
        (x.free.length - x.resv < (bs.length - forkShared x e n) + (1 + ceilDiv bs.length 1024) : Bool) == short &&
        x.nblk < 2 ^ 32 && decide x.free.Nodup && (x.free.all fun b => b < x.nblk && x.count b == 0) &&
        (bs.all fun z => z.2 != 2 || x.count z.2 != 0) && e.nsb ≤ 262144 && (n > 256 || bs.length ≤ e.nsb) &&
        (s.handle? r.pid 1).isNone && e.gen < 2 ^ 20
theorem witness_fork_past : forkQ (forkM 257 8 1 1) 257 false false false := by decide +kernel
theorem witness_fork_bad : forkQ (forkM 256 8 1 80) 256 true false false := by decide +kernel
theorem witness_fork_over : forkQ (forkM 256 8 65535 1) 256 false true false := by decide +kernel
theorem witness_fork_short : forkQ (forkM 255 2 1 1) 255 false false true := by decide +kernel
theorem witness_fork : ∀ n ∈ [0, 255, 256], forkQ (forkM (BitVec.ofNat 64 n) 3 1 1) n false false false := by decide +kernel

/-- A handle table from entry k on, with n entries in use. -/
def usedTab (k : Nat) : Nat → Tab Handle
  | 0 => []
  | n + 1 => (k, seqOf 256 1) :: usedTab (k + 1) n
theorem usedTab_get (n : Nat) : ∀ k j, k ≤ j → j < k + n → tabGet (usedTab k n) j = some (seqOf 256 1) := by
  induction n with
  | zero => intro k j _ _; omega
  | succ n ih =>
    intro k j _ _
    simp only [usedTab, tabGet]
    split
    · rfl
    · exact ih _ _ (by omega) (by omega)
/-- SequenceOperationsComplete: a FORK with every entry of the handle table in use. -/
theorem witness_fork_full : ∀ j, j < 262144 → ∃ e', ((forkM 256 8 1 1).modPart 0 fun q => { q with handles := usedTab 0 262144 }).handle? 0 j = some e' ∧
    e'.state ≠ 0 := by
  intro j hj
  refine ⟨seqOf 256 1, ?_, by decide⟩
  have h : ((forkM 256 8 1 1).part? 0).isSome = true := by decide +kernel
  obtain ⟨q, hq⟩ := Option.isSome_iff_exists.1 h
  have g : ∀ (t : Tab Partition) (p : Partition), tabGet (tabSet t 0 p) 0 = some p := by
    intro t p
    cases t with
    | nil => rfl
    | cons e r => rcases e with ⟨_ | k, v⟩ <;> simp [tabSet, tabGet]
  have hq' : tabGet (forkM 256 8 1 1).parts 0 = some q := hq
  simp only [State.modPart, State.handle?, State.part?, State.setPart, hq', g, Option.bind_some]
  exact usedTab_get 262144 0 j (by omega) (by omega)
theorem witness_seq_trim : sole (seqM (.sqopTrim (fs 4)) 256) fun r => r.i == .sqopTrim (fs 4) && r.b.toNat ≤ 256 := by decide +kernel
theorem witness_drop : sole (seqM (.sqopDrop { f0 with f := 5 }) 0) fun r => r.i == .sqopDrop { f0 with f := 5 } := by decide +kernel

/-- ReaderSectionsComplete: depths 15, 0 and 1; a counter of 4,094 and of 4,095. -/
def depthM (d c : Nat) : State := (onLane laneM fun t => { t with rdepth := d }).modCore 0 fun k => { k with c0 := c }
theorem witness_sections : ∀ d ∈ [0, 1, 15], Here (depthM d 1) fun p _ => (p.active f0.g).all fun e => e.2.rdepth == d := by
  intro d hd
  simp only [List.mem_cons, List.not_mem_nil, or_false] at hd
  obtain rfl | rfl | rfl := hd <;> exact here (by decide +kernel)
theorem witness_section_full : ∀ c ∈ [4094, 4095], Here (depthM 0 c) fun p s =>
    ((p.active f0.g).filter fun e => e.2.rdepth == 0).length == 1 && (s.core 0).c0 == c := by
  intro c hc
  simp only [List.mem_cons, List.not_mem_nil, or_false] at hc
  obtain rfl | rfl := hc <;> exact here (by decide +kernel)

/-- A retire entry of epoch 0. -/
def entryOf (act : Nat) (addr arg : DWord) : Retire :=
  { epoch := 0, addr := addr, size := 4096, arg := arg, ctx := 0, fab := false, act := act, gstamp := 0 }
def queueM (e : Nat) (rq : List Retire) : State :=
  { (withPool (poolOf 2 [1] [(0, 1)]) [] (objM 2 laneM)).modPart 0 fun q => { q with rq := rq } with
    domains := [(0, { e := BitVec.ofNat 64 e, lastAdv := 0 })] }

/-- EpochAdvances: an advance that may be made. -/
theorem witness_advance : (let s := queueM 0 [entryOf 3 0 0]
    (s.coresOf 0).all (fun c => (s.core c).c1 == 0 && (s.core c).eSeen == 0) && (s.partsOf 0).all (fun p => p.2.held1 == 0) &&
      (s.partsOf 0).any fun p => p.2.rq != []) = true := by decide +kernel
/-- FabricEpochsMove: a report of another member, and of this device. -/
theorem witness_report : (let g : FabGroup := { g := 0, members := [0, 1], reports := [], arrived := [], waiting := [] }
    let s := { laneM with fabric := { laneM.fabric with groups := [(1, g)], epochTx := [1] } }
    1 != s.fabric.devId && (s.fabGroup 1).members.contains 1 && s.fabric.epochTx.contains 1) = true := by decide +kernel

/-- RetiredObjectsAreReleased: a SIZE of 0 is not acceptable; the 1,024th and the 1,025th entry. -/
theorem witness_retire_bad : Here ctlM fun p s =>
    p.ctl && p.w.ctl.guard f0.g && !s.retireOk p.w.id.pid f0 (p.opA p.w.ctl .retire f0) (p.opB p.w.ctl .retire f0) (p.opC p.w.ctl .retire f0) :=
  here (by decide +kernel)
def stampM (n : Nat) : State :=
  let s := after (.retire { f0 with b := 1, f := 3 }) { onCtl (queueM 0 []) fun t => { t with k := [(1, 1)] } with cur := some (.ctrl 0 0) }
  s.modPart 0 fun q => { q with rq := List.replicate n (entryOf 3 0 0) }
theorem witness_stamp : (match (stampM 1023).retireReqs 0 with
      | [r] => r.i == .retire { f0 with b := 1, f := 3 } && ((stampM 1023).wg? r.core r.slot).any fun w =>
          w.id.core == r.core && w.ctl.outs.any fun o => o.tag == r.tag
      | _ => false) = true := by decide +kernel
theorem witness_stamp_full : ([1023, 1024].all fun n => ((stampM n).part? 0).any fun P => P.rq.length == n) = true := by decide +kernel
/-- RetiredObjectsAreReleased: one epoch too early, and due with each action. -/
theorem witness_release_early : (((queueM 1 [entryOf 3 0 0]).part? 0).any fun P => P.rq == [entryOf 3 0 0] &&
    ((queueM 1 []).domain ((queueM 1 []).domOf 0)).e.toNat < 0 + 2) = true := by decide +kernel
theorem witness_release_block : (let s := queueM 2 [entryOf 0 0x100000 0]
    (s.domain (s.domOf 0)).e.toNat == 2 && (s.pool? 0 0).any fun x => x.blockAt 0x100000 == some 0) = true := by decide +kernel
theorem witness_release_arrive : (match (queueM 2 [entryOf 1 0 256]).agentArrive (agentOf 0 0) 256 4096 with | (.ok _, _) => true | _ => false) = true := by
  decide +kernel
theorem witness_release_write : (match (queueM 2 [entryOf 2 0 256]).agentWrite (agentOf 0 0) 256 (bytesOf 8 0) with | (.ok _, _) => true | _ => false) = true := by
  decide +kernel

/-! ### Counters, control registers, debugging, requests -/

/-- RoutingCountersCount: counters in canonical form; snapshots of 0, of 256 and of one too many; an offset that is no multiple of
4; a range of the last word and one past it. -/
theorem witness_route : Here (ctlM.modCore 0 fun c => c) fun _ s => cellsWf (s.cluster 0).counters := here (by decide +kernel)
theorem witness_snap_counts : ((0x000 : Nat) / 256 % 512 == 0 && 1 + 0x10001 / 256 % 512 == 257 && 0 + 0x10000 / 256 % 512 == 256) = true := by
  decide +kernel
theorem witness_snap : Here (atBase 3072 ctlM) fun p s => p.ctl && p.w.ctl.guard f0.g && p.opA p.w.ctl .rcsnap f0 % 2 ^ 32 % 4 == 0 &&
    p.w.rangeOk 3072 (4 * 256) && cellsWf p.w.scratch && cellsWf (s.cluster 0).counters := here (by decide +kernel)
theorem witness_snap_range : Here (atBase 3076 ctlM) fun p _ => p.opA p.w.ctl .rcsnap f0 % 2 ^ 32 % 4 == 0 && !p.w.rangeOk 3076 (4 * 256) :=
  here (by decide +kernel)
theorem witness_snap_misaligned : Here (atBase 3074 ctlM) fun p _ => p.opA p.w.ctl .rcsnap f0 % 2 ^ 32 % 4 != 0 := here (by decide +kernel)

/-- ControlRegistersComplete: a step in progress, and a register that is neither FIFOCFG nor ACCMASK. -/
theorem witness_csr : Here ctlM fun p s => csrNumbers.contains 0x14 && (s.ctx? p.w.id.pid p.w.id.ctx).any fun c => c.run.isSome :=
  here (by decide +kernel)

/-- A workgroup of 32 blocks of scratchpad, two segments, whose control thread holds a value in k0. -/
def segM (v : Nat) : State := atBase v (onWg ctlM fun w => { w with id := { w.id with scr := 32 } })

/-- FifosAndTilesAreConfigured: the last segment, one past it, one twice; an operation in flight does not concern the ignored. -/
theorem witness_fifocfg : Here (segM 0x8001) fun p _ => p.ctl && p.w.engOps == 0 &&
    !fifoCfgBad p.w (BitVec.ofNat 64 (p.opA p.w.ctl .csrw f0) &&& 0x803F803F#64) := here (by decide +kernel)
theorem witness_fifocfg_past : Here (segM 0x8002) fun p _ => fifoCfgBad p.w (BitVec.ofNat 64 (p.opA p.w.ctl .csrw f0) &&& 0x803F803F#64) :=
  here (by decide +kernel)
theorem witness_fifocfg_twice : Here (segM 0x80018001) fun p _ =>
    fifoCfgBad p.w (BitVec.ofNat 64 (p.opA p.w.ctl .csrw f0) &&& 0x803F803F#64) := here (by decide +kernel)
/-- FifosAndTilesAreConfigured: 16 tiles, 17 tiles, and a tile that the workgroup in slot 1 holds. -/
theorem witness_accmask : Here (segM 0xFFFF) fun p s => p.ctl && s.wgs.length == 1 &&
    ((List.range 64).filter fun i => (BitVec.ofNat 64 (p.opA p.w.ctl .csrw f0)).getLsbD i).length == 16 := here (by decide +kernel)
theorem witness_accmask_many : Here (segM 0x1FFFF) fun p _ =>
    16 < ((List.range 64).filter fun i => (BitVec.ofNat 64 (p.opA p.w.ctl .csrw f0)).getLsbD i).length := here (by decide +kernel)
def otherM : State := match (segM 1).wg? 0 0 with
  | some w => (segM 1).setWg { w with id := { w.id with slot := 1 }, csrs := { w.csrs with accmask := 1 } }
  | none => segM 1
theorem witness_accmask_held : Here otherM fun p s => p.ctl && s.wgs.any fun e =>
    e.2.id.core == p.w.id.core && e.2.id.slot != p.w.id.slot && e.2.csrs.accmask &&& BitVec.ofNat 64 (p.opA p.w.ctl .csrw f0) != 0 :=
  here (by decide +kernel)
theorem witness_accmask_stand : WgsStand otherM := stand_all (by decide +kernel)

/-- BanksReturn: 4,095 and 4,096 cycles after a bank fell empty; a bank that holds a unit. -/
theorem witness_bank : (let c := { Core.empty with banks := [(0, .scratch [] 0), (1, .scratch [(0, 1, 2)] 0)] }
    let s := { State.reset.setCore 0 c with cycle := 4096 }
    (s.core 0).bank 0 == .scratch [] 0 && (s.core 0).bank 1 == .scratch [(0, 1, 2)] 0 && 0 + 4096 ≤ s.cycle && !(0 + 4096 ≤ 4095 : Bool)) = true := by
  decide +kernel

/-- DebugCommandsComplete: a group that is halted, and none. -/
theorem witness_debug : Here (onWg ctlM fun w => w.setGroup 0 { Group.init with halted := true }) fun p _ =>
    p.ctl && p.w.ctl.guard f0.g && p.opA p.w.ctl .csrw f0 % 2 ^ 64 % 32 == 0 && p.w.ngroups == 1 && (p.w.group 0).halted := here (by decide +kernel)
theorem witness_debug_none : Here ctlM fun p _ => p.w.ngroups == 1 && !(p.w.group 0).halted := here (by decide +kernel)

/-- DebugRecordIsPosted: the 4,096th record of the queue, and no room. -/
theorem witness_record : ∀ n ∈ [4095, 4096], ((ctlM.modPart 0 fun q => { q with fqtail := BitVec.ofNat 64 n }).part? 0).any
    (fun P => (P.fqtail - P.fqhead).toNat == n) = true := by decide +kernel

/-- WaitsComplete: an operation in flight; a control thread that waits, before and at its time. -/
theorem witness_wait_eng : Here (onWg ctlM fun w => { w with engOps := 1 }) fun p _ => p.ctl && p.w.ctl.guard f0.g && p.w.engOps != 0 :=
  here (by decide +kernel)
theorem witness_wait_cyc : Stood (after (.waitCyc { f0 with a := 1, f := 1 }) (onCtl ctlM fun t => { t with k := [(1, 5)] })) fun w =>
    w.ctl.wait == .cyc 5 0 := stood (by decide +kernel)

/-- TranslationsAreInvalidated: context 0, and another. -/
theorem witness_tlbi : Here ctlM fun p s => p.ctl && p.w.id.ctx == 0 && (s.ctx? p.w.id.pid 0).isSome := here (by decide +kernel)
theorem witness_tlbi_other : Here (onWg ctlM fun w => { w with id := { w.id with ctx := 1 } }) fun p _ => p.ctl && p.w.id.ctx != 0 :=
  here (by decide +kernel)

/-- A request in a state with tokens to run and in the current step. -/
def reqOf (state prem q : Nat) : Request :=
  { kv := List.replicate 8 0, stop := [], tokb := 64, ring := 0, samp := 0, reqid := 7, lasttok := 0, admseq := 0, pos := 0, prem := prem
    maxlen := 100, fcause := 0, fsub := 0, slot := 0, state := state, asked := 2, pclass := 0, nstop := 0, owait := false, evcnt := 0, crm := 0
    cons := 2 ^ 32, q := q, pos0 := 0, prem0 := prem, emitted := none, held := none, finalWritten := false }

/-- The machine with its context changed. -/
def onCtx (s : State) (go : Context → Context) : State := s.modCtx 0 0 go

/-- The machine with one request in slot 0, which k0 names. -/
def reqM (r : Request) : State := atBase (2 ^ 31) (onCtx ctlM fun c => { c with adm := { c.adm with slots := [(0, r)] } })

/-- RequestOperationsComplete: a slot not bound; a token that ends the prefill and one that does not; another state. -/
theorem witness_unbound : Here ctlM fun p s => p.ctl && (s.boundSlot p.w.id (p.opA p.w.ctl .reqop f0)).isNone := here (by decide +kernel)
theorem witness_emit : Here (reqM (reqOf 2 1 1)) fun p s => p.ctl && (s.boundSlot p.w.id (p.opA p.w.ctl .reqop f0)).any fun x =>
    x.2.2.emitted == none && x.2.2.prem0 ≤ x.2.2.q && x.2.2.state == 2 := here (by decide +kernel)
theorem witness_emit_early : Here (reqM (reqOf 5 2 1)) fun p s => (s.boundSlot p.w.id (p.opA p.w.ctl .reqop f0)).any fun x =>
    x.2.2.q < x.2.2.prem0 && x.2.2.state != 2 := here (by decide +kernel)

/-! ### Remote operations -/

/-- VA 4,096 is a leaf of the frame at 0x6000 of a device; partition 0 is of a fabric group, and owns the frame. -/
def remoteM (dev : Nat) (s : State) : State :=
  let s := s.modPart 0 fun q => { q with fabric := true, fabgrp := 3 }
  { s with mem := memWrite s.mem 0x4008 (bytesOf 8 (0x63F1 + dev * 2 ^ 52 + 3 * 2 ^ 62))
           frames := [{ base := 0x6000, size := 4096, pid := 0, pinned := false, table := false }] }
def fr : LForm := { f0 with a := 0, b := 2, d := 4, s := 3 }

/-- RemoteAccessesComplete: a leaf of this device, and one of device 1, for a lane and for the control thread. -/
theorem witness_remote_here : ∀ e ∈ remoteRows fr, (let s := remoteM 0 (atBase 4096 laneM)
    s.path?.any fun x => (remotesHere e.2.1 e.2.2 fr x.1 (x.1.gather e.1 e.2.1 fr).lanes x.2).isSome) = true := by decide +kernel
def goesOut (s : State) : Bool := (remoteRows fr).all fun e =>
  s.path?.any fun x => match (x.1.gather e.1 e.2.1 fr).lanes with
    | [o] => eaOf e.2.1 fr o.a.toNat % remoteBytes e.2.1 fr == 0 && match x.1.spot x.2 o.lane 0 (eaOf e.2.1 fr o.a.toNat) (remoteBytes e.2.1 fr) e.2.2 true with
      | (.ok (.remote dev pa), s2) => dev == 1 && pa == 0x6000 && dev != s2.fabric.devId && ((x.1.reload s2).thread o.lane).any (fun th => th.wait == .none) &&
          s2.fabric.out == [] && s2.fabric.slotsUsed 0 dev false < ((s2.part? 0).map (·.rslots)).getD 0 && s2.fabric.pairUsed dev < 1024
      | _ => false
    | _ => false
theorem witness_remote_out : (goesOut (remoteM 1 (atBase 4096 laneM)) && goesOut (remoteM 1 (atBase 4096 ctlM))) = true := by decide +kernel

/-- A message from device 1 with a type, a status and data. -/
def msgOf (t : MsgType) (opc : BitVec 8) (data : List Byte) : Msg :=
  { dst := 0, src := 1, type := t, seq := 0, low := 0, spart := 2, len := data.length, opc := opc, retx := false, addr := 0x6000
    offs := List.range data.length, data := data }

/-- A request of a lane on its way to device 1, and the answer at hand. -/
def answerM (i : Instr) (m : Msg) : State :=
  let s := after i (remoteM 1 (atBase 4096 laneM))
  { s with fabric := { s.fabric with rx := [m] } }
def waitsFor (i : Instr) (m : Msg) : Bool := match (answerM i m).fabric.out, (answerM i m).wg? 0 0 with
  | [r], some w => r.sent && r.copy == none && r.core == 0 && r.slot == 0 && r.msg.dst == m.src && r.msg.seq == m.seq && r.i == i && match r.lanes, r.group with
    | [o], some g => (w.lane? g o.lane).any fun th => o.lane < 32 && (th.outs.any fun x => x.tag == r.outTag) && th.wait == .none
    | _, _ => false
  | _, _ => false

/-- RemoteAnswersComplete. -/
theorem witness_answers : (waitsFor (.rld fr) (msgOf .readData 0 [5]) && waitsFor (.rst fr) (msgOf .storeAck 0 []) &&
    waitsFor (.ratom fr) (msgOf .atomicResult 0 [1, 2, 3, 4, 0, 0, 0, 0]) && waitsFor (.rld fr) (msgOf .error 1 [])) = true := by decide +kernel
def copyOutM (t : MsgType) (m : Msg) : State :=
  let s := after (.rld fr) (remoteM 1 (atBase 4096 laneM))
  let op := (copyRunM.core 0).copies
  { s.modCore 0 (fun c => { c with copies := op }) with
    fabric := { s.fabric with rx := [m], out := s.fabric.out.map fun r => { r with copy := op.head?.map (·.tag), msg := { r.msg with type := t } } } }
theorem witness_copy_answer : ([(MsgType.rld, msgOf .readData 0 [5]), (.copyWrite, msgOf .copyCompletion 0 [])].all fun e =>
    match (copyOutM e.1 e.2).fabric.out, ((copyOutM e.1 e.2).core 0).copies with
    | [r], [op] => r.sent && r.copy == some op.tag && r.core == 0 && r.msg.dst == e.2.src && r.msg.seq == e.2.seq && r.msg.type == e.1
    | _, _ => false) = true := by decide +kernel

/-- A device that has received a message from device 1, whose partition 2 is of the group of partition 0. -/
def targetM (m : Msg) : State :=
  let s := remoteM 1 laneM
  { s with fabric := { s.fabric with rx := [m], pairs := [(1, 2, 3)] } }

/-- RemoteRequestsAreServed: accepted; and not accepted, one byte past the frame; served before. -/
theorem witness_serve_rld : (targetM (msgOf .rld 0 [0, 0])).targetStatus 1 2 0x6000 2 true = 0 := by decide +kernel
theorem witness_serve : (servedRows.all fun e =>
    let m := msgOf e.2.1 0 (List.replicate 16 1)
    let s := targetM m
    !seqBefore m.seq.toNat ((tabGet (s.fabric.passLow m).lows m.src).getD 0) && !((tabGet (s.fabric.passLow m).executed m.src).getD []).contains m.seq.toNat &&
      s.targetStatus 1 2 (served m).1 (served m).2 e.2.2.1 == 0 && s.targetStatus 1 2 0x6FFF 2 e.2.2.1 == 1) = true := by decide +kernel
theorem witness_serve_again : (servedRows.all fun e =>
    let m := msgOf e.2.1 0 (List.replicate 16 1)
    let s := after e.1 (targetM m)
    let s := { s with fabric := { s.fabric with rx := [m] } }
    ((tabGet (s.fabric.passLow m).executed m.src).getD []).contains m.seq.toNat &&
      ((s.fabric.passLow m).cache.find? fun r => r.dst == m.src && r.seq == m.seq).isSome) = true := by decide +kernel

/-- RemoteRequestsTimeOut: 99,999 ns and 100,000 ns after the last transmission, 500,000 ns after the first. -/
theorem witness_retransmit : (let s := answerM (.rld fr) (msgOf .multicast 0 [])
    match s.fabric.out with | [r] => r.sent && r.tries < 4 && r.last + 100000 ≤ 100000 && !(r.last + 100000 ≤ 99999 : Bool) && r.first + 500000 ≤ 500000 | _ => false) = true := by
  decide +kernel

/-- FabricBarrierReleases: an arrival of a member and of this device; a group that has arrived, with one object waiting. -/
theorem witness_fabric_barrier : (let g : FabGroup := { g := 0, members := [0, 1], reports := [], arrived := [0, 1], waiting := [(0, 0, 256)] }
    let s := { objM 2 laneM with fabric := { laneM.fabric with groups := [(3, g)], counterTx := [(3, 0)] } }
    (s.fabGroup 3).members.contains 1 && s.fabric.counterTx.contains (3, s.fabric.devId) && (s.fabGroup 3).waiting == [(0, 0, 256)] &&
      (s.fabGroup 3).members != [] && ((s.fabGroup 3).members.all fun d => (s.fabGroup 3).arrived.contains d) &&
      match s.agentUpdate (agentOf 0 0) 256 16 id with | (.ok _, _) => true | _ => false) = true := by decide +kernel

/-! ### Translation, faults, paging -/

/-- WalkFollowsTables: the placed tables; an entry that is not valid at each end of the walk; a large page. -/
theorem witness_walk : (let s := laneM
    [(0x0, 0x1000), (0x1000, 0x2000), (0x2000, 0x3000), (0x3000, 0x4000)].all (fun e => (s.phys e.1 8) % 2 == 1 && s.phys e.1 8 / 2 ^ 7 % 2 == 0 &&
      s.phys e.1 8 / 2 ^ 12 % 2 ^ 34 * 4096 == e.2) &&
    (let e := s.phys 0x4000 8
     e % 2 == 1 && e / 2 ^ 7 % 2 == 1 && e / 2 ^ 3 % 2 == 0 && e / 2 ^ 12 % 2 ^ 34 * 4096 == 0x5000 && s.badFrame (e / 2 ^ 62 % 4) 0x5000 4096 == none) &&
    s.phys (8 * ix (2 ^ 48) 4) 8 % 2 == 0 && s.phys (0x4000 + 8 * ix 4096 0) 8 % 2 == 0) = true := by decide +kernel
theorem witness_walk_large : (let s := { laneM with mem := memWrite laneM.mem 0x2008 (bytesOf 8 0x400000F1) }
    let e := s.phys (0x2000 + 8 * ix (2 ^ 30) 2) 8
    e % 2 == 1 && e / 2 ^ 7 % 2 == 1 && e / 2 ^ 3 % 2 == 0 && e / 2 ^ 12 % 2 ^ 34 * 4096 % 2 ^ 30 == 0 &&
      s.badFrame (e / 2 ^ 62 % 4) (e / 2 ^ 12 % 2 ^ 34 * 4096) (2 ^ 30) == none) = true := by decide +kernel

/-- A leaf with the given bits, and 31 or 32 collapses of the die. -/
def leafOf (e : Nat) : Leaf := { pte := 0x4008, e := e, va := 4096, size := 4096 }
def collapsing (n : Nat) : State :=
  { laneM with collapses := List.replicate n { die := 0, pid := 0, asid := 1, va := 0, pte := 0x4000 } }

/-- LeafDecidesAccess: a leaf for each clause. -/
theorem witness_leaf : ((leafOf (3 * 2 ^ 62)).tier == 3 && leafAllows (leafOf (3 * 2 ^ 62)) .read == some 1 &&
    leafAllows (leafOf (3 * 2 ^ 62 + 2 ^ 4)) .read == none && (leafOf (2 * 2 ^ 62)).tier == 2 && (leafOf 2).busy && (leafOf 0x400).disc && (leafOf 0x800).repl &&
    !(leafOf 0x870).busy && !(leafOf 0x870).disc && leafAllows (leafOf 0x70) .atomic == none && leafAllows (leafOf 0x50) .write == some 2 &&
    (collapsing 31).collapsesFor { pid := 0, ctx := 0, die := 0 } == 31 && (collapsing 32).collapsesFor { pid := 0, ctx := 0, die := 0 } == 32) = true := by
  decide +kernel

/-- TranslationMarksItsLeaf: the last byte of the placed page. -/
theorem witness_xlate_marks : (Memory.wf laneM.mem && match laneM.xlate { pid := 0, ctx := 0, die := 0 } 4095 .write false with
    | (.pa pa, some l, _) => pa == 0x5FFF && l.pte == 0x4000 | _ => false) = true := by decide +kernel

/-- A page of the region at VA 4,096, of kind ZERO, where there is one. -/
def regionBits : BitVec 256 := BitVec.ofNat 256 (4096 * 2 ^ 192 + 4096 * 2 ^ 128 + 2 ^ 48 + 0x70)

/-- A lane whose store met no page at 4,096; the record is on its way. -/
def faultM (rs : List (BitVec 256)) : State := { after (.st { fm with f := 2 }) (atBase 4096 (onCtx laneM fun c => { c with regions := rs })) with choice := [7, 8, 9, 10] }

/-- FaultsAreResolved: a page that can be installed, an address of no region, no frame left, and a record of another cause. -/
theorem witness_resolve : ([[regionBits], []].all fun rs => (tabGet (faultM rs).frecs 0).any fun q =>
    q.outcome == none && bitsAt q.bits.toNat 79 72 == 5 && bitsAt q.bits.toNat 29 28 == 1 &&
      match (faultM rs).resolve q.pid (bitsAt q.bits.toNat 45 41) (bitsAt q.bits.toNat 255 192) 5 (bitsAt q.bits.toNat 71 64) with
      | .installed _ => rs != [] | .fatal => rs == [] | .noMemory => false) = true := by decide +kernel
theorem witness_resolve_none : (let s := { faultM [regionBits] with frames := [{ base := 0, size := 2 ^ 44, pid := 1, pinned := true, table := false }] }
    match s.resolve 0 0 4096 5 1 with | .noMemory => true | _ => false) = true := by decide +kernel
theorem witness_resolve_other : ((tabGet (after (.ld { fm with f := 2 }) (atBase 255 laneM)).frecs 0).any fun q =>
    q.outcome == none && bitsAt q.bits.toNat 79 72 == 3) = true := by decide +kernel
theorem witness_resolve_collapse : ((tabGet (after (.st { fm with f := 2 }) (atBase 4096
      { collapsing 32 with mem := memWrite laneM.mem 0x4008 (bytesOf 8 0x6BF1) })).frecs 0).any fun q =>
    q.outcome == none && bitsAt q.bits.toNat 79 72 == 0x0B) = true := by decide +kernel

/-- FaultQueueIsWritten: a decided record, with room for one and with none. -/
theorem witness_fault_queue : ([4095, 4096].all fun n =>
    let s := (after (.faultResolution 0) (faultM [regionBits])).modPart 0 fun q => { q with fqtail := BitVec.ofNat 64 n }
    (tabGet s.frecs 0).any fun q => q.outcome == some 0 && (s.part? q.pid).any fun P => (P.fqtail - P.fqhead).toNat == n) = true := by decide +kernel

/-- ReplayCompletes: the store above, its page installed and its record written. -/
def replayM : State := after (.faultQueueWrite 0) (after (.faultResolution 0) (faultM [regionBits]))
theorem witness_replay : Stood replayM fun w => match (w.group 0).replay with
    | some q =>
      let f := { fm with f := 2 }
      let p : Path := { w := w, ctl := false, grp := 0, mask := (w.group 0).pend, uni := w.s }
      (w.group 0).susp == .replay && q.i == .st f && q.len == codedLen false f && (w.group 0).pend == maskOfLanes (q.lanes.map (·.lane)) &&
        q.lanes.map (·.lane) == [0] && (tabGet w.groups 0).isSome && tabSet w.groups 0 (w.group 0) == w.groups && (replayM.setWg w).wgs == replayM.wgs &&
        (q.lanes.all fun o => (w.lane? 0 o.lane).any fun th => th.region == none) && (storesOf .st f p 4 q.lanes replayM).isSome
    | none => false := stood (by decide +kernel)
theorem witness_replay_stand : WgsStand replayM := stand_all (by decide +kernel)

/-- A control thread whose store met a page with the given leaf bits. -/
def storeM (e : Nat) : State :=
  after (.st { fm with f := 2 }) (atBase 4096 { ctlM with mem := memWrite ctlM.mem 0x4008 (bytesOf 8 e) })

/-- CollapsesFinish: a page another's collapse keeps BUSY, and the thread's own collapse. -/
theorem witness_busy : Stood (storeM 0x63F3) fun w => w.ctlSusp == .busy 4096 && (storeM 0x63F3).pageBusy w.id.pid w.id.ctx 4096 :=
  stood (by decide +kernel)
theorem witness_collapse : Stood (storeM 0x6BF1) fun w => w.ctlSusp == .collapse 4096 &&
    ((storeM 0x6BF1).collapses.find? fun c => c.pid == w.id.pid && c.va == 4096).any fun c =>
      ((storeM 0x6BF1).part? c.pid).any fun P => (P.ctxs.find? fun e => e.2.asid == c.asid).any fun x =>
        match (storeM 0x6BF1).walk c.va.toNat x.2.l4base 4 with | .ok l => l.pte == 0x4008 | _ => false := stood (by decide +kernel)

/-- ReplicasFillAndDrop. -/
theorem witness_replica : (let s := { laneM with replicas := [{ die := 1, pid := 0, home := 0x5000, frame := 0xC_0000_0000, size := 4096, filled := false }] }
    Memory.wf s.mem && (s.replicas.find? fun r => r.die == 1 && r.home == 0x5000 && !r.filled).isSome && !s.lostAt 0x5000 &&
    ({ s with dev := { s.dev with lostDies := 1 } } : State).lostAt 0x5000) = true := by decide +kernel

/-- PagesMoveAndGo: a page of a ZERO region and a frame for it; a discarded page. -/
def pageM (e : Nat) : State :=
  { onCtx laneM (fun c => { c with regions := [regionBits] }) with mem := memWrite laneM.mem 0x4008 (bytesOf 8 e), choice := [7] }
theorem witness_move : (Memory.wf (pageM 0x63F1).mem && ((pageM 0x63F1).ctx? 0 0).any fun c => ((pageM 0x63F1).movable c 4096).any fun l =>
    l.pte == 0x4008 && l.frame == 0x6000 && l.e < 2 ^ 64 && !(pageM 0x63F1).lostAt l.frame && ((pageM 0x63F1).allocFrame 0 0 0 l.size).any fun x => x.1 == 0x7000) = true := by decide +kernel
theorem witness_reclaim : (((pageM 0x67F1).ctx? 0 0).any fun c => match (pageM 0x67F1).walk 4096 c.l4base 4 with
    | .ok l => l.disc && !l.busy && l.tier ≤ 1 && l.pte + 8 ≤ l.frame | _ => false) = true := by decide +kernel

/-! ### Workgroups and steps -/

/-- A node of one workgroup of 32 lanes of 8 registers, with one block of scratchpad, its lanes at 256. -/
def nodeBits : BitVec 1024 := BitVec.ofNat 1024 (256 * 2 ^ 896 + 2 ^ 488 + 32 * 2 ^ 457 + 8 * 2 ^ 450 + 2 ^ 440)

/-- The step in progress has that node, with nothing started. -/
def nodeM (s : State) : State := onCtx s fun c => { c with
  run := c.run.map fun r => { r with nodes := [{ record := nodeBits, grid := 1, taken := [], done := [] }] } }

/-- WorkgroupsStart: slot 0 is taken, slot 7 is free. -/
theorem witness_start : (((nodeM laneM).ctx? 0 0).any fun c => match (nodeM laneM).nextPlaced 0 0 c with
    | (some (i, w, core), s1) => i == 0 && w == 0 && core < 288 && (c.run.any fun r => (r.node? i).any fun n => !ndClpl n.record && ndArgs n.record == 0) &&
        !(nodeM laneM).outranked 0 c core && (s1.wg? 0 0).isSome && (s1.wg? core 7).isNone
    | _ => false) = true := by decide +kernel

/-- WorkgroupsCompleteAndFetch: everything has ended; a thread has not; a persistent workgroup with a mailbox that is misaligned,
past its allocation, unanswered, of a drained grid, and of a grid with units left. -/
def overM : State := onWg laneM fun w => { w with ctl := { w.ctl with ended := true }, lanes := w.lanes.map fun e => (e.1, { e.2 with ended := true }) }
theorem witness_over : Stood overM fun w => w.ctl.ended && w.lanes.all (fun e => e.2.ended) && w.engOps == 0 && w.mailbox == none := stood (by decide +kernel)
theorem witness_not_over : Stood laneM fun w => w.mailbox == none && !w.ctl.ended := stood (by decide +kernel)
def fetchM (a : Nat) (go : Wg → Wg) : State := atBase a (onWg ctlM fun w => go { w with id := { w.id with persist := true } })
theorem witness_fetch_off : Here ctlM fun p _ => p.ctl && !p.w.id.persist := here (by decide +kernel)
theorem witness_fetch_misaligned : Here (fetchM 16 id) fun p _ => p.w.id.persist && p.opA p.w.ctl .fetchw f0 % 2 ^ 32 % 32 != 0 := here (by decide +kernel)
theorem witness_fetch_range : Here (fetchM 4096 id) fun p _ => p.opA p.w.ctl .fetchw f0 % 2 ^ 32 % 32 == 0 && !p.w.rangeOk 4096 32 := here (by decide +kernel)
def fetchQ (p : Path) : Bool := p.ctl && p.w.ctl.guard f0.g && p.w.id.persist && p.opA p.w.ctl .fetchw f0 == 4064 && p.w.rangeOk 4064 32
theorem witness_fetch_waits : Here (fetchM 4064 fun w => { w with mailbox := some (0, none) }) fun p _ => fetchQ p && p.w.mailbox != none := here (by decide +kernel)
theorem witness_fetch_drained : Here (fetchM 4064 fun w => { w with drained := true }) fun p _ => fetchQ p && p.w.mailbox == none && p.w.drained :=
  here (by decide +kernel)
theorem witness_fetch : Here (fetchM 4064 fun w => { w with engOps := 1 }) fun p _ => fetchQ p && p.w.mailbox == none && !p.w.drained && p.w.engOps != 0 :=
  here (by decide +kernel)

/-- FormationsForm: nothing to run; not due; a retry early; one request that decodes, and one of 8 tokens with a chunk of 4. -/
def formM (r : List Request) (due : Bool) : State := onCtx laneM fun c => { c with
  run := none, formNext := due, retryAt := 100, chunk := 4, tokbud := 16, adm := { c.adm with slots := r.map fun x => (0, x) } }
theorem witness_form_idle : (((formM [] true).ctx? 0 0).any fun c => c.run.isNone && c.cstate == 2 && !laneM.dev.linkLost && c.formNext && c.adm.slots == [] &&
    c.adm.queue == [] && c.adm.evicted == []) = true := by decide +kernel
theorem witness_form_not_due : (((formM [] false).ctx? 0 0).any fun c => !c.formNext && (formM [] false).ns < c.retryAt) = true := by decide +kernel
theorem witness_form : ([1, 8].all fun n => [(true, 0), (false, 100)].all fun d =>
    let s := { formM [reqOf 2 n 0] d.1 with ns := d.2 }
    (s.ctx? 0 0).any fun c => match c.adm.slots with
      | [(k, r)] => k == 0 && r.kv == List.replicate 8 0 && r.state == 2 && 0 < r.prem && 0 < c.chunk && 0 < s.tokbudOf 0 c && (c.formNext || c.retryAt ≤ s.ns) &&
          match (s.setCtx 0 0 { c with cstate := 2, formNext := false }).ringIsFull (agentOf 0 0) r with
          | (full, r', s2) => !full && r'.prem == r.prem && r'.state == 2 && r'.kv == r.kv &&
              s2.parts == (s.setCtx 0 0 { c with cstate := 2, formNext := false }).parts
      | _ => false) = true := by decide +kernel

/-- StepsClose: a node not done; a prefill that goes on; its last tokens without a token, and with one. -/
def closeM (r : Request) (last : Bool) : State := onCtx laneM fun c => { c with
  run := c.run.map fun x => { x with nodes := [{ record := nodeBits, grid := 1, taken := [0], done := if last then [0] else [] }] }
  adm := { c.adm with slots := [(0, r)] } }
theorem witness_close : ([(reqOf 2 8 4, false), (reqOf 2 8 4, true), (reqOf 2 4 4, true), ({ reqOf 2 4 4 with emitted := some 9 }, true)].all fun e =>
    ((closeM e.1 e.2).ctx? 0 0).any fun c => c.cstate == 2 && !c.haltAtClose && (c.run.any fun r => r.nodes.all fun x => (x.done.length == x.grid) == e.2) &&
      c.adm.slots == [(0, e.1)] && 0 < e.1.q) = true := by decide +kernel
theorem witness_close_token : (let s := closeM { reqOf 2 4 4 with emitted := some 9 } true
    match s.agentWrite (agentOf 0 0) (64 * 4 + 4 * (0 + 4)) (bytesOf 4 9) with | (.ok _, t) => t.parts == s.parts | _ => false) = true := by decide +kernel

/-- ContextsAreSavedAndRestored: a PREEMPTED context on its core; saved; and its turn come. -/
def preemptM : State := onCtx { laneM with cur := none } fun c => { c with cstate := 3 }
theorem witness_save : (((preemptM.ctx? 0 0).any fun c => c.cstate == 3) && preemptM.ctxWgs 0 0 != [] && preemptM.quiet false 0 0) = true := by decide +kernel
def savedM : State := after (.contextSave 0 0) preemptM
theorem witness_swap : ((savedM.ctx? 0 0).any fun c => c.saved != [] && !c.swapped &&
    savedM.parts.all fun p => p.2.ctxs.all fun e => e.2.saved == [] || e.2.swapped || c.savedAt ≤ e.2.savedAt) = true := by decide +kernel
theorem witness_restore : ((savedM.ctx? 0 0).any fun c => c.cstate == 3 && savedM.ctxWgs 0 0 == [] && savedM.turnCome 0 c &&
    (savedM.parts.all fun p => p.2.ctxs.all fun e => e.2.cstate != 3 || savedM.prioOf 0 c ≤ savedM.prioOf 0 e.2) &&
    c.saved.all (fun x => savedM.slotReady x) && c.saved.length == 1) = true := by decide +kernel

/-- DeadlineHalts: at the deadline, and one cycle past it. SysHaltHalts: nothing in flight, and an operation. -/
def deadM (cycles : Nat) : State := { onCtx { laneM with cur := none } fun c => { c with margin := 0, run := c.run.map fun r => { r with deadline := 100 } } with cycle := cycles }
theorem witness_deadline : ([100, 101].all fun n => ((deadM n).ctx? 0 0).any fun c => c.cstate == 2 && c.margin != 0xFFFFFFFF && (deadM n).quiet true 0 0 &&
    c.run.any fun r => (r.count + (r.since.map fun t => (deadM n).cycle - t).getD 0 ≤ r.deadline.toNat : Bool) == (n == 100 : Bool)) = true := by decide +kernel
theorem witness_halt : Here ctlM fun p s => p.ctl && (s.ctx? p.w.id.pid p.w.id.ctx).isSome && s.quiet false p.w.id.pid p.w.id.ctx := here (by decide +kernel)
theorem witness_halt_waits : Here { after (.balloc f0) ctlM with cur := some (.ctrl 0 0) } fun p s => !s.quiet false p.w.id.pid p.w.id.ctx :=
  here (by decide +kernel)

/-! ### Commands and the host -/

/-- A command of a code with the bytes from byte 8 on. -/
def cmdOf (code : Nat) (rest : List Byte) : List Byte := leBytes 2 code ++ List.replicate 6 0 ++ rest

/-- Firmware runs, and the command stands in the mailbox of partition 0 or of PF0. -/
def posted (cmd : List Byte) (s : State) : State :=
  let m := { Mailbox.empty with busy := true, issued := cmd }
  { s.modPart 0 (fun q => { q with mbox := m }) with dev := { s.dev with boot := .ready, mbox := m } }

/-- A mailbox holds a command of a code whose bytes without a meaning are zero or not. -/
def holds (s : State) (fn : Fn) (code : Nat) (named : List (Nat × Nat)) (ok : Bool) : Bool :=
  (s.mbox? fn).any fun m => m.busy && cmdNat m.issued 0 2 == code && s.dev.boot == .ready && cmdZeroOk m.issued named == ok

/-- MailboxesAnswer: no command, and one with a byte that has no meaning. -/
theorem witness_command_none : ((commandRows 0).all fun e => (laneM.mbox? e.2.1).any fun m => !m.busy) = true := by decide +kernel
theorem witness_command_bad : ((commandRows 0).all fun e =>
    holds (posted (cmdOf e.2.2.1 (List.replicate 4089 1)) laneM) e.2.1 e.2.2.1 e.2.2.2 false) = true := by decide +kernel

/-- ContextsAreLoaded: a record within its limits for context 1, with pool 0 for its sequences; CHUNK 0 is not within them. -/
def imageOf (chunk : Nat) : Nat := 4096 * 2 ^ 1696 + 2 ^ 1496 + chunk * 2 ^ 1232 + 2 ^ 1221 + 2 ^ 1183 + 4 * 2 ^ 1408
def loadM (chunk n : Nat) : State :=
  let s := withPool { poolOf 1 [0] [] with tier := 1 } [] laneM
  { posted (cmdOf 1 (BitVec.ofNat 8 n :: List.replicate 55 0 ++ bytesOf 256 (imageOf chunk))) (s.modPart 0 fun q => { q with nctx := 2, tokbud := 1 })
    with choice := [1, 6, 7, 8, 9, 10, 11, 12] }
theorem witness_load_limits : ([0, 1].all fun k => holds (loadM k 1) (.vf 0) 1 [(8, 9), (64, 320)] true &&
    ((loadM k 1).dev.mbox.issued |> fun cmd => cmdNat cmd 8 1 == 1 && (Context.ofImage (cmdNat cmd 64 256)).limitsOk == (k == 1))) = true := by decide +kernel
theorem witness_ctx_load : (let s := loadM 1 1
    let cmd := s.dev.mbox.issued
    let c := Context.ofImage (cmdNat cmd 64 256)
    let full := { c with regions := s.regionTable c.rgntab }
    c.limitsOk && (s.ctx? 0 0).isSome && (s.ctx? 0 1).isNone && (s.part? 0).any fun P => P.state != 4 && P.state != 5 && s.loadOk 0 1 full P && (s.buildTables 0 full).isSome) = true := by
  decide +kernel
theorem witness_load_fails : (let s := loadM 1 2
    let c := Context.ofImage (cmdNat s.dev.mbox.issued 64 256)
    (s.part? 0).any fun P => !s.loadOk 0 2 { c with regions := s.regionTable c.rgntab } P) = true := by decide +kernel
theorem witness_load_full : (let s := { loadM 1 1 with frames := [{ base := 0, size := 2 ^ 44, pid := 1, pinned := true, table := false }] }
    let c := Context.ofImage (cmdNat s.dev.mbox.issued 64 256)
    (s.buildTables 0 { c with regions := s.regionTable c.rgntab }).isNone) = true := by decide +kernel

/-- LoadedContextsAreCommanded: a context that runs; one halted by the host while IDLE, by DEADLINE, and in a step; no context. -/
def haltedM (code rsn : Nat) (idle run : Bool) : State := posted (cmdOf code [0]) (onCtx { laneM with cur := none } fun c => { c with
  cstate := 4, haltrsn := rsn, wasIdle := idle, run := if run then c.run else none })
theorem witness_ctx_runs : ([3, 4, 2].all fun k => let s := posted (cmdOf k [0]) { laneM with cur := none }
    holds s (.vf 0) k [(8, 9)] true && (s.part? 0).any (fun P => P.state != 4) && (s.ctx? 0 0).any (fun c => c.cstate != 4) &&
      s.quiet false 0 0 && s.quiet true 0 0) = true := by decide +kernel
theorem witness_ctx_busy : (let s := posted (cmdOf 3 [0]) { after (.balloc f0) ctlM with cur := none }
    !s.quiet false 0 0 && !s.quiet true 0 0) = true := by decide +kernel
theorem witness_ctx_halted : ([(1, true, false), (3, false, false), (1, false, true)].all fun e =>
    ((haltedM 4 e.1 e.2.1 e.2.2).ctx? 0 0).any fun c => c.cstate == 4 && c.haltrsn == e.1 && c.wasIdle == e.2.1 && c.run.isSome == e.2.2) = true := by decide +kernel
theorem witness_ctx_waits : (let s := (haltedM 4 1 false true).modPart 0 fun q => match tabGet q.ctxs 0 with
      | some c => { q with ctxs := [(0, { c with prio := 5 }), (1, { c with cstate := 2, prio := 1 })] } | none => q
    (s.ctx? 0 0).any fun c => c.cstate == 4 && c.run != none && s.turnCome 0 { c with cstate := 3, haltrsn := 0 } == false) = true := by
  decide +kernel
theorem witness_ctx_none : (let s := posted (cmdOf 3 [1]) laneM
    holds s (.vf 0) 3 [(8, 9)] true && (s.ctx? 0 1).isNone) = true := by decide +kernel

/-- PoolCommandsComplete: a pool of the most bytes within the limits of VBASE; one past them; an existing one; a range in use; and its end. -/
def poolCmd (va n id : Nat) : List Byte := cmdOf 5 (bytesOf 8 va ++ bytesOf 4 n ++ [BitVec.ofNat 8 id, 12, 0, 0, 0])
def poolM (va n id : Nat) (pools : Tab Pool) : State :=
  { posted (poolCmd va n id) (laneM.modPart 0 fun q => { q with pools := pools, ctxs := [] }) with choice := [7] }
def poolQ (s : State) (limits fits present : Bool) : Bool :=
  let cmd := s.dev.mbox.issued
  let n := cmdNat cmd 20 1
  let x := Pool.ofCmd cmd
  holds s (.vf 0) 5 [(8, 25)] true && x.limitsOk n == limits && s.poolFits 0 n x == fits && (s.poolRec? 0 n).isSome == present
theorem witness_pool : (poolQ (poolM (2 ^ 57 - 4096) 1 0 []) true true false && ((poolM (2 ^ 57 - 4096) 1 0 []).allocRange 0 0 0 4096 4096).isSome) = true := by decide +kernel
theorem witness_pool_limits : poolQ (poolM (2 ^ 57 - 4096) 2 0 []) false true false = true := by decide +kernel
theorem witness_pool_present : poolQ (poolM 0 1 0 [(0, poolOf 1 [0] [])]) true true true = true := by decide +kernel
theorem witness_pool_meets : poolQ (poolM 0x100000 1 0 [(1, poolOf 1 [0] [])]) true false false = true := by decide +kernel
theorem witness_pool_destroy : ([([0], false), ([], true)].all fun e => let s := posted (cmdOf 6 [0]) (withPool (poolOf 1 e.1 []) [] laneM)
    holds s (.vf 0) 6 [(8, 9)] true && (s.poolRec? 0 0).any fun x => s.poolInUse 0 0 x == e.2) = true := by decide +kernel

/-- ReportsAreAnswered. -/
theorem witness_attest : (let s := posted (cmdOf 7 (List.replicate 32 9)) laneM
    holds s (.vf 0) 7 [(8, 40)] true && 40 ≤ s.dev.mbox.issued.length && (s.part? 0).any fun P => P.state != 4) = true := by decide +kernel
theorem witness_health : ([Fn.pf0, .vf 0].all fun fn => holds (posted (cmdOf 8 []) laneM) fn 8 [] true) = true := by decide +kernel

/-- IdentityIsAnswered: each stage, and a device that has not started. -/
theorem witness_identity : (let s := { posted [] laneM with dev := { (posted [] laneM).dev with spdmStage := 3, flash := { Flash.blank with cert := [1] } } }
    s.dev.boot == .ready && 3 ≤ s.dev.spdmStage && 0 < s.dev.flash.cert.length && laneM.dev.boot != .ready) = true := by decide +kernel

/-- PortsAndRegistersTakeWrites: 4,095 requests in the queue and 4,096; a coalescing count reached; entries that have waited. -/
theorem witness_admission : ([4095, 4096].all fun n => ((onCtx laneM fun c => { c with adm := { c.adm with queue := List.replicate n (reqOf 2 1 0) } }).ctx? 0 0).any
    fun c => c.adm.queue.length == n) = true := by decide +kernel
theorem witness_coalescing : (let s := { onCtx laneM (fun c => { c with adm := { c.adm with pending := 2, oldest := 0 } }) with ns := 50000 }
    (s.ctx? 0 0).any fun c => c.adm.pending != 0 && c.adm.oldest + 1000 * c.adm.time ≤ s.ns && max 1 2 ≤ c.adm.pending && (laneM.ctx? 0 0).any fun c => c.adm.pending == 0) = true := by
  decide +kernel
/-- WindowsTakeAccesses: the last bytes of a page through the aperture, and a page that is not there. -/
def apertureM : State := laneM.modPart 0 fun q => { q with apbase := 1 }
theorem witness_aperture : ((apertureM.part? 0).any fun P => (P.ctxs.find? fun e => e.2.asid == P.apbase.toNat % 2 ^ 16).any fun e =>
    4092 % 4096 + 4 ≤ 4096 && (match apertureM.apSpot 0 e.1 e.2 4092 4 .write with | (some (.mem pa), _) => pa == 0x5FFC | _ => false) &&
      match apertureM.walk 4096 e.2.l4base 4 with | .error _ => true | _ => false) = true := by decide +kernel
theorem witness_doorbell : ((laneM.mbox? (.vf 0)).any (fun m => !m.busy) && ((posted [] laneM).mbox? .pf0).any fun m => m.busy) = true := by decide +kernel

/-- PartitionCommandsComplete: a record of partition 1, shared or strict, of clusters 1 and 2; TOKBUD 0; clusters in use; no isolation. -/
def partCmd (strict : Bool) (tokbud clm : Nat) (ways : Nat) : List Byte :=
  cmdOf 0x40 (1 :: List.replicate 7 0 ++ bytesOf 128 (2 ^ 60 + b2n strict * 2 ^ 55 + 2 ^ 32 + clm * 2 ^ 128 + tokbud * 2 ^ 624 + 2 ^ 650 + 2 ^ 656 + ways * 2 ^ 688 + ways * 2 ^ 704))
def partQ (strict : Bool) (tokbud clm ways : Nat) (ok iso free evac : Bool) : Bool :=
  let s := posted (partCmd strict tokbud clm ways) { laneM with choice := List.replicate 8 7 }
  let x := cmdNat s.dev.mbox.issued 16 128
  let p := Partition.ofImage 1 x
  holds s .pf0 0x40 [(8, 9), (16, 144)] true && cmdNat s.dev.mbox.issued 8 1 == 1 && partImageOk 1 x p == ok && s.isolated p == iso &&
    s.clustersFree 1 p == free && (s.part? 1).isNone && p.strict == strict && (!evac || ((s.setPart 1 p).evacuate 1 p).isSome)
theorem witness_part : (partQ false 1 6 0 true true true false && partQ true 1 6 1 true true true true) = true := by decide +kernel
theorem witness_part_limits : (partQ false 0 6 0 false true true false && partQ false 16384 6 0 true true true false && partQ false 16385 6 0 false true true false) = true := by
  decide +kernel
theorem witness_part_refused : (partQ true 1 6 0 true false true false && partQ false 1 3 0 true true false false) = true := by decide +kernel
theorem witness_part_destroy : ([0, 1, 15, 16].all fun n => let s := posted (cmdOf 0x41 [BitVec.ofNat 8 n]) laneM
    holds s .pf0 0x41 [(8, 9)] true && cmdNat s.dev.mbox.issued 8 1 == n && (s.part? n).isSome == (n == 0)) = true := by decide +kernel

/-- ClocksFollowPowerAndHeat: POWER_LIMIT at and past each end of its range. -/
theorem witness_power : ([1199, 1200, 2000, 2001].all fun n => let s := posted (cmdOf 0x42 (bytesOf 4 n)) laneM
    holds s .pf0 0x42 [(8, 12)] true && cmdNat s.dev.mbox.issued 8 4 == n) = true := by decide +kernel

/-- FirmwareCommandsComplete: the longest chunk at the end of the slot, one 16 bytes past it; a commit of an empty slot. -/
theorem witness_chunk : ([(0x3FFF110, true), (0x3FFF120, false)].all fun e => let s := posted (cmdOf 0x43 (bytesOf 4 e.1 ++ bytesOf 4 4080)) laneM
    holds s .pf0 0x43 [(8, 4096)] true && (cmdNat s.dev.mbox.issued 8 4 + cmdNat s.dev.mbox.issued 12 4 ≤ 0x4000100 : Bool) == e.2 &&
      cellsWf (s.dev.flash.slot s.dev.idleSlot)) = true := by decide +kernel
theorem witness_commit : (holds (posted (cmdOf 0x44 []) laneM) .pf0 0x44 [] true && (imgBad (laneM.dev.flash.slot laneM.dev.idleSlot) 0).isSome &&
    holds (posted (cmdOf 0x45 []) laneM) .pf0 0x45 [] true) = true := by decide +kernel


/-! ### Further machines: waits, ages of memory, pages, functions that do not answer -/

/-- FifosAndTilesAreConfigured: an unanswered FETCHW whose mailbox is in the segment. -/
theorem witness_fifocfg_waits : Here (onWg (segM 0x8001) fun w => { w with mailbox := some (65536, none) }) fun p s => p.ctl &&
    p.w.ctl.guard f0.g && !fifoCfgBad p.w (BitVec.ofNat 64 (p.opA p.w.ctl .csrw f0) &&& 0x803F803F#64) &&
      s.reaches p.w (p.w.fifoChanges (BitVec.ofNat 64 (p.opA p.w.ctl .csrw f0) &&& 0x803F803F#64)) := here (by decide +kernel)

/-- An RLD of device 1 that is outstanding, its thread about to issue again. -/
def awaitM (ctl : Bool) : State :=
  let s := remoteM 1 (atBase 4096 (if ctl then ctlM else laneM))
  { after (.rld { fr with la := 1 }) s with cur := s.cur }

/-- TranslationsAreInvalidated: the RLD used a translation that either form covers. -/
theorem witness_tlbi_waits : Here (awaitM true) fun p s => p.ctl && p.w.ctl.guard f0.g && p.w.id.ctx == 0 &&
    s.remoteIn p.w.id.pid (s.asidOf p.w.id.pid p.w.id.ctx) 0 (2 ^ 57) && (s.asids p.w.id.pid).any fun x => s.remoteIn p.w.id.pid x 0 (2 ^ 57) :=
  here (by decide +kernel)
theorem witness_tlbi_free : Here ctlM fun p s => p.ctl && (s.asids p.w.id.pid).length == 1 &&
    (s.asids p.w.id.pid).all fun x => !s.remoteIn p.w.id.pid x 0 (2 ^ 57) := here (by decide +kernel)

/-- RemoteAccessesComplete: the line is named already; and it is not, in every machine above. -/
theorem witness_clash : ∀ e ∈ remoteRows fr, Here (awaitM false) fun p s => s.remoteClash p e.2.1 fr (p.gather e.1 e.2.1 fr).lanes := by
  simp only [remoteRows, List.mem_cons, List.not_mem_nil, or_false, forall_eq_or_imp, forall_eq]
  exact ⟨here (by decide +kernel), here (by decide +kernel), here (by decide +kernel)⟩
theorem witness_no_clash : ([remoteM 0 (atBase 4096 laneM), remoteM 1 (atBase 4096 laneM), remoteM 1 (atBase 4096 ctlM)].all fun s =>
    (remoteRows fr).all fun e => s.path?.any fun x => !x.2.remoteClash x.1 e.2.1 fr (x.1.gather e.1 e.2.1 fr).lanes) = true := by decide +kernel

/-- FlitsAreReceived: a flit of two messages on a port that is up; one whose CRC is wrong. -/
def flitMsgs2 : List Msg := [msgOf .readData 0 [5], msgOf .rld 0 []]
theorem witness_flit : (match flitOf 0 0 0 0 flitMsgs2 with
    | some f => laneM.fabric.portsDown.getLsbD 15 == false && flitGood f && flitSeq f == (tabGet laneM.fabric.rxSeq 15).getD 0 &&
        flitMsgs f == some flitMsgs2 && !flitGood (1 :: f.drop 1)
    | none => false) = true := by decide +kernel
theorem witness_msg_fits : ∀ m ∈ flitMsgs2, m.dst < 1024 ∧ m.src < 1024 ∧ m.spart < 16 ∧ m.len ≤ 224 ∧ m.addr < 2 ^ 46 ∧
    m.data.length = (if m.type = .rld then 0 else m.len) ∧ m.offs = (List.range m.len).map fun i => m.addr % 128 + i := by decide +kernel

/-- WalkFollowsTables: each table entry in a sector that can be read, and one in a sector that cannot. -/
theorem witness_walk_reads : ([0x0, 0x1000, 0x2000, 0x3000, 0x4000].all fun a => laneM.eccSub a 8 true == none) = true := by decide +kernel
theorem witness_walk_poison : (let s := { laneM with dev := { laneM.dev with poison := [0, 0x4000 / 32] } }
    s.eccSub (0 + 8 * ix 0 4) 8 true == some 1 && s.eccSub (0x4000 + 8 * ix 0 0) 8 true == some 1) = true := by decide +kernel

/-- LeafDecidesAccess: TIER 3 leaves that are BUSY, DISC, REPL and plain. -/
theorem witness_leaf_far : ([0x2, 0x400, 0x800, 0x70].all fun e => (leafOf (3 * 2 ^ 62 + e)).tier == 3 &&
    ((leafOf (3 * 2 ^ 62 + e)).busy == (e == 0x2)) && ((leafOf (3 * 2 ^ 62 + e)).disc == (e == 0x400)) &&
    ((leafOf (3 * 2 ^ 62 + e)).repl == (e == 0x800))) = true := by decide +kernel

/-- FaultsAreResolved: the lane that raised the record has something else outstanding; and nothing. -/
theorem witness_record_due : ([true, false].all fun out =>
    let s := if out then onLane (faultM [regionBits]) fun t => { t with outs := [{ tag := 9, left := 1, ready := true, writes := [], owes := .nothing, reissue := none }] }
      else faultM [regionBits]
    (tabGet s.frecs 0).any fun q => q.outcome == none && s.recordDue q == !out) = true := by decide +kernel

/-- ReplayCompletes: no access is watched. -/
theorem witness_replay_watch : Stood replayM fun w => !w.csrs.watchctl.getLsbD 0 && (replayM.setWg w).parts == replayM.parts &&
    replayM.setWg w == replayM := stood (by decide +kernel)

/-- WorkgroupsCompleteAndFetch: a section's count that is full; a workgroup with no unit whose node has one. -/
theorem witness_fetch_full : Here ((fetchM 4064 fun w => { w with ctl := { w.ctl with rdepth := 1 } }).modCore 0 fun c => { c with c0 := 4095 }) fun p s =>
    fetchQ p && p.w.mailbox == none && p.countFull s := here (by decide +kernel)
def unitM : State := nodeM (fetchM 4064 fun w => { w with unit := none })
theorem witness_fetch_unit : Here unitM fun p s => fetchQ p && p.w.mailbox == none && !p.w.drained && p.w.engOps == 0 && p.w.unit == none &&
    !p.countFull s && cellsWf p.w.scratch && ((s.ctx? 0 0).bind (·.run)).any fun r => (r.node? p.w.id.node).isSome && r.waiting p.w.id.node == [0] :=
  here (by decide +kernel)

/-- FormationsForm: a graph of one node at VA 0x900, which the pointer at 0x800 names, and the ragged descriptor at 0xC00. -/
def graphM (c : State) : State :=
  let s := onCtx c fun c => { c with graphp := 0x800, rdbase := 0xC00 }
  { s with mem := memWrite (memWrite (memWrite s.mem 0x5800 (bytesOf 8 0x900)) 0x5900 (bytesOf 64 1)) 0x5940
             (bytesOf 128 (nodeBits.toNat + 2 ^ 473)) }
theorem witness_form_graph : (let s := graphM (formM [] true)
    (s.ctx? 0 0).any fun c =>
      let s1 := s.setCtx 0 0 { c with cstate := 2, formNext := false }
      c.formNext && c.adm.slots == [] && match s1.readBegin 0 0 with
        | (.ok g, s2) => s2.parts == s1.parts && g.ok [] 0 && g.nodes.length == 1 &&
            match s2.agentWriteMany (agentOf 0 0) c.rdbase.toNat (raggedBytes { c with cstate := 2, formNext := false } []) with
            | (.ok _, s3) => s3.parts == s1.parts
            | _ => false
        | _ => false) = true := by decide +kernel
theorem witness_form_reads : ([1, 8].all fun n =>
    let s := graphM (formM [reqOf 2 n 0] true)
    (s.ctx? 0 0).any fun c => match c.adm.slots with
      | [(k, r)] =>
        let s1 := s.setCtx 0 0 { c with cstate := 2, formNext := false }
        let s0 := (s1.readBegin 0 0).2
        k == 0 && s0.parts == s1.parts && match s0.ringIsFull (agentOf 0 0) r with
          | (full, r', s2) => !full && r'.prem == r.prem && r'.state == 2 && r'.kv == r.kv && s2.parts == s1.parts
      | _ => false) = true := by decide +kernel

/-- PortsAndRegistersTakeWrites and WindowsTakeAccesses: a function that answers, and one whose partition is CLEARING or FREE. -/
theorem witness_answers_host : ((laneM.vf? 0).isSome && laneM.answersFn (.vf 0) && laneM.answersFn .pf0 &&
    ((laneM.modPart 0 fun q => { q with state := 5 }).vf? 0).isNone && (laneM.vf? 1).isNone) = true := by decide +kernel

/-- WindowsTakeAccesses: reads and writes that pass the end of the one page fail; with a page there they do not; and a read in one page,
of memory and of a discarded page. -/
def apPageM (e : Nat) : State := { apertureM with mem := memWrite apertureM.mem 0x4008 (bytesOf 8 e) }
theorem witness_aperture_of : ∀ e ∈ [0, 0x63F1, 0x67F1], ((apPageM e).vf? 0).any (fun P =>
    ((P.ctxs.find? fun e => e.2.asid == P.apbase.toNat % 2 ^ 16).any fun x => x.1 == 0) && apertureVa P 4092 == 4092) = true := by decide +kernel
theorem witness_aperture_pieces : ([(Acc.read, 0, false), (.read, 0x63F1, true), (.write, 0, false), (.write, 0x63F1, true)].all fun e =>
    ((apPageM e.2.1).ctx? 0 0).any fun c => ((apPageM e.2.1).apSpots 0 0 c e.1 (pieces 4092 8 (8 / 4096 + 2))).1.isSome == e.2.2) = true := by
  decide +kernel
theorem witness_aperture_page : ([0x63F1, 0x67F1].all fun e => ((apPageM e).ctx? 0 0).any fun c => match (apPageM e).walk 8188 c.l4base 4 with
    | .ok l => (match (apPageM e).leafAccess { pid := 0, ctx := 0, die := 4 } l 8188 .read false with
        | .pa pa => e == 0x63F1 && pa == 0x6FFC && (apPageM e).eccSub pa 4 true == none
        | .zero => e == 0x67F1
        | _ => false)
    | _ => false) = true := by decide +kernel

/-- PartitionCommandsComplete: the doorbell of a PART_DESTROY of partition 0. -/
theorem witness_destroy_doorbell : (let s := { laneM with dev := { laneM.dev with
      boot := .ready, mbox := { Mailbox.empty with cmd := memWrite [] 0 (cmdOf 0x41 [0]) } } }
    let cmd := memRead s.dev.mbox.cmd 0 4096
    !s.dev.mbox.busy && s.dev.boot != .recovery && cmdNat cmd 0 2 == 0x41 && cmdZeroOk cmd [(8, 9)] && (s.part? (cmdNat cmd 8 1)).isSome) = true := by
  decide +kernel

/-- FirmwareCommandsComplete: the same commands in recovery mode. -/
theorem witness_recovery : ([0x44, 0x45].all fun k =>
    let s := posted (cmdOf k []) laneM
    let s := { s with dev := { s.dev with boot := .recovery } }
    s.dev.mbox.busy && cmdNat s.dev.mbox.issued 0 2 == k && cmdZeroOk s.dev.mbox.issued [] &&
      (imgBad (s.dev.flash.slot s.dev.idleSlot) s.dev.minSvn).isSome) = true := by decide +kernel

/-- DeviceStarts: far channels populated alike at both ends of R23, and one that differs. -/
theorem witness_far : (∀ k ∈ [16, 64], FarAlike (List.replicate 32 k)) ∧ ¬ FarAlike (16 :: List.replicate 31 32) := by
  refine ⟨fun k hk => ⟨k, ?_, rfl⟩, fun ⟨k, hk, h⟩ => ?_⟩
  · simp only [List.mem_cons, List.not_mem_nil, or_false] at hk ⊢; omega
  · simp only [List.replicate_succ, List.cons.injEq] at h; omega

/-- HostLinkIsLost: an entry of a context while the link is lost. -/
theorem witness_ring_loss : (let s := { laneM with dev := { laneM.dev with linkLost := true } }
    s.dev.linkLost && (s.ctx? 0 0).isSome) = true := by decide +kernel

/-- StepsRunWhatStands: nothing keeps the path waiting; a lane at a barrier; a step with memory of an age; an event before and at the
time of a reset that is due. -/
theorem witness_not_waiting : Here laneM fun p _ => !p.waiting && !p.suspended := here (by decide +kernel)
theorem witness_waiting : Here { after (.syncg f0) laneM with cur := laneM.cur } fun p _ => p.waiting := here (by decide +kernel)
def agedM (xs : List Past) : State := onCtx laneM fun c => { c with run := c.run.map fun r => { r with past := xs } }
/-- Memory before a write, where page 0 was a frame, a frame of host memory, another device's, or not mapped. -/
def pastOfLeaf (e : Nat) : Past := { mem := memWrite laneM.mem 0x4000 (bytesOf 8 e), l4base := 0, e := 0 }
theorem witness_ages : ([[], [pastOfLeaf 0x63F1, pastOfLeaf 0x73F1]].all fun xs => (agedM xs).pastOf { pid := 0, ctx := 0, die := 0 } == xs) = true := by
  decide +kernel
theorem witness_views : ([(0x63F1, some 0), (2 * 2 ^ 62 + hostBase + 0x63F1, some 2), (3 * 2 ^ 62 + 0x63F1, some 3), (0, none)].all fun e =>
    match ({ laneM with mem := (pastOfLeaf e.1).mem } : State).walk 0 0 4 with | .ok l => some l.tier == e.2 | .error _ => e.2 == none) = true := by
  decide +kernel
theorem witness_reset_due : ([2, 3].all fun dn =>
    let s := { laneM with cur := none, agenda := [.event 0 dn [] .ready], dev := { laneM.dev with resetAt := some 3 } }
    s.cur == none && s.agenda == [.event 0 dn [] .ready] && s.dev.resetAt.any fun t => (t ≤ s.ns + dn : Bool) == (dn == 3 : Bool)) = true := by
  decide +kernel

/-! ### Matrix operations on tiles, row state and panels -/

/-- The coordinates name elements in a workgroup's scratchpad, of n bytes at addresses of which `same` holds. -/
def spElems (w : Wg) (d : Desc) (cs : List (List Nat)) (same : Nat → Bool) : Bool :=
  d.sp && !fmtBlock d.fmt && d.ew != 4 && cs.all fun c => (d.addrOf true c).any fun ea =>
    (match spSpot w ea (max 1 (d.ew / 8)) .read with | .ok x => x == .sp w.id.core w.id.slot ea | _ => false) &&
      (List.range (max 1 (d.ew / 8))).all fun i => same (ea + i)

/-- The values of elements in a scratchpad. -/
def spVals (w : Wg) (d : Desc) (cs : List (List Nat)) : List XVal := cs.map fun c =>
  d.decode 127 (ofBytes ((List.range (max 1 (d.ew / 8))).map fun i => cellGet w.scratch ((d.addrOf true c).getD 0 + i)))

theorem readable_sp {s : State} {core slot : Nat} {w : Wg} {same : Nat → Prop} {sb : Nat → Bool} {d : Desc} {cs : List (List Nat)}
    (hs : ∀ a, sb a = true → same a) (hc : w.id.core = core ∧ w.id.slot = slot) (h : spElems w d cs sb = true) :
    Readable s core slot w same d cs (spVals w d cs) := by
  obtain ⟨rfl, rfl⟩ := hc
  intro ks ws w' x hw hid hcs hsc
  simp only [spElems, Bool.and_eq_true, Bool.not_eq_true', bne_iff_ne, ne_eq, List.all_eq_true, Option.any_eq_true] at h
  obtain ⟨⟨⟨hsp, hb⟩, h4⟩, h⟩ := h
  induction cs with
  | nil => rfl
  | cons c r ih =>
    obtain ⟨ea, hea, hspot, hall⟩ := h c (by simp)
    have hspot' : spSpot w' ea (max 1 (d.ew / 8)) .read = .ok (.sp w.id.core w.id.slot ea) := by
      have : spSpot w' ea (max 1 (d.ew / 8)) .read = spSpot w ea (max 1 (d.ew / 8)) .read := by
        unfold spSpot Wg.fifoAt; rw [hid, hcs]
      rw [this]
      split at hspot
      · simp_all
      · simp at hspot
    have key : x.elementVal w.id d c = (.ok (d.decode 127 (ofBytes ((List.range (max 1 (d.ew / 8))).map fun i => cellGet w.scratch (ea + i)))), x) := by
      have e : (List.range (max 1 (d.ew / 8))).map (fun i => cellGet w'.scratch (ea + i)) = (List.range (max 1 (d.ew / 8))).map fun i => cellGet w.scratch (ea + i) :=
        List.map_congr_left fun i hi => hsc _ (hs _ (hall i hi))
      simp only [State.elementVal, State.elementBits, hsp, hea, State.engRead, State.engSpots, partsOf, State.spotsOf, State.engSpot, hw, hspot',
        State.spotsRead, State.spotRead, List.flatMap_cons, List.flatMap_nil, List.append_nil, if_true, h4, if_false, State.scaleByte, hb, e,
        Bool.false_eq_true]
    have ihr := ih fun y hy => h y (by simp [hy])
    simp only [State.elementVals, key, ihr, spVals, List.map_cons, hea, Option.getD_some]

/-- Elements written to a scratchpad, whatever the cores hold. -/
theorem setElements_cores (w : WgId) (d : Desc) (hsp : d.sp = true) (ks : Tab Core) :
    ∀ es (s : State), ({ s with cores := ks }).setElements w d es = ((s.setElements w d es).1, { (s.setElements w d es).2 with cores := ks }) := by
  have sw : ∀ (s : State) (x : Spot) b, ({ s with cores := ks }).spotWrite x b = { s.spotWrite x b with cores := ks } := by
    intro s x b
    cases x <;> simp only [State.spotWrite, State.modWg, State.wg?, State.setWg] <;> split <;> rfl
  have sws : ∀ (xs : List (Spot × Nat)) (s : State) b, ({ s with cores := ks }).spotsWrite xs b = { s.spotsWrite xs b with cores := ks } := by
    intro xs
    induction xs with
    | nil => intro s b; rfl
    | cons x r ih => intro s b; obtain ⟨x, k⟩ := x; simp only [State.spotsWrite, sw, ih]
  have one : ∀ (s : State) cs x, ({ s with cores := ks }).setElementBits w d cs x =
      ((s.setElementBits w d cs x).1, { (s.setElementBits w d cs x).2 with cores := ks }) := by
    intro s cs x
    simp only [State.setElementBits, hsp]
    cases d.addrOf true cs with
    | none => rfl
    | some ea =>
      simp only [State.engSpots, partsOf, State.spotsOf, State.engSpot, if_true, State.wg?]
      cases tabGet s.wgs (w.core * 8 + w.slot) with
      | none => rfl
      | some v =>
        simp only
        cases spSpot v ea (max 1 (d.ew / 8)) .write with
        | error e => rfl
        | ok y =>
          simp only [sws]
          split
          · simp only [State.spotsRead, State.spotRead, State.wg?]
          · rfl
  intro es
  induction es with
  | nil => intro s; rfl
  | cons e r ih =>
    intro s
    simp only [State.setElements, one]
    rcases s.setElementBits w d e.1 e.2 with ⟨_ | _, t⟩
    · rfl
    · exact ih t

theorem rowWritten_cores {d : Desc} (hsp : d.sp = true) (hst : d.stata = 0) (hb : fmtBlock d.fmt = false) (s : State) (core slot : Nat) (w : WgId)
    (cs : List (List Nat)) (vs : List XVal) (ks : Tab Core) :
    rowWritten { s with cores := ks } core slot w d cs vs = (rowWritten s core slot w d cs vs).map fun t => { t with cores := ks } := by
  simp only [rowWritten, rowCodes, hb, Bool.false_eq_true, if_false, List.foldl_nil, setElements_cores w d hsp ks, State.countStats, hst, if_true]
  generalize s.setElements w d _ = q
  rcases q with ⟨_ | _, t⟩ <;> rfl

/-- The oldest operation of quarter 0. -/
def opOf (s : State) : MxOp :=
  (s.queue 0 0).headD { slot := 0, pc := 0, i := .nop f0, a := 0, b := 0, c := 0, desc := { id := 0, bits := 0 }, next := 0, held := [], joined := false, stop := .none, parity := none }

/-- A matrix operation of a workgroup of 32 blocks of scratchpad with descriptor 1, of F32 elements or as given, and tiles that hold some
values, issued by the control thread, that runs to its end. -/
def mxD (i : Instr) (b : BitVec 2048) (k : List (Nat × DWord)) (sc : Cells 8) : State :=
  let s := (tilesM ctlM).modCore 0 fun c => { c with tiles := [(tileKey 0 0 0 0, 0x40000000), (tileKey 0 3 0 0, 0x3F800000), (tileKey 0 3 0 1, 0x40000000)] }
  { after i (onCtl (withDesc b (onWg s fun w => { w with scratch := sc, id := { w.id with scr := 32 } })) fun t => { t with k := k }) with choice := [0] }

/-- The F32 numbers 1 and 2 at the head of a scratchpad. -/
def twoF32 : Cells 8 := memWrite (memWrite [] 0 (bytesOf 4 0x3F800000)) 4 (bytesOf 4 0x40000000)

/-- TilesAreLoadedAndStored: one row of two elements of a scratchpad, read; and none. -/
def ldF : LForm := { f0 with a := 1, b := 2, w2 := 0x10003 }
def ldM (nr : Nat) : State := mxD (.mxldacc ldF) (descBits 0 16 4 true) [(1, BitVec.ofNat 64 (nr + 2 * 256))] twoF32
theorem witness_mxldacc : ∀ nr ∈ [0, 1], oldest (ldM nr) fun op _ => op.i == .mxldacc ldF && op.a.toNat % 2 ^ 7 == nr &&
    op.a.toNat / 2 ^ 8 % 2 ^ 7 == 2 && cellsWf ((ldM nr).core 0).tiles := by decide +kernel
theorem witness_mxldacc_reads : ∃ w, Stands (ldM 1) 0 0 w ∧ ∀ r, r < 1 → (spVals w (opOf (ldM 1)).desc (boxRow (opOf (ldM 1)) 2 0 r)).length = 2 ∧
    Readable (ldM 1).choose.2 0 0 w (fun _ => True) (opOf (ldM 1)).desc (boxRow (opOf (ldM 1)) 2 0 r)
      (spVals w (opOf (ldM 1)).desc (boxRow (opOf (ldM 1)) 2 0 r)) := by
  obtain ⟨w, h, q⟩ := stood (s := ldM 1) (q := fun w => spElems w (opOf (ldM 1)).desc (boxRow (opOf (ldM 1)) 2 0 0) fun _ => true) (by decide +kernel)
  refine ⟨w, h, fun r hr => ?_⟩
  obtain rfl : r = 0 := by omega
  exact ⟨(List.length_map _).trans (by decide +kernel), readable_sp (fun _ _ => trivial) ⟨h.2.1, h.2.2⟩ q⟩

/-- TilesAreLoadedAndStored: a row of tile 3 stored to a scratchpad, without and with the arrival on a level object at VA 256. -/
def stF (hi : Nat) : LForm := { f0 with a := 1, b := 2, c := 3, w2 := 0x10003, f := BitVec.ofNat 8 (4 * hi) }
def stM (hi : Nat) : State :=
  let s := mxD (.mxstore (stF hi)) (descBits 0 16 4 true) [(1, 1 + 2 * 256), (3, 256)] []
  { s with mem := memWrite s.mem 0x5100 (bytesOf 16 (100 + 2 ^ 96)) }
def stRow (s : State) : Option State := (s.wg? 0 0).bind fun w =>
  rowWritten s.choose.2 0 0 w.id (opOf s).desc (boxRow (opOf s) 2 0 0) ((List.range 2).map fun c => dec32 (tileAt s 0 0 3 0 c))
theorem witness_mxstore : ∀ hi ∈ [0, 1], oldest (stM hi) fun op w => op.i == .mxstore (stF hi) && !fmtBlock op.desc.fmt && op.desc.sp &&
    op.desc.stata == 0 && (stRow (stM hi)).any fun t => t == { (stM hi).choose.2 with wgs := t.wgs } &&
      match t.engSpot w.id false op.c.toNat 16 .atomic with
      | (.ok (.mem pa), x) => pa == 0x5100 && x == { t with mem := x.mem } && lvTarget (ofBytes (memRead x.mem pa 16)) == 100 &&
          lvFill (ofBytes (memRead x.mem pa 16)) == 0 && lvMode (ofBytes (memRead x.mem pa 16))
      | _ => false := by decide +kernel
theorem witness_mxstore_cores : ∀ (s t : State) w ks cs vs, (opOf (stM 0)).desc = (opOf s).desc → rowWritten s 0 0 w (opOf s).desc cs vs = some t →
    rowWritten { s with cores := ks } 0 0 w (opOf s).desc cs vs = some { t with cores := ks } := by
  intro s t w ks cs vs hd h
  rw [rowWritten_cores (hd ▸ by decide +kernel) (hd ▸ by decide +kernel) (hd ▸ by decide +kernel), h]; rfl

/-- PanelsAreMade: a panel of two blocks and one row, of a scratchpad below it. -/
def plF : LForm := { f0 with a := 1, b := 2, m := 3, w2 := 0x10000 }
def plM : State := mxD (.plane plF) (descBits 0 1024 4 true) [(1, 1024 + 16 * 2 ^ 32 + 2 ^ 48)] twoF32
theorem witness_plane_runs : oldest plM fun op w => op.i == .plane plF && cellsWf w.scratch && op.desc.stata == 0 && op.a.toNat % 2 ^ 32 == 1024 &&
    op.a.toNat / 2 ^ 32 % 2 ^ 16 / 8 == 2 && op.a.toNat / 2 ^ 48 % 2 ^ 7 == 1 := by decide +kernel
theorem witness_plane_reads : ∃ w, Stands plM 0 0 w ∧ ∀ b r, b < 2 → r < 64 → r < 1 →
    Readable plM.choose.2 0 0 w (fun a => a < 1024 ∨ 1024 + 2 * 512 ≤ a) (opOf plM).desc (boxRow (opOf plM) 8 (8 * b) r)
      (spVals w (opOf plM).desc (boxRow (opOf plM) 8 (8 * b) r)) := by
  obtain ⟨w, h, q⟩ := stood (s := plM) (q := fun w => [0, 1].all fun b =>
    spElems w (opOf plM).desc (boxRow (opOf plM) 8 (8 * b) 0) fun a => decide (a < 1024 ∨ 1024 + 2 * 512 ≤ a)) (by decide +kernel)
  refine ⟨w, h, fun b r hb _ hr => ?_⟩
  obtain rfl : r = 0 := by omega
  simp only [List.all_eq_true] at q
  exact readable_sp (fun _ h => of_decide_eq_true h) ⟨h.2.1, h.2.2⟩ (q b (by simp only [List.mem_cons, List.not_mem_nil, or_false]; omega))

/-- RowStateIsKept: row records at 1,024, of an ordinary row, one with a NaN, and one of M = −∞; the forms without an output, with BF16 and
with planes behind them, masks and FIRST; and MXSCALE.FINAL. -/
def recS : Cells 8 := [(1024, [0x3F800000, 0x3F800000, 0, 5]), (1040, [0x7FC00000, 0x3F800000, 0, 6]), (1072, [0xFF800000, 0, 0, 9])].foldl
  (fun c (e : Nat × List Nat) => (List.range 4).foldl (fun c k => memWrite c (e.1 + 4 * k) (bytesOf 4 (nthD 0 e.2 k))) c) []
def epF (hi : Nat) : LForm := { f0 with a := 1, b := 2, c := 3, f := BitVec.ofNat 8 (4 * hi), m := 3, w2 := BitVec.ofNat 32 (3 + 64 * 2 ^ 10) }
def epM (hi : Nat) : State :=
  mxD (.mxepi (epF hi)) (descBits 0 16 4 true) [(1, 5 + 2 * 2 ^ 32 + 64 * 2 ^ 40), (2, 0x200000003), (3, 7 + 0x3F800000 * 2 ^ 32)] recS
theorem witness_mxepi : ∀ hi ∈ [0, 1, 2, 12, 16], oldest (epM hi) fun op w => op.i == .mxepi (epF hi) && cellsWf w.scratch &&
    cellsWf ((epM hi).core 0).tiles && (epF hi).f.toNat / 4 == hi && 16 * (op.a.toNat / 2 ^ 40 % 2 ^ 24) == 1024 &&
    64 * ((epF hi).w2.toNat / 2 ^ 10) == 4096 := by decide +kernel
def fiF : LForm := { f0 with a := 1, f := 4, w2 := 3 }
theorem witness_mxfinal : oldest (mxD (.mxscaleFinal fiF) (descBits 0 16 4 true) [(1, 1024)] recS) fun op w => op.i == .mxscaleFinal fiF &&
    cellsWf w.scratch && op.a.toNat % 2 ^ 32 == 1024 && (List.range 4).all fun r => (dec32 (rowWord w.scratch 1024 r 1)).isZero == (1 < r : Bool) := by
  decide +kernel

/-- MatrixMultiplyCompletes: an MXSPM of one chunk and column, its metadata at VA 256 and 24 bytes long, or 12. -/
def spmF (h : Nat) : LForm := { f0 with a := 1, b := 2, c := 3, w2 := 0x10000, f := BitVec.ofNat 8 (4 * h) }
def spmM (h : Nat) : State :=
  { after (.mxspm (spmF h)) (onCtl (withDesc (descBits 6 64 1 true) (onWg (tilesM ctlM) fun w => { w with id := { w.id with scr := 2 } }))
      fun t => { t with k := [(1, BitVec.ofNat 64 (64 * 2 ^ 32 + 2 ^ 48)), (3, 256)] }) with choice := [0] }
theorem witness_mxspm : ∀ h ∈ [0, 1], oldest (spmM h) fun op w => op.i == .mxspm (spmF h) && (spmF h).f.toNat / 4 % 2 == h &&
    bitsAt op.a.toNat 47 32 == 64 && bitsAt op.a.toNat 54 48 == 1 && op.c == 256 && ((spmM h).choose.2.wg? 0 0).isSome &&
    match (spmM h).choose.2.engWords w.id 256 (if h = 0 then 6 else 3) with
    | (.ok bs, s1) =>
      let st := if h = 0 then 32 else 16
      let idx := fun (i : Nat) => ofBytes bs / 2 ^ (6 * i) % 2 ^ 6
      (List.range 8).all fun j =>
        let mine := (List.range st).filter fun i => idx i / 8 == j % 8
        match s1.elementVals w.id op.desc (mine.filterMap fun i => op.desc.boxAt (sx 32 op.b.toNat + (i : Nat)) (sx 32 (op.b.toNat / 2 ^ 32))) with
        | (.ok vs, _) => vs.length == mine.length
        | _ => false
    | _ => false := by decide +kernel

/-- ClusterMergeCompletes: the participants of a merge that is due. -/
theorem witness_merge_parts : (let s := after (.matrixOperation 0 0) mergeM
    s.wgs.all (fun e => e.1 == e.2.id.core * 8 + e.2.id.slot) && cellsWf (s.core 0).tiles && (tabGet (s.cluster 0).merges 0).any (fun m =>
      ((List.range 4).filterMap fun c => m.arrivals.find? fun a => a.1 == 4 * 0 + c) == [(0, 0)]) &&
    (s.queue 0 0).head?.any fun op => op.i == .clmerge { f0 with a := 1 } && (coded op.i).isSome &&
      (s.wg? 0 op.slot).any fun w => w.id.core == 0 && w.id.slot == op.slot && cellsWf w.scratch) = true := by decide +kernel

/-! ### Faults: fetches, fatal records, replays, collapses -/

/-- A region of n bytes at VA 4,096 whose pages are host memory from bus address 0x6000, where an instruction of 12 bytes stands
4 bytes before the second page; and the same with no page that may be mapped (KIND 0). -/
def fetchRegion (kind n : Nat) : BitVec 256 := BitVec.ofNat 256 (4096 * 2 ^ 192 + n * 2 ^ 128 + 0x6000 * 2 ^ 56 + kind * 2 ^ 48 + 0x70)
def missM (kind n len : Nat) (full : Bool) : State :=
  let s := onCtx laneM fun c => { c with regions := [fetchRegion kind n] }
  { s with mem := memWrite s.mem (hostBase + 0x6FFC) (bytesOf 4 len), choice := [7, 8, 9, 10]
           frames := if full then [{ base := 0, size := 2 ^ 44, pid := 1, pinned := true, table := false }] else s.frames }

/-- FaultsAreResolved: a fetch that finds no page, no memory for one, no region for one; then one word in one page, and an instruction
whose second page is there, and is not. -/
def missQ (s : State) (pc : Nat) (q : State → Resolved → Bool) : Bool :=
  match s.xlate { pid := 0, ctx := 0, die := dieOf 0 } pc .fetch false with
  | (.cause code sub _, _, s1) => code == 5 && sub == 1 && q s1 (s1.resolve 0 0 pc 5 1)
  | _ => false
theorem witness_fetch_none : (missQ (missM 1 4096 0 true) 4096 (fun _ r => match r with | .noMemory => true | _ => false) &&
    missQ (missM 0 4096 0 false) 4096 fun _ r => match r with | .fatal => true | _ => false) = true := by decide +kernel
theorem witness_fetch_found : ([(0, 0, true), (1, 8192, true), (1, 4096, false)].all fun e => missQ (missM 3 (max 4096 e.2.1) e.1 false) 8188 fun _ r =>
    match r with
    | .installed s2 => (match s2.fetchWord { pid := 0, ctx := 0, die := dieOf 0 } 0 8188 with
      | (.ok w0, s3) =>
        let last := 8188 + 4 * (match (nthD 0 w0 0).toNat % 4 with | 0 => 1 | 3 => 5 | _ => 3) - 1
        last == (if e.1 = 0 then 8191 else 8199) && (match s3.xlate { pid := 0, ctx := 0, die := dieOf 0 } last .fetch false with
        | (.pa _, _, _) => e.1 == 0
        | (.cause 5 1 _, _, s4) => e.1 == 1 && (match s4.resolve 0 0 last 5 1 with | .installed _ => e.2.2 | .fatal => !e.2.2 | _ => false)
        | _ => false)
      | _ => false)
    | _ => false) = true := by decide +kernel

/-- FaultsAreResolved: a lane whose fetch found no page; a COLLAPSE_WAIT, due, and with a remote access through the page. -/
def fetchFaultM : State :=
  let s := onLane (onCtx laneM fun c => { c with regions := [fetchRegion 3 4096] }) fun t => { t with pc := 4096 }
  match Sys2Proof.Machine.step s with | .next t => t | _ => s
theorem witness_record_fetch : ((tabGet fetchFaultM.frecs 0).any fun q => q.outcome == none && bitsAt q.bits.toNat 79 72 == 5 &&
    bitsAt q.bits.toNat 71 64 == 1 && bitsAt q.bits.toNat 29 28 == 3 && bitsAt q.bits.toNat 191 128 == 4096 && fetchFaultM.recordDue q) = true := by
  decide +kernel
def waitRecM (far : Bool) : State :=
  let s := after (.st { fm with f := 2 }) (atBase 4096 { collapsing 32 with mem := memWrite laneM.mem 0x4008 (bytesOf 8 0x6BF1) })
  { s with fabric := if far then (awaitM false).fabric else s.fabric }
theorem witness_collapse_wait : ([true, false].all fun far => (tabGet (waitRecM far).frecs 0).any fun q => q.outcome == none &&
    bitsAt q.bits.toNat 79 72 == 0x0B && (waitRecM far).recordDue q &&
    match ((waitRecM far).ctx? q.pid (bitsAt q.bits.toNat 45 41)).map fun c => (waitRecM far).walk (bitsAt q.bits.toNat 255 192) c.l4base 4 with
    | some (.ok l) => (waitRecM far).collapseDue { die := dieOf q.core, pid := q.pid, asid := (waitRecM far).asidOf q.pid (bitsAt q.bits.toNat 45 41)
                                                   va := BitVec.ofNat 64 (bitsAt q.bits.toNat 255 192), pte := l.pte } == !far
    | _ => false) = true := by decide +kernel
theorem witness_collapse_wait_none : (let s := waitRecM false
    let s := { s with mem := memWrite s.mem 0x4008 (bytesOf 8 0) }
    (tabGet s.frecs 0).any fun q => q.outcome == none && s.recordDue q && ((s.ctx? q.pid 0).any fun c =>
      match s.walk 4096 c.l4base 4 with | .error _ => true | _ => false)) = true := by decide +kernel

/-- FaultQueueIsWritten: a fatal record, for which nobody waits, and for which the lanes of a workgroup with or without a slot wait; and an
operation in flight. -/
def fatalM (sv : Bool) : State :=
  let s := if sv then onWg (onCtx laneM fun c => { c with adm := { c.adm with slots := [(0, reqOf 2 8 1)] } }) fun w =>
      { w with id := { w.id with slotv := BitVec.ofNat 32 (2 ^ 31) } } else nodeM laneM
  after (.faultResolution 0) (after (.st { fm with f := 2 }) (atBase 4096 { s with choice := [7, 8, 9, 10] }))
theorem witness_fatal : ([true, false].all fun sv => (tabGet (fatalM sv).frecs 0).any fun q => q.outcome == some 1 && q.pid == 0 &&
    bitsAt q.bits.toNat 40 40 == b2n sv && bitsAt q.bits.toNat 45 41 == 0 && bitsAt q.bits.toNat 39 30 == 0 &&
    ((fatalM sv).part? 0).any (fun P => (P.fqtail - P.fqhead).toNat == 0 && P.ctxs.length == 1) && ((fatalM sv).waiter? 0).any (fun w =>
      w.id.core == 0 && w.id.slot == 0 && ((fatalM sv).wg? 0 0) == some w) &&
    ((fatalM sv).ctx? 0 0).any fun c => c.saved == [] && (!sv || (c.slot? 0).any fun r => r.state == rqRunning)) = true := by decide +kernel
theorem witness_fatal_stand : ∀ sv ∈ [true, false], WgsStand (fatalM sv) := by
  intro sv h
  simp only [List.mem_cons, List.not_mem_nil, or_false] at h
  obtain rfl | rfl := h <;> exact stand_all (by decide +kernel)
theorem witness_fatal_quiet : ((fatalM false).quiet true 0 0 && !({ fatalM false with engines := (after (.balloc f0) ctlM).engines } : State).quiet true 0 0 &&
    ((fatalM false).part? 0).any fun P => P.ctxs.all fun e => (fatalM false).inDomain 0 0 e) = true := by decide +kernel
theorem witness_fatal_alone : (let s := onWg (fatalM false) fun w => { w with groups := [] }
    s.waiter? 0 == none && (tabGet s.frecs 0).any fun q => q.outcome == some 1) = true := by decide +kernel

/-- ReplayCompletes: the control thread's store and load, whose page was installed; and a load before them still to be made again. -/
def replayCtlM (i : Instr) : State := after (.faultQueueWrite 0) (after (.faultResolution 0)
  { after i (atBase 4096 (onCtx ctlM fun c => { c with regions := [regionBits] })) with choice := [7, 8, 9, 10] })
def replayCtlQ (i : Instr) (act : Path → List LaneOp → State → Bool) : Wg → Bool := fun w => match w.ctlReplay with
  | some q =>
    let w0 := { w with ctlSusp := .none, ctlReplay := none }
    w.ctlSusp == .replay && q.i == i && q.len == 12 && q.lanes.map (·.lane) == [0] && !w.csrs.watchctl.getLsbD 0 &&
      w.ctl.outs.all (fun y => y.ready || y.reissue.isNone) &&
      act { w := w0, ctl := true, grp := 0, mask := 1, uni := w.s } q.lanes ((replayCtlM i).setWg w0)
  | none => false
theorem witness_replay_ctl : Stood (replayCtlM (.st { fm with f := 2 })) (replayCtlQ (.st { fm with f := 2 }) fun p os s =>
    (storesOf .st { fm with f := 2 } p 4 os s).isSome) := stood (by decide +kernel)
theorem witness_replay_ctl_load : Stood (replayCtlM (.ld { fm with f := 2 })) (replayCtlQ (.ld { fm with f := 2 }) fun p os s =>
    (loadsOf .ld { fm with f := 2 } p 4 os s).isSome) := stood (by decide +kernel)
theorem witness_replay_ctl_stand : WgsStand (replayCtlM (.st { fm with f := 2 })) ∧ WgsStand (replayCtlM (.ld { fm with f := 2 })) :=
  ⟨stand_all (by decide +kernel), stand_all (by decide +kernel)⟩
/-- A load of `q` that a pre-emption abandoned. -/
def abandoned (q : Option MemReq) : List Out := [{ tag := 9, left := 1, ready := false, writes := [], owes := .nothing, reissue := q }]
def reloadM (ctl : Bool) (s : State) : State := onWg s fun w => if ctl
  then { w with ctl := { w.ctl with outs := abandoned w.ctlReplay } } else w.modLane 0 0 fun t => { t with outs := abandoned (w.group 0).replay }
theorem witness_reloads : Stood (reloadM true (replayCtlM (.ld { fm with f := 2 }))) (fun w => w.ctl.outs.any fun y => !y.ready && y.reissue.isSome) ∧
    Stood (reloadM false replayM) fun w => (w.groupLanes 0).any fun e => e.2.outs.any fun y => !y.ready && y.reissue.isSome :=
  ⟨stood (by decide +kernel), stood (by decide +kernel)⟩

/-- CollapsesFinish: a lane group that met a BUSY page and one whose own collapse it is; the bit clear; a remote access through the page; a
load to be made again. -/
def storeLaneM (e : Nat) : State := after (.st { fm with f := 2 }) (atBase 4096 { laneM with mem := memWrite laneM.mem 0x4008 (bytesOf 8 e) })
theorem witness_busy_group : Stood (storeLaneM 0x63F3) fun w => (w.group 0).susp == .busy 4096 && (storeLaneM 0x63F3).pageBusy w.id.pid w.id.ctx 4096 :=
  stood (by decide +kernel)
theorem witness_busy_over : ∀ ctl ∈ [true, false],
    let s := if ctl then storeM 0x63F3 else storeLaneM 0x63F3
    Stood { s with mem := memWrite s.mem 0x4008 (bytesOf 8 0x63F1) } fun w => (if ctl then w.ctlSusp else (w.group 0).susp) == .busy 4096 &&
      !({ s with mem := memWrite s.mem 0x4008 (bytesOf 8 0x63F1) } : State).pageBusy w.id.pid w.id.ctx 4096 := by
  intro ctl h
  simp only [List.mem_cons, List.not_mem_nil, or_false] at h
  obtain rfl | rfl := h <;> exact stood (by decide +kernel)
theorem witness_collapse_due : ∀ ctl ∈ [true, false], ∀ far ∈ [true, false],
    let s := if ctl then storeM 0x6BF1 else storeLaneM 0x6BF1
    let s := { s with fabric := if far then (awaitM false).fabric else s.fabric }
    Stood s fun w => (if ctl then w.ctlSusp else (w.group 0).susp) == .collapse 4096 &&
      (s.collapseOf w.id.pid w.id.ctx 4096).any fun c => s.collapseDue c == !far := by
  intro ctl h far g
  simp only [List.mem_cons, List.not_mem_nil, or_false] at h g
  obtain rfl | rfl := h <;> obtain rfl | rfl := g <;> exact stood (by decide +kernel)

/-! ### Formations that admit, contexts with tiles -/

/-- FormationsForm: a queued request alone in the queue, of a context that creates no sequence, or one in pool 0, which is there or is not. -/
def queueOf (prem : Nat) : Request := { reqOf 1 prem 0 with asked := 0 }
def admitM (prem nseq : Nat) (pool : Bool) : State :=
  let s := onCtx (if pool then withPool (poolOf 4 [0, 1, 2, 3] []) [] laneM else laneM) fun c => { c with
    run := none, formNext := true, chunk := 4, tokbud := 16, nslot := 1, nseq := nseq, seqtpl := 4
    adm := { c.adm with slots := [], queue := [queueOf prem] } }
  { graphM s with choice := [5, 6, 7, 8] }
theorem witness_form_queue : ([(8, 0, false), (8, 1, true), (8, 1, false), (0, 0, false)].all fun e =>
    let s := admitM e.1 e.2.1 e.2.2
    (s.ctx? 0 0).any fun c => c.run.isNone && c.cstate == 2 && !s.dev.linkLost && c.formNext && c.adm.slots == [] && c.adm.evicted == [] &&
      0 < c.nslot && 0 < s.tokbudOf 0 c && match c.adm.queue with
      | [w] =>
        let c1 := { c with cstate := 2, formNext := false }
        let s1 := s.setCtx 0 0 c1
        let (_, s0) := s1.readBegin 0 0
        w.state == rqQueued && w.kv == List.replicate 8 0 && s0.parts == s1.parts && s0.admissible 0 c1 w == (e.1 != 0) &&
          match s0.prepare 0 0 c1 w (min (min w.prem c.chunk) (s.tokbudOf 0 c)) with
          | .ok (r, s2) => (e.2.1 == 0 || e.2.2) && r.prem == w.prem && s2.ctx? 0 0 == some c1
          | .error _ => e.2.1 == 1 && !e.2.2
      | _ => false) = true := by decide +kernel
theorem witness_prepare : (let s := admitM 8 1 true
    (s.ctx? 0 0).any fun c => c.nseq == 1 && (queueOf 8).kv == List.replicate 8 0 &&
      match s.sqCreate 0 0 (c.seqtpl.toNat / 2 ^ 5 % 2 ^ 6) (c.seqtpl.toNat % 2 ^ 5) with
      | (0, h, s1) =>
        let ds := s1.demands 0 1 { queueOf 8 with kv := BitVec.ofNat 64 h :: List.replicate 7 0, crm := Nat.lor (queueOf 8).crm 1 } 4
        (ds.all fun d => s1.seqRoom 0 4 d.2.1) && ds != [] && (s1.reserve 0 ds).isSome
      | _ => false) = true := by decide +kernel

/-- ContextsAreSavedAndRestored: a workgroup with a tile that holds something and a result that has returned; and as it is saved. -/
def tiledM : State := onLane (onWg (preemptM.modCore 0 fun c => { c with tiles := [(0, 7), (4095, 8)] }) fun w =>
    { w with csrs := { w.csrs with accmask := 1 } }) fun t =>
  { t with outs := [{ tag := 7, left := 1, ready := true, writes := [.v 4 9], owes := .nothing, reissue := none }] }
theorem witness_save_tiles : (((tiledM.ctx? 0 0).any fun c => c.cstate == 3) && (tiledM.ctxWgs 0 0).length == 1 && tiledM.quiet false 0 0 &&
    tiledM.wgs.all fun e => e.1 == e.2.id.core * 8 + e.2.id.slot && e.2.csrs.accmask == 1 && (e.2.lane? 0 0).any fun th =>
      returned th == [[.v 4 9]]) = true := by decide +kernel
def tiledSavedM : State := after (.contextSave 0 0) tiledM
theorem witness_restore_tiles : ((tiledSavedM.ctx? 0 0).any fun c => c.cstate == 3 && c.saved.length == 1 && tiledSavedM.ctxWgs 0 0 == [] &&
    tiledSavedM.turnCome 0 c && c.saved.all fun x => tiledSavedM.slotReady x && cellsWf x.tiles && x.tiles == [(0, 7), (4095, 8)] &&
      x.wg.csrs.accmask == 1 && x.wg.ctl.outs == [] && x.wg.lanes.all fun e => e.2.outs == [] && e.2.v == [(4, 9)]) = true := by decide +kernel
theorem witness_restore_cells : cellsWf (tiledSavedM.core 0).tiles = true := by decide +kernel

/-! ### Results of the control thread, supersteps, regions -/

/-- LongLatencyCompletes: a control thread with one result and one with two; the choice of neither, of one and of both. -/
def ctlOutM (ws : List RegWrite) (k : Nat) : State := { onCtl ctlM fun t => { t with outs :=
    [{ tag := 7, left := 1, ready := true, writes := ws, owes := .nothing, reissue := none }] } with choice := [k] }
theorem witness_ctl_results : ∀ ws ∈ [[RegWrite.k 4 1], [.k 4 1, .k 5 2]], ∀ k ∈ [0, 1, 2], Stood (ctlOutM ws k) fun w =>
    w.ctl.parts 7 == decide (1 < ws.length) && (w.ctl.outs.find? fun o => o.tag == 7 && o.ready).any (fun o => o.writes == ws) &&
      w.ctl.outs.all (fun y => y.ready || y.reissue.isNone) && (ctlOutM ws k).choose.1 % 3 == k := by
  intro ws h k g
  simp only [List.mem_cons, List.not_mem_nil, or_false] at h g
  obtain rfl | rfl := h <;> obtain rfl | rfl | rfl := g <;> exact stood (by decide +kernel)

/-- SuperstepArrives: FABRIC = 0. -/
theorem witness_sstep_off : Here ctlM fun p s => p.ctl && p.w.ctlSusp == .none && p.w.ctl.guard f0.g && (s.part? p.w.id.pid).any fun q => !q.fabric := here (by decide +kernel)

/-- RegionsComplete: ALE after a load and after a store of the line, whose bytes can be read and written; and a byte that has changed. -/
def endM (i : Instr) (change : Bool) : State :=
  let s := { after i (atBase 252 regionM) with cur := some (.lanes 0 0 0 1) }
  if change then { s with mem := memWrite s.mem 0x50FC (bytesOf 4 1) } else s
theorem witness_ale : ∀ change ∈ [true, false], Here (endM (.ld { fm with f := 2 }) change) fun p t => !p.ctl && (p.active f0.g).all (fun e => e.2.region != none) &&
    (p.gather (.ale f0) .ale f0).lanes.all fun o => (p.region o.lane).any fun r => r.recs.length == 4 &&
      r.recs.all fun e => t.eccSub (r.pa + (e.1 - r.line.toNat)) 1 true == none && (cellGet (w := 8) t.mem (r.pa + (e.1 - r.line.toNat)) == e.2) == (!change || e.1 != 252) := by
  intro c h
  simp only [List.mem_cons, List.not_mem_nil, or_false] at h
  obtain rfl | rfl := h <;> exact here (by decide +kernel)
theorem witness_ale_store : Here (endM (.st { fm with f := 2 }) false) fun p t => !p.ctl &&
    (p.gather (.ale f0) .ale f0).lanes.all fun o => (p.region o.lane).any fun r => r.held.length == 4 &&
      r.held.all fun e => t.eccSub (r.pa + (e.1 - r.line.toNat)) 1 false == none := here (by decide +kernel)

/-- RemoteAccessesComplete: the same accesses here with lookahead 1. -/
theorem witness_remote_window : ∀ e ∈ remoteRows { fr with la := 1 }, (let s := remoteM 0 (atBase 4096 laneM)
    s.path?.any fun x => (remotesHere e.2.1 e.2.2 { fr with la := 1 } x.1 (x.1.gather e.1 e.2.1 { fr with la := 1 }).lanes x.2).isSome) = true := by
  decide +kernel

/-! ### Shadow storage, lost dies, orphaned collapses, old pointers -/

/-- A saved workgroup of 2,048 lanes of 64 registers and 768 blocks of scratchpad. -/
def bigSaved (w : Wg) : Saved :=
  { wg := { w with id := { w.id with nlane := 2048, nreg := 64, scr := 768 } }, tiles := [], ops := [], copies := [], remotes := [] }

/-- The machine with a context 1 saved at cycle 0, whose n images stand in shadow storage on die 0. -/
def crowdM (n : Nat) (s : State) : State := match s.wg? 0 0 with
  | some w => s.modPart 0 fun q => { q with ctxs := tabSet q.ctxs 1 { Context.blank with
      asid := 2, cstate := 3, saved := List.replicate n (bigSaved w), savedAt := 0 } }
  | none => s

theorem fits_iff {s : State} {pid ctx : Nat} : s.shadowFits pid ctx = true ↔ imagesFit s pid ctx := by
  rw [State.shadowFits, List.all_eq_true]
  constructor
  · intro h d hd
    rcases Bool.or_eq_true _ _ ▸ h d (List.mem_range.mpr hd) with h | h
    · exact .inl (beq_iff_eq.mp h)
    · exact .inr (of_decide_eq_true h)
  · intro h d hd
    rcases h d (List.mem_range.mp hd) with h | h
    · exact Bool.or_eq_true _ _ ▸ .inl (beq_iff_eq.mpr h)
    · exact Bool.or_eq_true _ _ ▸ .inr (decide_eq_true h)
theorem fits_of {s : State} {pid ctx : Nat} (h : s.shadowFits pid ctx = true) : imagesFit s pid ctx := fits_iff.mp h
theorem crowded {s : State} {pid ctx : Nat} (h : s.shadowFits pid ctx = false) : ¬ imagesFit s pid ctx :=
  fun hf => absurd (fits_iff.mpr hf) (by simp [h])

/-- ContextsAreSavedAndRestored, SysHaltHalts, ContextCommandsComplete: room for the images, and none. -/
theorem witness_fits : imagesFit preemptM 0 0 ∧ imagesFit tiledM 0 0 ∧ imagesFit ctlM 0 0 ∧ ¬ imagesFit (crowdM 400 preemptM) 0 0 ∧
    ¬ imagesFit (crowdM 400 ctlM) 0 0 :=
  ⟨fits_of (by decide +kernel), fits_of (by decide +kernel), fits_of (by decide +kernel), crowded (by decide +kernel), crowded (by decide +kernel)⟩
theorem witness_crowd : ((crowdM 400 preemptM).quiet false 0 0 && ((crowdM 400 preemptM).ctx? 0 0).any (fun c => c.cstate == 3) &&
    ((crowdM 400 preemptM).ctx? 0 1).any fun c => c.saved != [] && !c.swapped && c.savedAt == 0) = true := by decide +kernel

/-- CollapsesFinish: a collapse whose workgroup has ended, due, and with a remote access through the page. -/
def orphanM (far : Bool) : State :=
  let s := storeM 0x6BF1
  { s with collapses := s.collapses.map fun c => { c with orphan := true }, fabric := if far then (awaitM false).fabric else s.fabric }
theorem witness_orphan : ([true, false].all fun far => (orphanM far).collapses.length == 1 && (orphanM far).collapses.all fun c =>
    c.orphan && (orphanM far).collapseDue c == !far && (orphanM far).collapses.count c == 1) = true := by decide +kernel
/-- R75: the end of a workgroup leaves its collapse to the engine, which waits for the remote access. -/
theorem test_killed_collapse : (let s := { storeM 0x6BF1 with fabric := (awaitM false).fabric }
    (s.wg? 0 0).any fun w => let t := s.killWg w
      t.collapses.length == 1 && t.collapses.all (·.orphan) && t.phys 0x4008 8 == 0x6BF3 &&
        match exec (.collapse (.ctrl 5 5)) { t with fabric := s.fabric }, exec (.collapse (.ctrl 5 5)) { t with fabric := (storeM 0x6BF1).fabric } with
        | .next a, .next b => a.phys 0x4008 8 == 0x6BF3 && b.phys 0x4008 8 == 0x63F1 && b.collapses == []
        | _, _ => false) = true := by decide +kernel

/-- LeafDecidesAccess: another class's collapses, 32 of them, are not a strict partition's (R52). -/
theorem witness_own_engine : (({ (collapsing 32).setPart 1 { Partition.blank with strict := true } with cur := none } : State).collapsesFor
    { pid := 1, ctx := 0, die := 0 } == 0) = true := by decide +kernel

/-- R18: a page of a lost die's near memory does not move. -/
theorem test_lost_die_stays : (let s := { pageM 0x63F1 with dev := { laneM.dev with lostDies := 1 } }
    (s.ctx? 0 0).any fun c => match c.regionOf 4096, (s.movable c 4096) with | some _, none => true | _, _ => false) = true := by decide +kernel

/-- R68, R90: a frame that holds a table is not reached from afar. -/
theorem test_table_denied : (let s := targetM (msgOf .rst 0 [0])
    s.targetStatus 1 2 0x6000 2 false == 0 && ((s.markTable 0x6000).targetStatus 1 2 0x6000 2 false == 1)) = true := by decide +kernel

/-- R70: a second record of a page that is there by now leaves it as it is; a discarded page's old frame is free again. -/
theorem test_resolve_again : (match (pageM 0x63F1).resolve 0 0 4096 5 1 with | .installed t => t.mem == (pageM 0x63F1).mem | _ => false) = true := by
  decide +kernel
theorem test_resolve_discarded : (let s := { pageM 0x67F1 with frames := [{ base := 0x6000, size := 4096, pid := 0, pinned := false, table := false }] }
    match s.resolve 0 0 4096 0x0A 0 with
    | .installed t => t.frames.length == 1 && t.frameFree 0x6000 4096 && t.phys 0x4008 8 / 2 ^ 10 % 2 == 0 && t.phys 0x4008 8 % 2 == 1
    | _ => false) = true := by decide +kernel

/-- R51: what stands in the slices of a strict partition leaves them, tables too, and is found where it was mapped. -/
theorem test_evacuate : (let s := { pageM 0x63F1 with choice := List.replicate 8 7, mem := memWrite (pageM 0x63F1).mem 0x6010 [9] }
    let p := Partition.ofImage 1 (2 ^ 60 + 2 ^ 55 + 2 ^ 32 + 6 * 2 ^ 128 + 2 ^ 624 + 2 ^ 650 + 2 ^ 656 + 2 ^ 688 + 2 ^ 704)
    ((s.setPart 1 p).evacuate 1 p).any fun t => (t.ctx? 0 0).any fun c => c.l4base == 0x1_8000_0000 && t.phys 0 8 == 0 &&
      match t.walk 4096 c.l4base 4 with
      | .ok l => 0x1_8000_0000 ≤ l.frame && t.phys (l.frame + 16) 1 == 9 && l.e % 4096 == 0x3F1
      | .error _ => false) = true := by decide +kernel

/-- R257, R67: a CAS that fails sets A and no D; one that succeeds sets both. -/
theorem test_cas_marks : ([(5, 0x52F1), (0, 0x53F1)].all fun e =>
    let s := onLane (atBase 64 { laneM with mem := memWrite laneM.mem 0x4000 (bytesOf 8 0x50F1) }) fun t => { t with v := [(0, 64), (2, e.1)] }
    (after (.cas fm) s).phys 0x4000 8 == e.2) = true := by decide +kernel
/-- R287: lanes 0 and 2 on one address and lane 1 on another address of the same word add 1, 4 and 2. -/
theorem test_atom_places : (let s := { laneM with mem := memWrite laneM.mem 0x4008 (bytesOf 8 0x53F1) }
    let os : List LaneOp := [{ lane := 0, a := 64, b := 1, c := 0 }, { lane := 1, a := 4160, b := 2, c := 0 }, { lane := 2, a := 64, b := 4, c := 0 }]
    s.path?.any fun x => (s.performAtom x.1 fm os).1.done == [(0, [.v 4 0]), (1, [.v 4 5]), (2, [.v 4 1])]) = true := by decide +kernel

/-- R253: two abandoned loads, of which the second meets a fault: the first keeps its place and its tag. -/
def twoLostM : State :=
  let load := fun (a : Nat) => ({ i := .ld { fm with f := 2, la := 1 }, pc := 0, len := 12, la := 1
                                  lanes := [{ lane := 0, a := BitVec.ofNat 64 a, b := 0, c := 0 }] } : MemReq)
  let lost := fun (tag a : Nat) => ({ tag := tag, left := 1, ready := false, writes := [], owes := .all, reissue := some (load a) } : Out)
  onCtl { ctlM with tags := 20 } fun t => { t with outs := [lost 3 64, lost 5 4096] }
theorem test_reissue_keeps_tags : (let t := twoLostM.reissueLoads 0 0 none
    (t.wg? 0 0).any fun w => w.ctl.outs.map (fun o => (o.tag, o.ready, o.left)) == [(3, true, 1), (5, false, 1)] && w.fails.length == 1 &&
      lostLoads [(w.saveThread 0 true 0 0 w.ctl).ctl] == [3, 5]) = true := by decide +kernel

/-- R418: a placement decision may read the pointer as it was before a write of the step; after one that has seen the write, and after
an advance of the epoch, it may not. -/
theorem test_pointer_age : (let who : Who := { pid := 0, ctx := 0, die := 0 }
    let past : Past := { mem := memWrite laneM.mem 0x5100 (bytesOf 8 0x1234), l4base := 0, e := 0 }
    let old := ({ agedM [past] with choice := [1] }).readCell who 0x100 0x5678
    let new := ({ agedM [past] with choice := [0, 1] }).readCell who 0x100 0x5678
    old.1 == 0x1234 && new.1 == 0x5678 && (new.2.readCell who 0x100 0x5678).1 == 0x5678 &&
      (({ agedM [{ past with e := 7 }] with choice := [1] }).readCell who 0x100 0x5678).1 == 0x5678) = true := by decide +kernel
/-- R159: KDIV = 0 allows every cluster of the context, whatever NKEY and CMASK are. -/
theorem test_kdiv_zero : ([(0, 1, some 2), (0, 0, none), (1, 0, none)].all fun e =>
    let s := { laneM with mem := memWrite (memWrite (memWrite laneM.mem 0x5100 (bytesOf 8 0x200)) 0x5200 (bytesOf 4 1)) 0x5240
                            (bytesOf 32 (2 * 2 ^ 184 + e.1 * 2 ^ 176 + e.2.1 * 2 ^ 160)) }
    (s.tableMask { pid := 0, ctx := 0, die := 4 } 0x100 0 0).1 == e.2.2) = true := by decide +kernel

/-- R99: one entry of a block that the free list holds twice is taken. -/
theorem test_take_one : (let s := { withPool (poolOf 4 [1, 1, 2] []) [] laneM with choice := [0] }
    ((s.takeBlock 0 0).2.pool? 0 0).any fun x => x.free == [1, 2] && x.count 1 == 1) = true := by decide +kernel

/-- R315: a NaN that L keeps is the canonical one. -/
theorem test_row_nan : (epiRow 0xFF800000 0x7F800001 (List.replicate 64 (true, 0xFF800000))).2.1 = 0x7FC00000 := by decide +kernel

/-! ### Traps and handlers, once more -/

/-- TrapsAreRaised: a control thread under a debugger. BreakpointHaltsGroup: a guard held for no lane. -/
def offG : Guard := { neg := true, p := 0 }
def attM (s : State) : State := onWg s fun w => { w with csrs := { w.csrs with att := true } }
theorem witness_break_ctl : Here (attM ctlM) fun p _ => p.ctl && p.w.csrs.att && p.w.ctl.guard f0.g := here (by decide +kernel)
theorem witness_break_off : Here (attM laneM) fun p _ => !p.ctl && p.w.csrs.att && held p offG == 0 := here (by decide +kernel)

/-- HandlerEntryAndReturn: ERET with its guard not held; outside a handler; and with KILL = 1 in a handler, of a workgroup bound to slot 0,
whose request runs, and of one that is not bound, in a step that goes on, and in one that is over. -/
theorem witness_eret_off : Here ctlM fun p _ => p.ctl && !p.w.ctl.guard offG := here (by decide +kernel)
theorem witness_eret_outside : Here ctlM fun p _ => p.ctl && p.w.ctl.guard f0.g && !p.w.csrs.hm := here (by decide +kernel)
def killM (sv : Nat) : State :=
  onCtx (onWg { after (.trapEntry 0 0) trapM with cur := some (.ctrl 0 0) } fun w => { w with
    csrs := { w.csrs with kill := true }, id := { w.id with slotv := BitVec.ofNat 32 (sv * 2 ^ 31) } })
    fun c => { c with adm := { c.adm with slots := [(0, reqOf 2 4 4)] } }
theorem witness_eret_kill : ([0, 1].all fun sv => (killM sv).path?.any fun x => x.1.ctl && x.1.w.ctl.guard f0.g && x.1.w.csrs.hm && x.1.w.csrs.kill &&
    x.1.w.id.slotv.getLsbD 31 == (sv == 1 : Bool) && (killM sv).wgs.all (fun e => e.1 == e.2.id.core * 8 + e.2.id.slot) &&
    (x.2.ctx? x.1.w.id.pid x.1.w.id.ctx).any fun c => (c.slot? (x.1.w.id.slotv.toNat % 1024)).any fun r => r.state == rqRunning) = true := by decide +kernel
def killQ (q : State → Nat → Bool → Bool) (s : State) : Bool := s.path?.any fun x => (x.2.part? x.1.w.id.pid).any fun P =>
  P.ctxs.all fun e => q x.2 e.1 (x.2.inDomain x.1.w.id.pid x.1.w.id.ctx e)
theorem witness_eret_halts : killQ (fun s c d => !d || s.quiet true 0 c) (killM 0) = true := by decide +kernel
theorem witness_eret_waits : killQ (fun s c d => d && !s.quiet true 0 c) (onCtx (killM 0) fun c => { c with run := c.run.map fun r => { r with nodes := [] } }) = true := by decide +kernel

/-! ### Memory, once more -/

/-- Two lanes of one path, each with an address. -/
def twoM (a b : Nat) (s : State) : State :=
  { onWg s fun w => { w with
      id := { w.id with nlane := 2 }
      lanes := [(0, { w.ctl with v := [(0, BitVec.ofNat 32 a)] }), (1, { w.ctl with v := [(0, BitVec.ofNat 32 b)] })] } with
    cur := some (.lanes 0 0 0 3) }

/-- OtherLanesComplete: lane 0 in the page that is there, lane 1 in none; the other way round; and a misaligned lane 0. -/
def outcomeQ (p : Path) (t : State) (bad : List Bool) : Bool :=
  let f := { fm with f := 2 }
  !p.ctl && f.space == 0 && f.la == 0 && (p.w.group p.grp).susp == .none && !p.w.csrs.watchctl.getLsbD 0 &&
    (p.active f.g).all (fun e => e.2.region == none) &&
    ((outcomesOf p .ld f 4 .read (fun s x _ => (s.spotNat x 4, s)) (p.gather (.ld f) .ld f).lanes t).any fun r =>
      r.1.map (fun x => match x.2 with | .error _ => true | .ok _ => false) == bad) &&
    ((outcomesOf p .st f 4 .write (fun s x o => (0, s.spotWrite x (bytesOf 4 o.b.toNat))) (p.gather (.st f) .st f).lanes t).any fun r =>
      r.1.map (fun x => match x.2 with | .error _ => true | .ok _ => false) == bad)
theorem witness_other_lanes : ∀ e ∈ [(64, 4096, [false, true]), (4096, 64, [true, false]), (65, 64, [true, false])],
    Here (twoM e.1 e.2.1 laneM) fun p t => outcomeQ p t e.2.2 := by
  simp only [List.forall_mem_cons, List.not_mem_nil, false_imp_iff, implies_true, and_true]
  exact ⟨here (by decide +kernel), here (by decide +kernel), here (by decide +kernel)⟩

/-- WatchesAreRaised: lane 1 of two is watched, by reads and writes; with the enable bit alone nothing is. Address 64, 4 bytes. -/
def watchedM (bits : Nat) (s : State) : State := onWg s fun w => { w with
  csrs := { w.csrs with watcha := 64, watchctl := BitVec.ofNat 64 (bits + 2 * 2 ^ 8) } }
theorem watched_of {w : Wg} {kind ea n : Nat} (h : w.csrs.watchctl.getLsbD 0 = true ∧ w.csrs.watchctl.getLsbD kind = true ∧
    ((List.range n).any fun i => decide (w.csrs.watcha.toNat % 2 ^ 57 / 2 ^ min (w.csrs.watchctl.toNat / 2 ^ 8 % 2 ^ 8) 40 * 2 ^ min (w.csrs.watchctl.toNat / 2 ^ 8 % 2 ^ 8) 40 ≤ ea + i ∧
      ea + i < w.csrs.watcha.toNat % 2 ^ 57 / 2 ^ min (w.csrs.watchctl.toNat / 2 ^ 8 % 2 ^ 8) 40 * 2 ^ min (w.csrs.watchctl.toNat / 2 ^ 8 % 2 ^ 8) 40 + 2 ^ min (w.csrs.watchctl.toNat / 2 ^ 8 % 2 ^ 8) 40)) = true) :
    watched w kind ea n := by
  obtain ⟨h0, hk, h⟩ := h
  simp only [List.any_eq_true, List.mem_range, decide_eq_true_eq] at h
  obtain ⟨i, hi, h1, h2⟩ := h
  exact ⟨h0, hk, ea + i, by omega, by omega, h1, h2⟩
theorem witness_watched : ∃ w, Stands (watchedM 7 laneM) 0 0 w ∧ watched w 1 64 4 ∧ watched w 2 64 4 ∧ ¬ watched w 1 68 4 := by
  obtain ⟨w, h, q⟩ := stood (s := watchedM 7 laneM) (q := fun w => w.csrs.watchctl == 0x207 && w.csrs.watcha == 64) (by decide +kernel)
  simp only [Bool.and_eq_true, beq_iff_eq] at q
  refine ⟨w, h, watched_of ?_, watched_of ?_, ?_⟩
  · rw [q.1, q.2]; decide
  · rw [q.1, q.2]; decide
  · rintro ⟨-, -, x, h1, h2, h3, h4⟩
    rw [q.1, q.2] at h3 h4
    simp at h3 h4
    omega
theorem witness_not_watched : ∃ w, Stands (watchedM 1 laneM) 0 0 w ∧ w.csrs.watchctl.getLsbD 0 = true ∧ ∀ ea, ¬ watched w 1 ea 4 := by
  obtain ⟨w, h, q⟩ := stood (s := watchedM 1 laneM) (q := fun w => w.csrs.watchctl == 0x201) (by decide +kernel)
  simp only [beq_iff_eq] at q
  exact ⟨w, h, by rw [q]; decide, fun ea h => absurd h.2.1 (by rw [q]; decide)⟩
theorem witness_watch : ∀ c ∈ [false, true], Here (watchedM 7 (if c then atBase 64 ctlM else twoM 68 64 (attM laneM))) fun p t =>
    let f := { fm with f := 2 }
    f.space == 0 && (p.active f.g).all (fun e => e.2.region == none) && p.ctl == c && p.w.csrs.att == !c &&
    (loadsOf .ld f p 4 (p.gather (.ld f) .ld f).lanes t).isSome && (storesOf .st f p 4 (p.gather (.st f) .st f).lanes t).isSome &&
    (p.gather (.ld f) .ld f).lanes.map (fun o => eaOf .ld f o.a.toNat) == if c then [64] else [68, 64] := by
  simp only [List.forall_mem_cons, List.not_mem_nil, false_imp_iff, implies_true, and_true]
  exact ⟨here (by decide +kernel), here (by decide +kernel)⟩

/-- RegionsComplete: an LD and the ALE of a region that an invalidation has covered, with other bytes at the home slice since. -/
def staleM : State := onLane regionM fun t => { t with region := t.region.map fun r => { r with stale := some (List.replicate 128 7) } }
theorem witness_region_stale : Here (atBase 252 staleM) fun p t =>
    let f := { fm with f := 2 }
    !p.ctl && !p.w.csrs.watchctl.getLsbD 0 && (p.active f.g).all (fun e => e.2.region.any fun r => r.stale.isSome) &&
      (p.gather (.ld f) .ld f).lanes.all fun o => ((p.reload t).region o.lane).any fun r =>
        eaOf .ld f o.a.toNat % 4 == 0 && !r.bars (eaOf .ld f o.a.toNat) 4 && r.stale.isSome && (r.load t.mem 252 4).1 == [7, 7, 7, 7] :=
  here (by decide +kernel)
theorem witness_ale_stale : Here (atBase 252 staleM) fun p t => (p.gather (.ale f0) .ale f0).lanes.all fun o => ((p.reload t).region o.lane).any fun r => r.stale.isSome :=
  here (by decide +kernel)

/-- LevelObjectsComplete: an arrival of 5 in BYTES mode at a target of 2 with FILL 1: three phases. -/
theorem witness_lvarv_bytes : Here (onLane (objM (2 + 2 ^ 32 + 2 ^ 96) laneM) fun t => { t with v := [(0, 256), (2, 5)] }) fun p t =>
    (p.gather (.lvarv fm) .lvarv fm).lanes.all fun o => o.b.toNat == 5 && (placed p 0 (eaOf .lvarv fm o.a.toNat) 16 .atomic t o.lane).any fun x =>
      let v := x.2.spotNat x.1 16
      lvMode v && lvTarget v != 0 && lvFill v < lvTarget v && arrivedBy v 5 == 2 + 3 * 2 ^ 64 + 2 ^ 96 := here (by decide +kernel)

/-! ### The checks of R363 -/

/-- A workgroup of two blocks of scratchpad that holds every tile, with FIFOCFG as given, and one that holds none. -/
def mxId : WgId :=
  { pid := 0, ctx := 0, node := 0, wgi := 0, core := 0, slot := 0, gnum := [0], nlane := 1, nreg := 8, scr := 2, wpri := 0
    quartet := false, persist := false, slotv := 0, req := 0, qpos := 0, kvlen := 0, step := 0 }
def mxW (fifo : DWord) : Wg :=
  { Wg.start mxId 0 0 [] with csrs := { Csrs.reset with accmask := BitVec.allOnes 64, fifocfg := fifo } }
/-- A scratchpad descriptor of n F32 elements in one dimension, and operands that ask for 64 columns, or 1, of one row. -/
def mxDesc (n : Nat) : Desc := { id := 1, bits := descBits 0 n 4 true }
def mxA (po : Nat) : Nat := po + 64 * 2 ^ 32 + 2 ^ 48
theorem witness_extents : ∀ n ∈ [63, 64], ∀ j, j < (mxDesc n).ndim → (mxDesc n).ext j ≠ 0 := by decide +kernel
theorem witness_no_tile : ¬ tilesHeld { mxW 0 with csrs := Csrs.reset } .mxmul f0 0 ∧ ¬ tilesHeld (mxW 0) .clmerge f0 (2 ^ 33) ∧
    ¬ tilesHeld { mxW 0 with csrs := { Csrs.reset with accmask := 0x7FFF } } .mxzero { f0 with w2 := 0x8000 } 0 := by
  unfold tilesHeld; dsimp only; decide +kernel
theorem witness_tiles : ∀ m ∈ [Major.plane, .mxmul, .mxspm, .mxepi, .mxscale, .mxzero, .slope, .mxstore, .mxldacc],
    tilesHeld (mxW 0) m f0 (mxA 0) := by unfold tilesHeld; dsimp only; decide +kernel
theorem witness_tile_merge : tilesHeld (mxW 0) .clmerge f0 (2 ^ 32) := by unfold tilesHeld; dsimp only; decide +kernel
/-- No descriptor; one without RD. The reading instructions read theirs, but for an empty box. -/
theorem witness_no_rights : readsIt .mxmul (mxA 0) ∧ ¬ (∃ x, (none : Option Desc) = some x ∧ rightsHeld .mxmul x) ∧
    ¬ rightsHeld .mxmul { id := 1, bits := descBits 0 64 4 true - BitVec.ofNat 2048 (2 ^ 320) } ∧ ¬ readsIt .mxldacc 1 ∧ readsIt .mxldacc 257 := by
  refine ⟨?_, ?_, fun h => absurd h.2.1 (by decide +kernel), ?_, ?_⟩
  · unfold readsIt; decide
  · rintro ⟨x, h, -⟩; cases h
  all_goals unfold readsIt; decide
theorem witness_rights : ∀ m ∈ [Major.plane, .mxmul, .mxspm, .mxstore, .mxldacc], rightsHeld m (mxDesc 64) := by
  intro m hm
  refine ⟨⟨?_, ?_, fun h => absurd h (by decide +kernel)⟩, ?_, ?_, ?_⟩
  · decide +kernel
  · decide +kernel
  all_goals
    simp only [List.mem_cons, List.not_mem_nil, or_false] at hm
    rcases hm with rfl | rfl | rfl | rfl | rfl <;> decide +kernel
/-- A shape out of its range, at either end; and a box one element longer than the descriptor. -/
theorem witness_no_shape : ¬ shapeGood .mxmul (63 * 2 ^ 32 + 2 ^ 48) ∧ ¬ shapeGood .mxmul (64 * 2 ^ 32 + 65 * 2 ^ 48) ∧ ¬ shapeGood .mxepi (65 * 2 ^ 32) ∧
    ¬ shapeGood .mxldacc 65 ∧ shapeGood .mxldacc 64 ∧ shapeGood .mxmul (mxA 0) := by
  refine ⟨?_, ?_, ?_, ?_, ?_, ?_⟩ <;> (unfold shapeGood; dsimp only; decide)
def mxRow (n r k : Nat) : Bool := decide (((mxDesc n).ndim = 1 → (r : Int) = 0) ∧
  (∀ j, j < (mxDesc n).ndim → 0 ≤ wrapped (mxDesc n) (fun j => if j = 0 then (k : Int) else if j = 1 then (r : Int) else 0) j ∧
    wrapped (mxDesc n) (fun j => if j = 0 then (k : Int) else if j = 1 then (r : Int) else 0) j < ((mxDesc n).ext j : Int)) ∧
  (mxDesc n).base % 2 ^ spaceBits (mxDesc n) ≤ elementAt (mxDesc n) (fun j => if j = 0 then (k : Int) else if j = 1 then (r : Int) else 0) ∧
  elementAt (mxDesc n) (fun j => if j = 0 then (k : Int) else if j = 1 then (r : Int) else 0) + max 1 ((mxDesc n).ew / 8)
    ≤ (mxDesc n).limit % 2 ^ spaceBits (mxDesc n))
theorem witness_box : boxGood .mxmul f0 (mxDesc 64) (mxA 0) 0 ∧ ¬ boxGood .mxmul f0 (mxDesc 63) (mxA 0) 0 := by
  constructor
  · refine ⟨fun r k hr hk => ?_, fun h => by cases h⟩
    have h : ∀ r, r < 1 → ∀ k, k < 64 → mxRow 64 r k = true := by decide +kernel
    have hr : r < 1 := hr
    have := of_decide_eq_true (h r hr k hk)
    simp only [boxElement, elementIn, show sx 32 0 = 0 by decide, Int.zero_add, Nat.zero_div]
    exact this
  · intro h
    have := (h.1 0 63 (by decide) (by decide)).2.1 0 (by decide +kernel)
    revert this
    decide +kernel
theorem free_range {w : Wg} {off n : Nat} (h : off + n ≤ 4096 * w.id.scr) (hf : w.csrs.fifocfg = 0) : freeRange w off n :=
  ⟨h, fun x _ _ hx => by simp [inFifo, inSegment, hf] at hx⟩
/-- The range ends at the allocation's end, and one byte past it; a FIFO in its segment. -/
theorem witness_ranges : freeRange (mxW 0) (8192 - 2560) 2560 ∧ ¬ freeRange (mxW 0) (8192 - 2559) 2560 ∧ ¬ freeRange (mxW (2 ^ 15)) 0 2560 ∧
    freeRange (mxW 0) 7168 1024 ∧ ¬ freeRange (mxW 0) 7184 1024 := by
  refine ⟨free_range (by decide) rfl, fun h => absurd h.1 (by decide), fun h => h.2 0 (by omega) (by omega) (.inl ⟨by decide, by decide⟩),
    free_range (by decide) rfl, fun h => absurd h.1 (by decide)⟩
/-- Addresses that are no multiples of 64, 16 and 8 in ranges that are free; the ranges of MXEPI. -/
theorem witness_aligned : freeRange (mxW 0) 16 2560 ∧ 16 % 64 ≠ 0 ∧ freeRange (mxW 0) 24 1024 ∧ 24 % 16 ≠ 0 ∧ 4 % 8 ≠ 0 ∧ 8 % 16 ≠ 0 ∧
    (∀ hi ∈ [0, 1, 2, 17], hi % 4 = 1 ∨ hi % 4 = 2 → ∀ n ∈ [8192, 2560], freeRange (mxW 0) (64 * 0) n) ∧ ¬ freeRange (mxW 0) 64 8192 := by
  refine ⟨free_range (by decide) rfl, by decide, free_range (by decide) rfl, by decide, by decide, by decide, fun _ _ _ n hn => ?_,
    fun h => absurd h.1 (by decide)⟩
  simp only [List.mem_cons, List.not_mem_nil, or_false] at hn
  rcases hn with rfl | rfl <;> exact free_range (by decide) rfl

/-! ### Alignment, chunks and planes -/

/-- WeightsAreAligned: every weight 0; 1, which does not round up; and the weight whose multiple is 32,767.5, which does. -/
theorem witness_aligns : allZero [xzero] ∧ topExp [.fin false 1 1, .nan] 0 ∧ ¬ someRounds [.fin false 1 1, .nan] 14 32768 ∧
    topExp [.fin false 65535 32768] 0 ∧ someRounds [.fin false 65535 32768] 14 32768 ∧ ¬ allZero [.fin false 1 1, .nan] := by
  unfold allZero topExp someRounds nearestEven; decide +kernel
theorem witness_proper : ∀ v ∈ [xzero, .nan, .inf true, .inf false, .fin false 1 1, .fin true 1 1, .fin true 1 2, .fin false 65535 32768], Proper v := by
  intro v hv s n d h
  simp only [List.mem_cons, List.not_mem_nil, or_false, xzero] at hv
  rcases hv with rfl | rfl | rfl | rfl | rfl | rfl | rfl | rfl <;> cases h <;> decide

/-- ChunksAreSummed: a NaN; an infinity by a zero; infinities of both signs; of one; a sum of 0; and another. -/
theorem witness_sums : ([([.nan], [.fin false 1 1]), ([.inf true], [xzero])].all (fun (e : List XVal × List XVal) => (e.1.zip e.2).any fun p =>
      p.1.isNan || p.2.isNan || (p.1 == .inf true && p.2.isZero)) &&
    ((([.inf true, .inf true] : List XVal).zip ([.fin false 1 1, .fin true 1 1] : List XVal)).map fun p => (p.1.isNeg != p.2.isNeg)) == [true, false] &&
    decide (((([.fin false 1 1, .fin true 1 1] : List XVal).zip ([.fin false 1 1, .fin false 1 1] : List XVal)).map fun p => ratOf p.1 * ratOf p.2).sum = 0) &&
    decide (((([.fin true 1 2] : List XVal).zip ([.fin false 65535 32768] : List XVal)).map fun p => ratOf p.1 * ratOf p.2).sum ≠ 0)) = true := by decide +kernel

/-- PlaneBlocksAreEncoded: values whose greatest rounds up, one NaN and both infinities among them; the greatest exponent, where it may not;
and zeros. -/
def planeXs : List XVal := [.fin false 65535 32768, xzero, .fin true 1 1, .nan, .inf false, .inf true, .fin true 1 2, .fin false 1 1]
def planeTop : List XVal := .fin false (65535 * 2 ^ 112) 1 :: List.replicate 7 xzero
theorem witness_planes : planeXs.length = 8 ∧ topExp planeXs 0 ∧ topExp planeTop 127 ∧ planeTop.length = 8 ∧ ¬ allZero planeXs ∧
    (∀ v ∈ planeXs ++ planeTop, -twoPow 128 < ratOf v ∧ ratOf v < twoPow 128) ∧ allZero (List.replicate 8 xzero) ∧
    (∀ p ∈ [1, 16], ∃ v ∈ planeXs, v.isFin = true ∧ nearestEven (ratOf v * twoPow ((p : Nat) - 2 - ((127 : Nat) - 127))) (2 ^ (p - 1) : Nat)) ∧
    (∃ v ∈ planeTop, v.isFin = true ∧ nearestEven (ratOf v * twoPow ((16 : Nat) - 2 - ((254 : Nat) - 127))) (2 ^ (16 - 1) : Nat)) ∧
    ¬ ∃ v ∈ planeXs, v.isFin = true ∧ nearestEven (ratOf v * twoPow ((16 : Nat) - 2 - ((128 : Nat) - 127))) (2 ^ (16 - 1) : Nat) := by
  unfold allZero topExp nearestEven; decide +kernel

/-- MatrixMultiplyCompletes: two chunks of one column, of a scratchpad's F32 elements. -/
def mulM2 : State := mxD (.mxmul mulF) (descBits 0 128 4 true) [(1, BitVec.ofNat 64 (128 * 2 ^ 32 + 2 ^ 48))] twoF32
def mulRow (j : Nat) : List (List Nat) :=
  (List.range 8).filterMap fun i => (opOf mulM2).desc.boxAt (mxC0 (opOf mulM2).b.toNat + ((8 * j + i : Nat) : Int)) (mxC1 (opOf mulM2).b.toNat + ((0 : Nat) : Int))
theorem witness_mxmul_two : oldest mulM2 fun op _ => op.i == .mxmul mulF && bitsAt op.a.toNat 47 32 == 64 * 2 && bitsAt op.a.toNat 54 48 == 1 &&
    cellsWf (mulM2.core 0).tiles := by decide +kernel
theorem weights_sp {s : State} {core slot : Nat} {w : Wg} {f : LForm} {op : MxOp} {n j : Nat} {row : List (List Nat)} (h : Stands s core slot w)
    (hr : (List.range 8).filterMap (fun i => op.desc.boxAt (mxC0 op.b.toNat + ((8 * j + i : Nat) : Int)) (mxC1 op.b.toNat + ((n : Nat) : Int))) = row)
    (q : spElems w op.desc row (fun _ => true) = true) (cs : Tab Core) :
    weights { s with cores := cs } w.id .mxmul f op n j = (.ok (spVals w op.desc row), { s with cores := cs }) := by
  have r := readable_sp (s := s) (same := fun _ => True) (fun _ _ => trivial) ⟨h.2.1, h.2.2⟩ q
  have e := r cs s.wgs w h.1 rfl rfl (fun _ _ => rfl)
  unfold weights
  rw [if_neg (by decide)]
  dsimp only
  rw [hr]
  exact e
theorem witness_mxmul_weights : ∃ w, Stands mulM2.choose.2 0 0 w ∧ ∀ n j cs, n < 1 → j < 16 →
    weights { mulM2.choose.2 with cores := cs } w.id .mxmul mulF (opOf mulM2) n j =
      (.ok (spVals w (opOf mulM2).desc (mulRow j)), { mulM2.choose.2 with cores := cs }) := by
  obtain ⟨w, h, q⟩ := stood (s := mulM2.choose.2) (q := fun w => (List.range 16).all fun j => spElems w (opOf mulM2).desc (mulRow j) fun _ => true)
    (by decide +kernel)
  simp only [List.all_eq_true, List.mem_range] at q
  refine ⟨w, h, fun n j cs hn hj => ?_⟩
  obtain rfl : n = 0 := by omega
  exact weights_sp h rfl (q j hj) cs

/-! ### The checks of R383 -/

/-- Byte elements of a scratchpad, n of them; the command of two bytes from 0 to d. -/
def byteDesc (n : Nat) : Desc := { id := 1, bits := descBits 6 n 1 true + BitVec.ofNat 2048 (61440 * 2 ^ 64) }
def byteCmd (d : Nat) : BitVec 1024 := BitVec.ofNat 1024 (1 + 2 * 2 ^ 16 + 2 ^ 32 + d * 2 ^ 384 + 2 * 2 ^ 640)

theorem byte_at {d : Desc} (hw : d.wrap 0 = false) (nd : d.ndim = 1) (ew : d.ew = 8) (st : d.str 0 = 1) (ba : d.base = 0)
    (sp : spaceBits d = 32) (x : Nat → Int) (h0 : 0 ≤ x 0) (h1 : x 0 < 65536) : elementAt d x = (x 0).toNat ∧ wrapped d x 0 = x 0 := by
  have e : wrapped d x 0 = x 0 := by
    unfold wrapped
    rw [hw]
    rfl
  refine ⟨?_, e⟩
  simp only [elementAt, elementOff, nd, ba, sp, List.range_succ, List.range_zero, List.nil_append, List.map_cons, List.map_nil,
    List.sum_cons, List.sum_nil, ew, st, e]
  rw [if_neg (by omega), show ((2 ^ 32 : Nat) : Int) = 4294967296 from rfl]
  simp only [Int.natCast_zero, Int.zero_add, Int.mul_one, Int.add_zero]
  omega
theorem byte_desc (n : Nat) (hn : n = 4096 ∨ n = 16384) : (byteDesc n).wrap 0 = false ∧ (byteDesc n).ndim = 1 ∧ (byteDesc n).ew = 8 ∧
    (byteDesc n).str 0 = 1 ∧ (byteDesc n).base = 0 ∧ spaceBits (byteDesc n) = 32 ∧ (byteDesc n).ext 0 = n ∧ (byteDesc n).fmt = 6 ∧
    (byteDesc n).sp = true ∧ (byteDesc n).rd = true ∧ (byteDesc n).wr = true ∧ 65536 ≤ (byteDesc n).limit % 2 ^ 32 := by
  rcases hn with rfl | rfl <;> decide +kernel

/-- Places of the box of `byteCmd`. -/
theorem byte_place {d : Nat} (hd : d = 8 ∨ d = 4095 ∨ d = 8191) (k : Nat → Nat) (h : inBox (byteCmd d) k) :
    k 0 < 2 ∧ placeOf (byteCmd d) 128 k 0 = (k 0 : Int) ∧ placeOf (byteCmd d) 384 k 0 = (d : Int) + k 0 := by
  have b : boxOf (byteCmd d) 0 = 2 := by rcases hd with rfl | rfl | rfl <;> decide +kernel
  have s : originOf (byteCmd d) 128 0 = 0 := by rcases hd with rfl | rfl | rfl <;> decide +kernel
  have t : originOf (byteCmd d) 384 0 = (d : Int) := by rcases hd with rfl | rfl | rfl <;> decide +kernel
  have := h 0 (by omega)
  exact ⟨by omega, by unfold placeOf; rw [s]; omega, by unfold placeOf; rw [t]⟩

/-- Where the elements of that box lie. -/
theorem byte_elem {d n : Nat} (hd : d = 8 ∨ d = 4095 ∨ d = 8191) (hn : n = 4096 ∨ n = 16384) {k : Nat → Nat} (h : inBox (byteCmd d) k) :
    k 0 < 2 ∧ elementAt (byteDesc 4096) (placeOf (byteCmd d) 128 k) = k 0 ∧ wrapped (byteDesc 4096) (placeOf (byteCmd d) 128 k) 0 = (k 0 : Nat) ∧
      elementAt (byteDesc n) (placeOf (byteCmd d) 384 k) = d + k 0 ∧ wrapped (byteDesc n) (placeOf (byteCmd d) 384 k) 0 = ((d + k 0 : Nat) : Int) := by
  obtain ⟨hk, hs, ht⟩ := byte_place hd k h
  have b := byte_desc 4096 (.inl rfl)
  have c := byte_desc n hn
  have hd' : d + k 0 < 65536 := by clear hs ht b c h; omega
  have small : ∀ (z : Int) (m : Nat), z = m → m < 65536 → 0 ≤ z ∧ z < 65536 ∧ z.toNat = m := by intro z m h h'; omega
  obtain ⟨x0, x1, x2⟩ := small _ _ hs (Nat.lt_of_lt_of_le hk (by decide))
  obtain ⟨y0, y1, y2⟩ := small _ (d + k 0) (ht.trans (Int.natCast_add d (k 0)).symm) hd'
  have x := byte_at b.1 b.2.1 b.2.2.1 b.2.2.2.1 b.2.2.2.2.1 b.2.2.2.2.2.1 _ x0 x1
  have y := byte_at c.1 c.2.1 c.2.2.1 c.2.2.2.1 c.2.2.2.2.1 c.2.2.2.2.2.1 _ y0 y1
  exact ⟨hk, x.1.trans x2, x.2.trans hs, y.1.trans y2, y.2.trans (ht.trans (Int.natCast_add d (k 0)).symm)⟩

theorem witness_command : commandGood (mxW 0) (byteCmd 8) ∧ (∀ x ∈ [2 ^ 960, 2 ^ 47, 2 ^ 43, 2 ^ 35, 2 ^ 41], ¬ commandGood (mxW 0) (byteCmd 8 + BitVec.ofNat 1024 x)) ∧
    ¬ commandGood (mxW 0) (byteCmd 8 - BitVec.ofNat 1024 (2 ^ 32)) := by unfold commandGood; decide +kernel
theorem witness_allowed : copyAllowed (byteCmd 8) (byteDesc 4096) (byteDesc 4096) ∧
    ¬ copyAllowed (byteCmd 8) { id := 1, bits := descBits 6 4096 1 true - BitVec.ofNat 2048 (2 ^ 320) } (byteDesc 4096) := by
  have b := byte_desc 4096 (.inl rfl)
  have g : formatGood (byteDesc 4096) := by
    refine ⟨.inl (by rw [b.2.2.2.2.2.2.2.1]; omega), fun h => ?_, fun h => ?_⟩
    · rw [b.2.2.1] at h; omega
    · rw [b.2.2.2.2.2.2.2.1] at h; omega
  refine ⟨⟨b.2.2.2.2.2.2.2.2.2.1, b.2.2.2.2.2.2.2.2.2.2.1, ?_, ?_, g, g, fun h => absurd rfl h, fun h => absurd h (by decide +kernel)⟩, fun h => absurd h.1 (by decide +kernel)⟩ <;>
    (rw [b.2.2.2.2.2.2.2.1]; omega)
theorem witness_inside : copyInside (byteCmd 8) false (byteDesc 4096) (byteDesc 4096) ∧ copyInside (byteCmd 8191) false (byteDesc 4096) (byteDesc 16384) ∧
    ¬ copyInside (byteCmd 4095) false (byteDesc 4096) (byteDesc 4096) := by
  have key : ∀ d n, (d = 8 ∧ n = 4096 ∨ d = 8191 ∧ n = 16384) → copyInside (byteCmd d) false (byteDesc 4096) (byteDesc n) := by
    intro d n hdn
    have b := byte_desc 4096 (.inl rfl)
    have c := byte_desc n (by omega)
    have gs : grainOf (byteDesc 4096) = 1 := by decide +kernel
    have gt : grainOf (byteDesc n) = 1 := by rcases hdn with ⟨-, rfl⟩ | ⟨-, rfl⟩ <;> decide +kernel
    refine ⟨?_, ?_, by rw [gs, Nat.mod_one], by rw [gt, Nat.mod_one], by rw [gs]; exact Int.emod_one _, by rw [gt]; exact Int.emod_one _, fun k hk => ?_⟩
    · rcases hdn with ⟨rfl, -⟩ | ⟨rfl, -⟩ <;> decide +kernel
    · rcases hdn with ⟨rfl, -⟩ | ⟨rfl, -⟩ <;> decide +kernel
    · obtain ⟨h2, ex, wx, ey, wy⟩ := byte_elem (d := d) (n := n) (by rcases hdn with ⟨rfl, -⟩ | ⟨rfl, -⟩ <;> simp) (by rcases hdn with ⟨-, rfl⟩ | ⟨-, rfl⟩ <;> simp) hk
      have hd : d + k 0 + 1 ≤ n ∧ n ≤ 16384 := by clear ex wx ey wy; omega
      have in1 : ∀ {x : Desc}, x.ndim = 1 → ∀ j, j < x.ndim → j = 0 := by intro x h j hj; omega
      refine ⟨⟨fun j hj => ?_, ?_, ?_⟩, fun _ => ⟨fun j hj => ?_, ?_, ?_⟩, fun h => Bool.false_ne_true h.1 |>.elim⟩
      · obtain rfl := in1 c.2.1 j hj
        rw [wy, c.2.2.2.2.2.2.1]
        exact ⟨Int.natCast_nonneg _, Int.ofNat_lt.2 hd.1⟩
      · rw [c.2.2.2.2.1, Nat.zero_mod]; exact Nat.zero_le _
      · rw [ey, c.2.2.1, c.2.2.2.2.2.1]
        exact Nat.le_trans (Nat.le_trans hd.1 (Nat.le_trans hd.2 (by decide))) c.2.2.2.2.2.2.2.2.2.2.2
      · obtain rfl := in1 b.2.1 j hj
        rw [wx, b.2.2.2.2.2.2.1]
        exact ⟨Int.natCast_nonneg _, Int.ofNat_lt.2 (Nat.lt_of_lt_of_le h2 (by decide))⟩
      · rw [b.2.2.2.2.1, Nat.zero_mod]; exact Nat.zero_le _
      · rw [ex, b.2.2.1, b.2.2.2.2.2.1]
        have e : k 0 + 1 ≤ 65536 := Nat.le_trans (Nat.succ_le_of_lt h2) (by decide)
        exact Nat.le_trans e b.2.2.2.2.2.2.2.2.2.2.2
  refine ⟨key _ _ (.inl ⟨rfl, rfl⟩), key _ _ (.inr ⟨rfl, rfl⟩), fun h => ?_⟩
  have hk : inBox (byteCmd 4095) fun j => if j = 0 then 1 else 0 := by unfold inBox; decide +kernel
  have := ((h.2.2.2.2.2.2 _ hk).1.1 0 (by decide +kernel)).2
  revert this
  decide +kernel

/-- A source in the segment of a FIFO; a destination one byte past the allocation; and neither, with and without indices at its end. -/
theorem witness_places : sourceBad (mxW (2 ^ 15)) (byteCmd 8) false (byteDesc 4096) ∧ targetBad (mxW 0) (byteCmd 8191) (byteDesc 16384) ∧
    (∀ d ∈ [8, 8191], ¬ sourceBad (mxW 0) (byteCmd d) false (byteDesc 4096)) ∧ ¬ targetBad (mxW 0) (byteCmd 8) (byteDesc 4096) ∧
    freeRange (mxW 0) 8184 8 ∧ ¬ freeRange (mxW 0) 8188 8 := by
  have hk : ∀ d ∈ [8, 8191], inBox (byteCmd d) fun j => if j = 0 then 1 else 0 := by unfold inBox; decide +kernel
  have b := byte_desc 4096 (.inl rfl)
  have c := byte_desc 16384 (.inr rfl)
  have le : max 1 ((byteDesc 4096).ew / 8) = 1 ∧ max 1 ((byteDesc 16384).ew / 8) = 1 := by decide +kernel
  have one : ∀ d, d = 8 ∨ d = 8191 → inBox (byteCmd d) fun j => if j = 0 then 1 else 0 := fun d hd => hk d (by simpa using hd)
  have e1 : elementAt (byteDesc 4096) (placeOf (byteCmd 8) 128 fun j => if j = 0 then 1 else 0) = 1 := by decide +kernel
  have e2 : elementAt (byteDesc 16384) (placeOf (byteCmd 8191) 384 fun j => if j = 0 then 1 else 0) = 8192 := by decide +kernel
  have b16 : ¬ 0x10 ≤ (byteDesc 4096).fmt := by decide +kernel
  have nf : ¬ byIndex (byteCmd 8) false (byteDesc 4096) := fun h => Bool.false_ne_true h.1
  refine ⟨⟨b.2.2.2.2.2.2.2.2.1, nf, _, one 8 (.inl rfl), .inl fun h => ?_⟩, ⟨c.2.2.2.2.2.2.2.2.1, _, one 8191 (.inr rfl), .inl ?_⟩, ?_, ?_, ?_, ?_⟩
  · rw [e1, le.1] at h
    exact h.2 1 (by omega) (by omega) (.inl ⟨by decide, by decide⟩)
  · rw [e2, le.2]
    have : (mxW 0).id.scr = 2 := rfl
    omega
  · rintro d hd ⟨-, -, k, hk, h⟩
    obtain ⟨h2, ex, -⟩ := byte_elem (d := d) (n := 4096) (by simp only [List.mem_cons, List.not_mem_nil, or_false] at hd; rcases hd with rfl | rfl <;> simp) (.inl rfl) hk
    rcases h with h | ⟨h, -⟩
    · refine h (free_range ?_ rfl)
      rw [ex, le.1]
      exact Nat.le_trans (Nat.succ_le_of_lt h2) (by decide)
    · exact b16 h
  · rintro ⟨-, k, hk, h⟩
    obtain ⟨h2, -, -, ey, -⟩ := byte_elem (d := 8) (n := 4096) (.inl rfl) (.inl rfl) hk
    rcases h with h | ⟨q, x, z, hq, -, -, -, -, h, -⟩ | ⟨h, -⟩
    · rw [ey, le.1] at h
      exact absurd (Nat.lt_of_lt_of_le h (Nat.add_le_add_right (Nat.add_le_add_left (Nat.le_of_lt h2) 8) 1)) (by decide)
    · have : q = 0 ∨ q = 1 := by clear ey h2 hk; omega
      rcases this with rfl | rfl <;> exact absurd h.1 (by decide)
    · exact b16 h
  · exact free_range (by decide) rfl
  · exact fun h => absurd h.1 (by decide)
/-- The addresses of the object and of the indices, in the last check. -/
theorem witness_last : (byteCmd 8 + BitVec.ofNat 1024 (2 ^ 40 + 8 * 2 ^ 64)).getLsbD 40 = true ∧ (byteCmd 8 + BitVec.ofNat 1024 (2 ^ 40 + 8 * 2 ^ 64)).toNat / 2 ^ 64 % 2 ^ 64 % 16 ≠ 0 ∧
    (byteCmd 8 + BitVec.ofNat 1024 (2 ^ 42 + 2 * 2 ^ 896)).getLsbD 42 = true ∧ (byteCmd 8 + BitVec.ofNat 1024 (2 ^ 42 + 2 * 2 ^ 896)).toNat / 2 ^ 896 % 2 ^ 64 % 4 ≠ 0 := by
  decide +kernel
/-- CopiesIssue: a command at the last 128 bytes of the allocation, and at the next 16. -/
theorem witness_command_place : ∃ w, Stands copyM 0 0 w ∧ ¬ freeRange w 3984 128 ∧ freeRange w 3968 128 := by
  obtain ⟨w, h, q⟩ := stood (s := copyM) (q := fun w => w.id.scr == 1 && w.csrs.fifocfg == 0) (by decide +kernel)
  simp only [Bool.and_eq_true, beq_iff_eq] at q
  exact ⟨w, h, fun h => absurd h.1 (by rw [q.1]; decide), free_range (by generalize w.id.scr = n at q; cases q.1; decide) q.2⟩

/-- CopyEngineTransfers: a transfer between formats of bytes, 4-bit codes, blocks, and into blocks; a gather of an absent row; and one
from global memory to global memory. -/
def transferM (f g : Nat) (gather sp : Bool) : State :=
  let cmd := BitVec.ofNat 1024 (2 ^ 32 + 2 ^ 42 + 64 * 2 ^ 128 + 128 * 2 ^ 384 + 16 * 2 ^ 640 + 1024 * 2 ^ 896)
  let op : CopyOp := { tag := 9, slot := 0, pc := 0, gather := gather, cmd := cmd, src := { id := 1, bits := descBits f 256 4 sp }
                       dst := { id := 2, bits := descBits g 256 4 sp }, next := 0, written := 0, arrived := 0, stop := .none, parity := none, half := 0, got := [] }
  { (onWg ctlM fun w => { w with scratch := memWrite [] 1024 (bytesOf 4 0xFFFFFFFF) }).modCore 0 (fun c => { c with copies := [op] }) with choice := [1], cur := none }
def transferQ (q : State → CopyOp → Wg → Bool) (s : State) : Bool := match (s.core 0).copies, s.wg? 0 0 with
  | [op], some w => w.id.core == 0 && w.id.slot == op.slot && s.wgs.all (fun e => e.1 == e.2.id.core * 8 + e.2.id.slot) && op.stop == .none &&
      op.next < cmCount op.cmd && s.choose.1 % (cmCount op.cmd - op.next + 1) == 1 && !cmMcast op.cmd && op.dst.stata == 0 && s.fabric.out == [] &&
      op.next + transferOf op < cmCount op.cmd && q s op w
  | _, _ => false
theorem witness_transfers : ([(6, 6, false), (5, 5, false), (5, 7, false), (0, 0x10, false), (0x12, 0x12, false), (0, 3, false), (6, 6, true)].all fun e =>
    transferQ (fun _ op w => op.gather == e.2.2 && op.src.sp && op.dst.sp && cmIdxsp op.cmd && fmtListed op.src.fmt && op.src.fmt < 0x20 && fmtListed op.dst.fmt &&
      op.dst.fmt < 0x20 && op.dst.fmt != 8 && !w.csrs.fifocfg.getLsbD 15 && !w.csrs.fifocfg.getLsbD 31 && transferOf op == (if e.2.1 == 0x10 then 8 else 1) &&
      (List.range (transferOf op)).all (fun i => (copyOrigin op w.id.scr w.scratch i).isSome && (!e.2.2 || copyOrigin op w.id.scr w.scratch i == some none)) &&
      (op.dst.coords (cmDst op.cmd op.next)).any fun cs => (op.dst.addrOf true cs).any fun ea => ea + max 1 (transferOf op * op.dst.ew / 8) ≤ 4096 * w.id.scr &&
        op.dst.scaleAddr cs < 4096 * w.id.scr) (transferM e.1 e.2.1 e.2.2 true)) = true := by decide +kernel
theorem witness_transfer_global : ([(0, 0), (6, 6), (0, 6)].all fun e => transferQ (fun s op w => !op.src.sp && !op.dst.sp && !op.gather && 8 ≤ op.src.ew && 8 ≤ op.dst.ew &&
    (op.src.coords (cmSrc op.cmd false op.next 0)).any fun cs => (op.src.addrOf false cs).any fun sa => sa % (op.src.ew / 8) == 0 &&
    (op.dst.coords (cmDst op.cmd op.next)).any fun cd => (op.dst.addrOf false cd).any fun da => da % (op.dst.ew / 8) == 0 &&
    match s.choose.2.engSpot w.id false sa (op.src.ew / 8) .read with
    | (.ok (.mem _), s1) => s1 == { s.choose.2 with mem := s1.mem } && (match s1.engSpot w.id false da (op.dst.ew / 8) .write with
      | (.ok (.mem _), s2) => s2 == { s1 with mem := s2.mem } | _ => false)
    | _ => false) (transferM e.1 e.2 false false)) = true := by decide +kernel

/-! ### The fabric, merges and pre-emption, once more -/

/-- RemoteRequestsAreServed: an RLD of an address in no frame. -/
theorem witness_refuse_rld : (let m := { msgOf .rld 0 [0, 0] with addr := 0x7000 }
    (targetM m).fabric.rx == [m] && m.type == .rld && (targetM m).targetStatus m.src m.spart (msgRange m).1 (msgRange m).2 true != 0) = true := by decide +kernel

/-- RemoteAccessesComplete: of a RUNNING context, and of a PREEMPTED one. -/
def heldM (s : State) : State := onCtx s fun c => { c with cstate := 3 }
theorem witness_remote_held : ([(remoteM 1 (atBase 4096 laneM), false), (heldM (remoteM 1 (atBase 4096 laneM)), true)].all fun e =>
    goesOut e.1 && e.1.path?.any fun x => (remoteRows fr).all fun r => !x.2.remoteClash x.1 r.2.1 fr (x.1.gather r.1 r.2.1 fr).lanes &&
      ((x.2.ctx? 0 0).any fun c => c.cstate == 3) == e.2) = true := by decide +kernel

/-- ContextsAreSavedAndRestored: a workgroup whose lane waits for a remote request slot: its message is not sent, and it is saved with it. -/
def slotWaitM : State := heldM { after (.rld fr) ((remoteM 1 (atBase 4096 laneM)).modPart 0 fun q => { q with rslots := 0 }) with cur := none }
theorem witness_save_waits : (slotWaitM.wgs.all (fun e => e.1 == e.2.id.core * 8 + e.2.id.slot) && ((slotWaitM.ctx? 0 0).any fun c => c.cstate == 3) &&
    slotWaitM.ctxWgs 0 0 != [] && slotWaitM.quiet false 0 0 && (slotWaitM.fabric.out.map fun r => (r.sent, (slotWaitM.wg? 0 0).any r.awaited)) == [(false, true)]) = true := by
  decide +kernel
/-- R145, Table 5-8: the message leaves channel 0 untouched while the context is away, comes back with its workgroup and is sent then. -/
theorem test_slot_wait_kept : (let s := after (.contextSave 0 0) slotWaitM
    let t := (after (.contextRestore 0 0) s).modPart 0 fun q => { q with rslots := 4 }
    s.fabric.out == [] && s.fabric.tx == [] && ((s.ctx? 0 0).any fun c => c.saved.map (fun x => x.remotes.length) == [1]) &&
      t.fabric.out.map (·.sent) == [false] && (t.serveSlots.fabric.out.map (·.sent)) == [true] && t.serveSlots.fabric.tx.length == 1) = true := by decide +kernel

/-- ContextsAreSavedAndRestored: the slot is taken by another context's workgroup; it is free, and no number of a group is taken. -/
def takenM : State := { savedM with wgs := laneM.wgs.map fun e => (e.1, { e.2 with id := { e.2.id with ctx := 1 } }) }
theorem witness_restore_none : ((takenM.ctx? 0 0).any fun c => c.cstate == 3 && takenM.ctxWgs 0 0 == [] && takenM.turnCome 0 c &&
    ((restoring takenM 0 0).restoreWgs c.saved).isNone) = true := by decide +kernel
theorem witness_restore_some : ((savedM.ctx? 0 0).any fun c => ((restoring savedM 0 0).restoreWgs c.saved).isSome && c.saved.length == 1 &&
    (c.saved.all fun x => x.wg.id.gnum.all (fun g => (savedM.onCore x.wg.id.core).all fun o => !o.id.gnum.contains g) &&
      (x.wg.ctl :: x.wg.lanes.map (·.2)).all (fun t => (match t.wait with | .slots _ _ => false | _ => true) && t.outs == []) &&
      cellsWf x.tiles && x.tiles.all fun e => x.wg.csrs.accmask.getLsbD (e.1 / 4096)) && cellsWf (savedM.core 0).tiles) = true := by decide +kernel
def bigM (k : Nat) : State :=
  let copy := fun (x : Saved) (j : Nat) => { x with wg := { x.wg with id := { x.wg.id with slot := j, scr := 500 } } }
  savedM.modCtx 0 0 fun c => { c with saved := c.saved.flatMap fun x => (List.range k).map (copy x) }
/-- R148, Table 6-5: two saved workgroups that fit the core one by one and not together are not restored. -/
theorem test_restore_together : (((bigM 1).ctx? 0 0).any (fun c => ((restoring (bigM 1) 0 0).restoreWgs c.saved).isSome) &&
    ((bigM 2).ctx? 0 0).any fun c => c.saved.length == 2 && c.saved.all (fun x => (bigM 2).slotReady x) &&
      ((restoring (bigM 2) 0 0).restoreWgs c.saved).isNone) = true := by decide +kernel

/-- ClusterMergeCompletes: a merge whose cores have all arrived; one that waits for core 1, at which this core has arrived; and one at which it has
not. -/
def mergesM (pm : Nat) (arr : List (Nat × Nat)) : State := mergeM.setCluster 0 { mergeM.cluster 0 with merges := [(0, { pm := pm, arrivals := arr })] }
theorem witness_merge_waits : ([(2, [(1, 0)], true, false), (3, [(0, 1)], false, true), (3, [(1, 0)], false, false)].all fun e =>
    let s := mergesM e.1 e.2.1
    match s.queue 0 0, s.wg? 0 0 with
    | [op], some w => op.i == .clmerge { f0 with a := 1 } && !op.joined && (tabGet (s.cluster 0).merges ((w.id.pid * 32 + w.id.ctx) * 8 + bitsAt op.a.toNat 38 36)).any fun m =>
        (m.arrivals != [] && (List.range 4).all fun c => !m.pm.testBit c || m.arrivals.any fun a => a.1 == c) == e.2.2.1 &&
        (m.arrivals.any fun a => a.1 == 0) == e.2.2.2
    | _, _ => false) = true := by decide +kernel
/-- R375: of two merges of one slot, the second waits until the first, which is complete, has merged. -/
theorem test_merge_complete : (let s := mergesM 2 [(1, 0)]
    (after (.matrixOperation 0 0) s).queue 0 0 == s.queue 0 0 && (tabGet ((after (.matrixOperation 0 0) s).cluster 0).merges 0).any fun m => m.arrivals == [(1, 0)]) = true := by
  decide +kernel

/-! ### Starts and launches -/

/-- WorkgroupsStart: an ARGS block at VA 512, and one in no page; and a quartet. -/
def startNode (args : Nat) (quartet : Bool) : State := onCtx laneM fun c => { c with run := c.run.map fun r => { r with nodes :=
  [{ record := BitVec.ofNat 1024 (nodeBits.toNat + args * 2 ^ 832 + b2n quartet * 2 ^ 469), grid := if quartet then 4 else 1, taken := [], done := [] }] } }
def startQ (s : State) (q : State → NodeRun → Nat → Bool) : Bool := (s.ctx? 0 0).any fun c => match s.nextPlaced 0 0 c with
  | (some (i, w, core), s1) => i == 0 && w == 0 && (c.run.any fun r => (r.node? i).any fun n => q s1 n core) && !s.outranked 0 c core && (s1.wg? core 7).isNone
  | _ => false
theorem witness_args : ([(512, true), (4096, false)].all fun e => startQ (startNode e.1 false) fun s1 n core => !ndClpl n.record &&
    n.record.toNat / 2 ^ 832 % 2 ^ 64 == e.1 && match (taking s1 0 0 0 0 core 7 n.record).agentReadMany (agentOf 0 0) e.1 16 8 with
      | (.ok _, _) => e.2 | (.error _, _) => !e.2) = true := by decide +kernel
theorem witness_quartet : (startQ (startNode 0 true) (fun _ n core => ndClpl n.record && ndArgs n.record == 0 && core % 4 == 0) &&
    (startNode 0 true).wgs.all fun e => decide (e.2.id.slot < 8) && e.1 == e.2.id.core * 8 + e.2.id.slot) = true := by decide +kernel

/-- DescriptorsAreWritten: of four slots, two that are active, the second with its last tokens, one that sits out, and one with no request. -/
def ragC : Context := { Context.blank with
  nslot := 4, stepn := 9, adm := { Admission.fresh with slots := [(0, reqOf 2 8 4), (1, reqOf 2 8 0), (3, reqOf 2 4 4)] } }
theorem witness_descriptor : (decide (ragC.adm.slots.Pairwise fun a b => a.1 < b.1) && ragC.adm.slots.all (fun e => e.1 < ragC.nslot &&
    e.2.pos + e.2.q < 2 ^ 24 && e.2.q < 2 ^ 16 && ragC.classOf e.2 < 8) && rowsOf ragC == 8 && activeSlots ragC == [(0, reqOf 2 8 4), (3, reqOf 2 4 4)]) = true := by
  decide +kernel
/-- Table 5-7: the entry of slot 3: REQID 7, KVLEN 4, Q 4, ROW0 4, V and LAST. -/
theorem test_entry : slotEntry ragC 3 (reqOf 2 4 4) = 7 * 2 ^ 96 + 4 * 2 ^ 48 + 4 * 2 ^ 32 + 4 * 2 ^ 16 + 2 ^ 15 + 2 ^ 14 + 3 := by decide +kernel
/-- R155: TOKTILE of GX 2 and TILE 3 over those slots: 2 tiles each; workgroup 3 has the second tile of slot 0, workgroup 4 the first of slot 3. -/
theorem test_tiles : (let n := BitVec.ofNat 1024 (2 * 2 ^ 488 + 3 * 2 ^ 473 + 2 * 2 ^ 470)
    gridFor ragC n == 8 && [3, 4].map (fun w => (bindingOf n (raggedOf ragC.adm.slots 0) w).map fun e => (e.1.slot, e.2)) == [some (0, 3), some (3, 0)]) = true := by decide +kernel

/-- StepsAreLaunched: RDBASE in a page and in none; a node whose map is in a page, a second whose map is in none; and a graph of no node. -/
def launchM (rd : Nat) : State := onCtx laneM fun c => { c with
  run := none, rdbase := BitVec.ofNat 64 rd, nslot := 1, adm := { c.adm with slots := [(0, reqOf 2 8 4)] } }
def graphOf (maps : List Nat) : Graph :=
  { nodes := maps.map fun m => BitVec.ofNat 1024 (nodeBits.toNat + 2 ^ 473 + m * 2 ^ 768), nnode := maps.length, ebase := 5, etok := 2 }
theorem witness_launch : ([(0xC00, true), (0x1000, false)].all fun e => let s := launchM e.1
    (s.ctx? 0 0).any fun c => activeSlots c != [] && s.wgs.all (fun e => e.1 == e.2.id.core * 8 + e.2.id.slot) &&
      match s.agentWriteMany (agentOf 0 0) c.rdbase.toNat (raggedBytes c (raggedOf c.adm.slots 0)) with
      | (.ok _, s1) => e.2 && s1.parts == s.parts && s1.wgs == s.wgs && (graphOf [0x800]).ok (raggedOf c.adm.slots 0) (rowsOf c) &&
          !(graphOf []).ok (raggedOf c.adm.slots 0) (rowsOf c) && (match s1.agentWriteMany (agentOf 0 0) 0x800 [0] with
            | (.ok _, s2) => s2.parts == s.parts && (match s2.agentWriteMany (agentOf 0 0) 0x1000 [0] with | (.error _, s3) => s3.parts == s.parts | _ => false)
            | _ => false)
      | (.error _, s1) => !e.2 && s1.parts == s.parts && s1.wgs == s.wgs) = true := by decide +kernel
theorem witness_maps : (graphOf [0x800, 0x1000]).nodes.map (fun n => (n.toNat / 2 ^ 768 % 2 ^ 64, ceilDiv (gridFor ragC n) 8)) = [(0x800, 1), (0x1000, 1)] ∧
    (graphOf [0x800, 0x1000]).ok (raggedOf ragC.adm.slots 0) (rowsOf ragC) = true := by decide +kernel

/-! ### Fused groups, and addresses of devices (R181, R50) -/

/-- Groups 0 and 4 of one workgroup, which share a quarter, each with one lane at VA 0, at positions 0 and l. -/
def fuseM (l : Nat) : State :=
  { (onWg laneM fun w => { w with
      id := { w.id with nlane := 160, gnum := [0, 1, 2, 3, 4] }
      lanes := w.lanes ++ w.lanes.map fun e => (128 + l, e.2)
      groups := (List.range 5).map fun g => (g, Group.init) }) with cur := none, nxt := none, pairs := [], choice := [0, 0, 0] }
/-- R181: disjoint positions issue together, each as an issue of its group; the same position does not. -/
theorem test_fused : (let s := (fuseM 1).selectQuarter 0 0; let t := (fuseM 0).selectQuarter 0 0
    s.cur == some (.lanes 0 0 0 1) && s.nxt == some (.lanes 0 0 4 2) && s.pairs.map (·.grp) == [0, 4] &&
      t.nxt == none && t.pairs.length == 1) = true := by decide +kernel
/-- R181: an ATOM is not fused. -/
theorem test_never_fused : [Major.atom, .redg, .trap].all neverFused = true ∧ neverFused .rld = false := by decide +kernel

/-- R50: a KIND 4 region of device 3FFH whose second page passes 2^46 of that device: its leaf stays in TIER 3, at 0. -/
def farRegion : BitVec 256 :=
  BitVec.ofNat 256 (0x10000 * 2 ^ 192 + 0x2000 * 2 ^ 128 + (0x3FF * 2 ^ 54 + (2 ^ 46 - 4096) * 2 ^ 8) * 2 ^ 56 + 4 * 2 ^ 48)
theorem test_far_region : (regionOk farRegion && [0, 1].all fun k => (laneM.mapRegionPage 0 0 (0x10000 + 4096 * k) farRegion).any fun s =>
    match s.walk (0x10000 + 4096 * k) 0 4 with
    | .ok l => l.tier == 3 && l.dev == 0x3FF && l.frame == (if k = 0 then 2 ^ 46 - 4096 else 0)
    | .error _ => false) = true := by decide +kernel

/-- R91: the message of a workgroup that was killed still takes its slot and is sent. -/
theorem test_killed_message : (let s := { (after (.rld fr) ((remoteM 1 (atBase 4096 laneM)).modPart 0 fun q => { q with rslots := 0 })) with wgs := [] }
    let t := s.modPart 0 fun q => { q with rslots := 4 }
    s.fabric.out.map (·.sent) == [false] && (s.serveSlots.fabric.out.map (·.sent)) == [false] && (t.serveSlots.fabric.out.map (·.sent)) == [true]) = true := by decide +kernel

/-! ### The device -/

/-- An image of no code with SVN 3: the magic number, SVN, and DIGEST at byte 16 (Table 2-11). -/
def imageHead : List Byte := leBytes 4 0x4D569400 ++ leBytes 4 3 ++ leBytes 8 0
def imageBytes (d : BitVec 256) : List Byte := imageHead ++ (digestBytes d ++ List.replicate 208 0)
def image (d : BitVec 256) : Cells 8 := memWrite [] 0 (imageBytes d)

theorem head_length : imageHead.length = 16 := by decide +kernel

theorem bytesOf_length (n : Nat) : ∀ x, (bytesOf n x).length = n := by
  induction n with
  | zero => simp [bytesOf]
  | succ n ih => simp [bytesOf, ih]

theorem digest_length (d : BitVec 256) : (digestBytes d).length = 32 := by simp [digestBytes, bytesOf_length]

theorem image_reads (d : BitVec 256) (off n : Nat) (h : off + n ≤ 256) :
    imgBytes (image d) off n = ((imageBytes d).drop off).take n := by
  have hl : (imageBytes d).length = 256 := by
    rw [imageBytes, List.length_append, List.length_append, digest_length, head_length, List.length_replicate]
  apply List.ext_getElem?
  intro i
  by_cases hi : i < n
  · rw [imgBytes, Laws.memRead_get _ _ _ _ hi, image, Laws.cellGet_memWrite _ _ _ _ rfl, List.getElem?_take_of_lt hi, List.getElem?_drop,
      if_pos (by omega), List.getElem?_eq_getElem (by omega)]
    simp [show off + i < (imageBytes d).length by omega]
  · rw [List.getElem?_eq_none, List.getElem?_eq_none]
    · simp; omega
    · simp [imgBytes, Laws.memRead_length]; omega

theorem image_zeros (d : BitVec 256) : imgNat (image d) 112 144 = 0 := by
  rw [imgNat, image_reads _ _ _ (by omega)]
  have h : (imageBytes d).drop 112 = List.replicate 144 0 := by
    rw [imageBytes, ← List.append_assoc, List.drop_append, List.drop_eq_nil_of_le (by simp [head_length, digest_length]), List.drop_replicate,
      List.length_append, head_length, digest_length, List.nil_append]
  rw [h]; decide +kernel

theorem image_head (d : BitVec 256) (off n : Nat) (h : off + n ≤ 16) : imgBytes (image d) off n = (imageHead.drop off).take n := by
  rw [image_reads _ _ _ (by omega), imageBytes, List.drop_append_of_le_length (by rw [head_length]; omega), List.take_append_of_le_length]
  simp [head_length]; omega

theorem image_digest (d : BitVec 256) : imgDigest (image d) = digestBytes d := by
  rw [imgDigest, image_reads _ _ _ (by omega), imageBytes, List.drop_left' head_length, List.take_left' (digest_length d)]

/-- The image passes the checks, if the fused key signs its header. -/
theorem witness_good_image (sig : Config.ecdsaVerify Config.fusedKeyHash (imgBytes (image (Config.sha256 [])) 0 48)
      (imgBytes (image (Config.sha256 [])) 48 64) = true) : imgBad (image (Config.sha256 [])) 3 = none := by
  have hl : imgLen (image (Config.sha256 [])) = 0 := by rw [imgLen, imgNat, image_head _ _ _ (by omega)]; decide +kernel
  have hm : imgNat (image (Config.sha256 [])) 0 4 = 0x4D569400 := by rw [imgNat, image_head _ _ _ (by omega)]; decide +kernel
  have hs : imgSvn (image (Config.sha256 [])) = 3 := by rw [imgSvn, imgNat, image_head _ _ _ (by omega)]; decide +kernel
  have hz : imgNat (image (Config.sha256 [])) 0 256 ≠ 0 := by
    rw [imgNat, image_reads _ _ _ (by omega), imageBytes, show imageHead = 0 :: 0x94 :: imageHead.drop 2 by decide +kernel]
    simp only [List.cons_append, List.drop_zero, List.take_succ_cons, ofBytes, ne_eq]
    have : (0x94 : Byte).toNat = 0x94 := rfl
    omega
  have he : imgBytes (image (Config.sha256 [])) 256 0 = [] := rfl
  simp [imgBad, hz, hm, hl, hs, image_zeros, image_digest, sig, he]

/-- Three starting devices: the preferred image passes, or only the other one; and blank flash. -/
def startM (pref : Nat) : State := { State.reset with dev := { State.reset.dev with
  minSvn := 3, flash := { Flash.blank with a := image (Config.sha256 []), preferred := pref } } }
theorem witness_start_other : imgBad ((startM 1).dev.flash.slot 1) 3 ≠ none ∧ (startM 1).dev.flash.slot (1 - 1) = image (Config.sha256 []) ∧
    (startM 0).dev.flash.slot 0 = image (Config.sha256 []) := ⟨by decide +kernel, by simp [startM, Flash.slot], by simp [startM, Flash.slot]⟩
theorem witness_start_fails : ([0, 1].all fun k => imgBad (State.reset.dev.flash.slot k) 0 == some 1) = true := by decide +kernel
theorem witness_start_failed : ([(1, false), (2, true)].all fun e => decide (2 ≤ (e.1 : Nat)) == e.2) = true := by decide +kernel

/-- READY and the time limit: before 10 s, at 10 s, after. -/
theorem witness_starting : ([(9999999999, true, true), (10000000000, true, false), (10000000001, false, false)].all fun e =>
    let s := { State.reset with ns := e.1, dev := { State.reset.dev with boot := .starting 0 0 } }
    s.dev.boot == .starting 0 0 && decide (s.ns ≤ 0 + 10000000000) == e.2.1 && decide (s.ns < 0 + 10000000000) == e.2.2) = true := by decide +kernel

/-- HostLinkIsLost: a context in a step, an IDLE one, a HALTED one; and a device that waits for the host's reset. -/
theorem witness_link_contexts : ((laneM.ctx? 0 0).any fun c => c.cstate != 4 && c.run != none) &&
    (((onCtx laneM fun c => { c with cstate := 1, run := none }).ctx? 0 0).any fun c => c.cstate != 4 && c.run == none) &&
    (((haltedM 4 1 false true).ctx? 0 0).any fun c => c.cstate == 4) && (after .linkDown laneM).dev.hostWait = true := by decide +kernel

/-- LinksAndSectorsFail: a link that is up, two that failed 1 ms ago, a partition of die 0 with a context there, and near memory. -/
def downM : State := { after (.linkFailure (.iod 0)) (after (.linkFailure (.ring 0)) laneM) with ns := 1000000 }
theorem witness_links : (!laneM.linkGone (.ring 0) && laneM.dev.downSince (.ring 0) == none && downM.dev.downSince (.ring 0) == some 0 &&
    downM.dev.downSince (.iod 0) == some 0 && decide (downM.ns ≤ 0 + 1000000) && (downM.part? 0).isSome && (downM.ctx? 0 0).isSome &&
    nearDie (32 * 0) == some 0) = true := by decide +kernel

/-! ### Steps -/

/-- What stands at a path's PC. -/
def standsAt (p : Path) (s : State) : Option (Except Reject (Instr × Nat)) :=
  match s.fetch p.who p.pc with | (.ok bs, _) => some (decode bs) | _ => none

/-- The machine whose lane is at an instruction. -/
def atInstr (i : Instr) : State := State.reset.place (8 * (encode i).length) (leNat (encode i))

/-- StepsRunWhatStands: a lane at a NOP, and at a reserved major; a fetch; an event of the agenda. -/
theorem witness_step_runs : Here laneM fun p s => match standsAt p s with
    | some (.ok (i, _)) => (coded i).any fun x => p.illegal x.1 x.2.2 == none && !p.queueWait i &&
        p.lanes.all fun l => (p.thread l).all fun th => th.windowOk x.1 x.2.2
    | _ => false := here (by decide +kernel)
theorem witness_step_rejects : Here (State.reset.place 32 0x34) fun p s => match standsAt p s with | some (.error _) => true | _ => false :=
  here (by decide +kernel)
theorem witness_fetched : Here laneM fun p s => p.pc.toNat % 4 == 0 && (List.range (wordsOfLen (cellGet (w := 8) s.mem 0x5000))).all fun k =>
    (match s.xlate p.who (p.pc.toNat + 4 * k) .fetch false with | (.pa a, _, s') => a == 0x5000 + 4 * k && s' == s | _ => false) &&
      s.eccSub (0x5000 + 4 * k) 4 true == none := here (by decide +kernel)
theorem witness_event : (Instr.ready).isCoded = false := by decide +kernel
theorem witness_agenda_empty : { laneM with cur := none }.agenda = [] := by decide +kernel

/-- RejectedInstructions: a lane at a DQPUSH, and one whose destination is a register it does not have. -/
theorem witness_wrong_stream : Here { atInstr (.dqpushShort s0) with cur := laneM.cur } fun p s => match standsAt p s with
    | some (.ok (i, _)) => (coded i).any fun x => !streamOk x.1 p.ctl | _ => false := here (by decide +kernel)
theorem witness_no_register : Here (onWg (atInstr (.add { f0 with d := 8 })) fun w => { w with id := { w.id with nreg := 8 } }) fun p s =>
    match standsAt p s with
    | some (.ok (i, _)) => (coded i).any fun x => !p.ctl && useD x.1 x.2.2 == .r32 && decide (p.w.id.nreg ≤ x.2.2.d.toNat) && !p.regsOk x.1 x.2.2
    | _ => false := here (by decide +kernel)
theorem witness_zero_word : majorOf (leNat [0, 0, 0, 0] / 4 % 128) = none := by decide +kernel

/-- DecodeAndEncodeAgree. -/
theorem witness_encodes : ([Instr.exit s0, .add f0, .ld { f0 with f := 0x49, la := 3, w2 := 8 }].all fun i => i.isCoded && i.wf) = true := by decide +kernel

/-- MemoryIsLittleEndian and StepsKeepTheMachineSound: a machine with memory written, and a step that it answers. -/
theorem witness_sound : MemInv laneM ∧ WgsStand laneM ∧ ∃ t, step laneM = .next t := by
  refine ⟨show Memory.wf laneM.mem = true by decide +kernel, stand_all (by decide +kernel), ?_⟩
  have h : (match step laneM with | .next _ => true | _ => false) = true := by decide +kernel
  split at h
  · next t ht => exact ⟨t, ht⟩
  · cases h

end Sys2Proof.Tests
end

section
/-! SUPPORT. Power and temperature (R25 to R27): the clock steps, and that O50 holds. -/

namespace Sys2Proof.Package
open Machine Claims

/-- One step down, and never below 700 MHz, changes the clock alone. -/
theorem slower_eq (d : Device) :
    d.slower = { d with coreMhz := if 700 < d.coreMhz then d.coreMhz - 100 else d.coreMhz } := rfl

/-- No rated step passes 1,400 MHz. -/
theorem ratedStep_le (w : Nat) : ratedStep w ≤ 1400 := by
  rw [ratedStep]
  cases h : List.find? (fun f => decide (Config.ratedPower f ≤ w)) [1400, 1300, 1200, 1100, 1000, 900, 800] with
  | none => decide
  | some f =>
    have hf := List.mem_of_find?_eq_some h
    simp only [List.mem_cons, List.not_mem_nil, or_false] at hf
    simp only [Option.getD_some]
    omega

theorem powerThrottle_effect (s : State) (watts : Nat) :
    ∃ f, exec (.powerThrottle watts) s = .next { s with dev := { s.dev with powerW := watts, coreMhz := f } } ∧
      (s.anyStrict = true ∨ watts ≤ s.dev.limitW → f = s.dev.coreMhz) ∧
      (s.anyStrict = false → s.dev.limitW < watts →
        f = if 700 < s.dev.coreMhz then s.dev.coreMhz - 100 else s.dev.coreMhz) := by
  change ∃ f, execPowerThrottle watts s = _ ∧ _
  simp only [execPowerThrottle, slower_eq]
  cases hs : s.anyStrict with
  | true => exact ⟨s.dev.coreMhz, by simp, by simp, by simp⟩
  | false =>
    by_cases hw : s.dev.limitW < watts
    · exact ⟨_, by rw [if_pos (by simpa using hw)], by simp; omega, fun _ _ => rfl⟩
    · exact ⟨s.dev.coreMhz, by rw [if_neg (by simpa using hw)], by simp, fun _ h => absurd h hw⟩

theorem thermalThrottle_effect (s : State) (celsius : Nat) :
    ∃ f h n, exec (.thermalThrottle celsius) s =
        .next { s with dev := { s.dev with tempC := celsius, hot := h, coreMhz := f, thermalChanges := n } } ∧
      (h = true ↔ 105 ≤ celsius ∨ s.dev.hot = true ∧ 100 ≤ celsius) ∧
      (h = true → 700 < s.dev.coreMhz → f = s.dev.coreMhz - 100 ∧ n = s.dev.thermalChanges + 1) ∧
      (h = false ∨ s.dev.coreMhz ≤ 700 → f = s.dev.coreMhz ∧ n = s.dev.thermalChanges) := by
  change ∃ f h n, execThermalThrottle celsius s = _ ∧ _
  simp only [execThermalThrottle, slower_eq]
  generalize hot : (decide (105 ≤ celsius) || (s.dev.hot && decide (100 ≤ celsius))) = h
  have hh : h = true ↔ 105 ≤ celsius ∨ s.dev.hot = true ∧ 100 ≤ celsius := by simp [← hot]
  by_cases hd : h = true ∧ 700 < s.dev.coreMhz
  · refine ⟨s.dev.coreMhz - 100, h, s.dev.thermalChanges + 1, ?_, hh, fun _ _ => ⟨rfl, rfl⟩, fun hn => ?_⟩
    · rw [if_pos (by simpa using hd), if_pos hd.2]
    · obtain hn | hn := hn
      · simp [hn] at hd
      · omega
  · refine ⟨s.dev.coreMhz, h, s.dev.thermalChanges, ?_, hh, fun h1 h2 => absurd ⟨h1, h2⟩ hd, fun _ => ⟨rfl, rfl⟩⟩
    rw [if_neg (by simpa using hd)]

/-- The clock rises where a rise stays within its top, nothing is hot, and the power or a strict partition allows it. -/
theorem coreClockRaise_eq (s : State) : exec .coreClockRaise s =
    if s.dev.coreMhz + 100 ≤ (if s.anyStrict then ratedStep s.dev.limitW else 1400) ∧ (!s.dev.hot) = true ∧
        (s.anyStrict = true ∨ s.dev.powerW ≤ s.dev.limitW)
    then .next { s with dev := { s.dev with coreMhz := s.dev.coreMhz + 100 } } else .next s := rfl

/-- The highest clock that any partitions allow. -/
theorem clockTop_le (s : State) : (if s.anyStrict then ratedStep s.dev.limitW else 1400) ≤ 1400 := by
  split
  · exact ratedStep_le _
  · exact Nat.le_refl _

theorem coreClockRaise_effect (s : State) :
    (s.dev.hot = true → exec .coreClockRaise s = .next s) ∧
    (s.anyStrict = false → s.dev.hot = false → s.dev.powerW ≤ s.dev.limitW → s.dev.coreMhz ≤ 1300 →
      exec .coreClockRaise s = .next { s with dev := { s.dev with coreMhz := s.dev.coreMhz + 100 } }) ∧
    (1300 < s.dev.coreMhz → exec .coreClockRaise s = .next s) := by
  refine ⟨fun hot => ?_, fun free cool power low => ?_, fun high => ?_⟩ <;> rw [coreClockRaise_eq]
  · exact if_neg fun h => by simp [hot] at h
  · exact if_pos ⟨by simp only [free, Bool.false_eq_true, if_false]; omega, by simp [cool], .inr power⟩
  · have top := clockTop_le s
    exact if_neg fun h => by omega

/-! ### Commands of PF0 -/

/-- A command that PF0's mailbox holds, with no reserved byte set, is answered as its effect says. -/
theorem runCommand_pf0 {s : State} {code : Nat} {cmd : List Byte} {named : List (Nat × Nat)}
    {act : List Byte → State → Option CmdDone} {d : CmdDone} (h : Commanded s .pf0 code cmd) (hz : cmdZeroOk cmd named = true)
    (hc : 0x40 ≤ code ∧ code ≤ 0x45) (ha : act cmd s = some d) :
    runCommand .pf0 code named act s = .next (d.state.respond .pf0 code d.result d.data) := by
  obtain ⟨m, hm, hb, rfl, hcode, hr⟩ := h
  have hcode : cmdCode m.issued = code := hcode
  have hcond : (!m.busy || cmdCode m.issued != code || !s.answersCmd || !s.takesCmd .pf0 code) = false := by
    simp [hb, hcode, State.answersCmd, State.takesCmd, hr, hc]
  simp only [runCommand, hm, hcond, Bool.false_eq_true, if_false, hz, Bool.not_true, ha]

/-- POWER_LIMIT within its range leaves the limit it names and a clock: the present one, or the rated step under a strict partition
that nothing hot holds down. -/
theorem powerLimit_takes (s : State) (cmd : List Byte) (lo : 1200 ≤ cmdNat cmd 8 4) (hi : cmdNat cmd 8 4 ≤ 2000) :
    ∃ f, powerLimit cmd s = some (.ok { s with dev := { s.dev with limitW := cmdNat cmd 8 4, coreMhz := f } }) ∧
      (s.anyStrict = false → f = s.dev.coreMhz) ∧
      (s.anyStrict = true → s.dev.hot = false → f = ratedStep (cmdNat cmd 8 4)) := by
  have hn : ¬ (cmdNat cmd 8 4 < 1200 ∨ 2000 < cmdNat cmd 8 4) := by omega
  have hs (d : Device) : ({ s with dev := d } : State).anyStrict = s.anyStrict := rfl
  simp only [powerLimit, if_neg hn, hs]
  cases s.anyStrict with
  | false => exact ⟨_, rfl, fun _ => rfl, by simp⟩
  | true => exact ⟨_, rfl, by simp, fun _ cool => by simp [cool]⟩

theorem exec_powerLimit (s : State) : exec .powerLimit s = runCommand .pf0 0x42 [(8, 12)] powerLimit s := rfl

theorem powerLimit_effect (s : State) (cmd : List Byte) (h : Commanded s .pf0 0x42 cmd) (hz : cmdZeroOk cmd [(8, 12)] = true) :
    let w := cmdNat cmd 8 4
    (w < 1200 ∨ 2000 < w → Refuses .powerLimit .pf0 0x42 s 2) ∧
    (1200 ≤ w → w ≤ 2000 → ∃ f,
      Answers .powerLimit .pf0 0x42 s 0 [] (fun t => t = { s with dev := { s.dev with limitW := w, coreMhz := f } }) ∧
      (s.anyStrict = false → f = s.dev.coreMhz) ∧ (s.anyStrict = true → s.dev.hot = false → f = ratedStep w)) := by
  simp only [Refuses, Answers, exec_powerLimit]
  refine ⟨fun out => ?_, fun lo hi => ?_⟩
  · rw [runCommand_pf0 h hz (by decide) (d := .fail s mrBadParam) (by simp only [powerLimit, if_pos out])]
    rfl
  · obtain ⟨f, ha, free, strict⟩ := powerLimit_takes s cmd lo hi
    refine ⟨f, ⟨_, ?_, rfl⟩, free, strict⟩
    rw [runCommand_pf0 h hz (by decide) ha]
    rfl

/-- Settles O50: each reading and command by the lemma about its row. -/
theorem clocksFollowPowerAndHeat : Obligations.ClocksFollowPowerAndHeat :=
  ⟨powerThrottle_effect, thermalThrottle_effect, coreClockRaise_effect, powerLimit_effect⟩

end Sys2Proof.Package
end

section
/-! SUPPORT. Flits as bytes (R31, R89): numbers and their bytes, the CRC, a message and its header, and that a flit made from messages
holds them. -/

namespace Sys2Proof.Package
open Machine Claims

/-! ### Numbers and bytes -/

@[simp] theorem bytesOf_length (n : Nat) : ∀ x, (bytesOf n x).length = n := by
  induction n with
  | zero => intro x; rfl
  | succ n ih => intro x; rw [bytesOf, List.length_cons, ih]

/-- The number in n bytes of x is what of x they hold. -/
theorem ofBytes_bytesOf (n : Nat) : ∀ x, ofBytes (bytesOf n x) = x % 256 ^ n := by
  induction n with
  | zero => intro x; simp [bytesOf, ofBytes, Nat.mod_one]
  | succ n ih =>
    intro x
    rw [bytesOf, ofBytes, ih, BitVec.toNat_ofNat, show 256 ^ (n + 1) = 256 * 256 ^ n from Nat.pow_succ', Nat.mod_mul]

/-- A number that fits is read back from its bytes. -/
theorem ofBytes_bytesOf_of_lt {n x : Nat} (h : x < 256 ^ n) : ofBytes (bytesOf n x) = x := by
  rw [ofBytes_bytesOf, Nat.mod_eq_of_lt h]

/-! ### The CRC -/

theorem crcShift_lt (r : Nat) : crcShift r < 2 ^ 64 := by
  have low : r * 2 % 2 ^ 64 < 2 ^ 64 := Nat.mod_lt _ (by decide)
  unfold crcShift
  split
  · exact Nat.xor_lt_two_pow low (by decide)
  · exact low

/-- A CRC fits in eight bytes. -/
theorem crc64_lt (bs : List Byte) : crc64 bs < 2 ^ 64 :=
  List.foldlRecOn bs crcByte (motive := fun r => r < 2 ^ 64) (by decide) fun _ _ _ _ => crcShift_lt _

/-! ### Messages -/

theorem typeOf_typeCode (t : MsgType) : typeOf (typeCode t) = some t := by cases t <;> rfl
theorem typeCode_lt (t : MsgType) : typeCode t < 16 := by cases t <;> decide
theorem b2n_lt (b : Bool) : b2n b < 2 := by cases b <;> decide

/-- The fields of the header of a message that fits (Table 3-7). -/
theorem msgHeader_fields {m : Msg} (h : MsgFits m) : msgHeader m < 2 ^ 128 ∧
    bitsAt (msgHeader m) 127 118 = m.dst ∧ bitsAt (msgHeader m) 117 108 = m.src ∧
    bitsAt (msgHeader m) 107 104 = typeCode m.type ∧ bitsAt (msgHeader m) 103 88 = m.seq.toNat ∧
    bitsAt (msgHeader m) 87 72 = m.low.toNat ∧ bitsAt (msgHeader m) 71 68 = m.spart ∧ bitsAt (msgHeader m) 67 60 = m.len ∧
    bitsAt (msgHeader m) 59 52 = m.opc.toNat ∧ msgHeader m / 2 ^ 51 % 2 = b2n m.retx ∧ bitsAt (msgHeader m) 45 0 = m.addr := by
  obtain ⟨hdst, hsrc, hspart, hlen, haddr, -, -⟩ := h
  have htype := typeCode_lt m.type
  have hretx := b2n_lt m.retx
  have hseq := m.seq.isLt
  have hlow := m.low.isLt
  have hopc := m.opc.isLt
  simp only [msgHeader, bitsAt, Nat.mod_eq_of_lt hspart, Nat.mod_eq_of_lt haddr,
    Nat.mod_eq_of_lt (show m.len < 256 by omega)]
  generalize m.dst = dst at *
  generalize m.src = src at *
  generalize typeCode m.type = ty at *
  generalize m.seq.toNat = seq at *
  generalize m.low.toNat = low at *
  generalize m.spart = spart at *
  generalize m.len = len at *
  generalize m.opc.toNat = opc at *
  generalize b2n m.retx = retx at *
  generalize m.addr = addr at *
  refine ⟨?_, ?_, ?_, ?_, ?_, ?_, ?_, ?_, ?_, ?_, ?_⟩ <;> omega

/-- A message that fits is what its header and its data make. -/
theorem msgOf_header {m : Msg} (h : MsgFits m) : msgOf (msgHeader m) m.type m.data = m := by
  obtain ⟨-, hdst, hsrc, -, hseq, hlow, hspart, hlen, hopc, hretx, haddr⟩ := msgHeader_fields h
  have hoffs := h.2.2.2.2.2.2
  have hb : bitAt (msgHeader m) 51 = m.retx := by
    rw [bitAt, hretx]
    cases m.retx <;> rfl
  simp only [msgOf, hdst, hsrc, hseq, hlow, hspart, hlen, hopc, hb, haddr, ← hoffs, BitVec.ofNat_toNat, BitVec.setWidth_eq]

/-- The bytes of a message that fits: its header and its data. -/
theorem msgBytes_eq {m : Msg} (h : MsgFits m) : msgBytes m = bytesOf 16 (msgHeader m) ++ m.data := by
  obtain ⟨-, -, -, -, -, hdata, -⟩ := h
  rw [msgBytes]
  split
  · next ht => rw [if_pos ht] at hdata; rw [List.eq_nil_of_length_eq_zero hdata]
  · rfl

theorem dataLen_of_fits {m : Msg} (h : MsgFits m) : dataLen m.type m.len = m.data.length := by
  obtain ⟨-, -, -, -, -, hdata, -⟩ := h
  exact hdata.symm

/-- Messages that fit are read back from their bytes, whatever follows. -/
theorem msgsOf_flatMap (rest : List Byte) : ∀ ms : List Msg, (∀ m ∈ ms, MsgFits m) →
    msgsOf ms.length (ms.flatMap msgBytes ++ rest) = some ms
  | [], _ => rfl
  | m :: ms, h => by
    have hm := h m List.mem_cons_self
    obtain ⟨hlt, -, -, htype, -, -, -, hlen, -, -, -⟩ := msgHeader_fields hm
    have hbs : (m :: ms).flatMap msgBytes ++ rest = bytesOf 16 (msgHeader m) ++ (m.data ++ (ms.flatMap msgBytes ++ rest)) := by
      rw [List.flatMap_cons, msgBytes_eq hm, List.append_assoc, List.append_assoc]
    have hhead : ofBytes ((bytesOf 16 (msgHeader m) ++ (m.data ++ (ms.flatMap msgBytes ++ rest))).take 16) = msgHeader m := by
      rw [List.take_left' (bytesOf_length ..), ofBytes_bytesOf_of_lt hlt]
    have hfit : ¬ ((bytesOf 16 (msgHeader m) ++ (m.data ++ (ms.flatMap msgBytes ++ rest))).length < 16 + m.data.length ∨
        224 < m.len) := by
      obtain ⟨-, -, -, hl, -, -, -⟩ := hm
      simp only [List.length_append, bytesOf_length]
      omega
    rw [hbs, List.length_cons, msgsOf]
    simp only [hhead, htype, typeOf_typeCode, hlen, dataLen_of_fits hm, if_neg hfit, ← List.drop_drop]
    rw [List.drop_left' (bytesOf_length ..), List.take_left' rfl, List.drop_left' rfl,
      msgsOf_flatMap rest ms fun x hx => h x (List.mem_cons_of_mem _ hx), msgOf_header hm, Option.map_some]

/-! ### Flits -/

/-- The number in the first eight bytes of a flit (Table 1-5). -/
def headOf (seq ack cvc ccnt n : Nat) : Nat :=
  seq % 4096 * 2 ^ 52 + ack % 4096 * 2 ^ 40 + cvc % 4 * 2 ^ 38 + ccnt % 64 * 2 ^ 32 + n * 2 ^ 28

theorem headOf_fields (seq ack cvc ccnt : Nat) {n : Nat} (hn : n ≤ 15) : headOf seq ack cvc ccnt n < 2 ^ 64 ∧
    bitsAt (headOf seq ack cvc ccnt n) 63 52 = seq % 4096 ∧ bitsAt (headOf seq ack cvc ccnt n) 31 28 = n := by
  simp only [headOf, bitsAt]
  refine ⟨?_, ?_, ?_⟩ <;> omega

/-- The first 248 bytes of the flit that carries some messages: the head, the payload, and zeros. -/
def flitBody (seq ack cvc ccnt : Nat) (ms : List Msg) : List Byte :=
  bytesOf 8 (headOf seq ack cvc ccnt ms.length) ++
    (ms.flatMap msgBytes ++ List.replicate (240 - (ms.flatMap msgBytes).length) 0)

/-- A flit is made from at most 15 messages of at most 240 bytes: its body and its CRC. -/
theorem flitOf_some {seq ack cvc ccnt : Nat} {ms : List Msg} {flit : List Byte} (h : flitOf seq ack cvc ccnt ms = some flit) :
    ms.length ≤ 15 ∧ (ms.flatMap msgBytes).length ≤ 240 ∧
      flit = flitBody seq ack cvc ccnt ms ++ bytesOf 8 (crc64 (flitBody seq ack cvc ccnt ms)) := by
  simp only [flitOf] at h
  split at h
  · cases h
  · next hfit =>
    obtain ⟨hn, hp⟩ := not_or.1 hfit
    refine ⟨Nat.le_of_not_lt hn, Nat.le_of_not_lt hp, ?_⟩
    simp only [flitBody, headOf, ← List.append_assoc]
    exact (Option.some.inj h).symm

theorem flitBody_length {seq ack cvc ccnt : Nat} {ms : List Msg} (h : (ms.flatMap msgBytes).length ≤ 240) :
    (flitBody seq ack cvc ccnt ms).length = 248 := by
  simp only [flitBody, List.length_append, bytesOf_length, List.length_replicate]
  omega

/-- Eight bytes of CRC after 248 make a good flit. -/
theorem flitGood_append {body : List Byte} (h : body.length = 248) : flitGood (body ++ bytesOf 8 (crc64 body)) = true := by
  rw [flitGood, List.drop_left' h, List.take_left' h, ofBytes_bytesOf_of_lt (crc64_lt body)]
  simp [h]

theorem flitHead_flitBody {seq ack cvc ccnt : Nat} {ms : List Msg} (hn : ms.length ≤ 15) (crc : List Byte) :
    flitHead (flitBody seq ack cvc ccnt ms ++ crc) = headOf seq ack cvc ccnt ms.length := by
  rw [flitHead, flitBody, List.append_assoc, List.take_left' (bytesOf_length ..), 
    ofBytes_bytesOf_of_lt (headOf_fields seq ack cvc ccnt hn).1]

/-- A flit made from messages that fit is good and holds them and its SEQ. -/
theorem flitOf_holds {seq ack cvc ccnt : Nat} {ms : List Msg} {flit : List Byte} (h : flitOf seq ack cvc ccnt ms = some flit)
    (fits : ∀ m ∈ ms, MsgFits m) : flitGood flit = true ∧ flitSeq flit = seq % 4096 ∧ flitMsgs flit = some ms := by
  obtain ⟨hn, hp, rfl⟩ := flitOf_some h
  obtain ⟨-, hseq, hcount⟩ := headOf_fields seq ack cvc ccnt hn
  refine ⟨flitGood_append (flitBody_length hp), ?_, ?_⟩
  · rw [flitSeq, flitHead_flitBody hn, hseq]
  · rw [flitMsgs, flitHead_flitBody hn, hcount, flitBody, List.append_assoc, List.drop_left' (bytesOf_length ..), List.take_left',
      msgsOf_flatMap _ ms fits]
    simp only [List.length_append, List.length_replicate]
    omega

end Sys2Proof.Package
end

section
/-! SUPPORT. What the accesses of agents can change (R421): memory, frames, replicas, collapses and the registers that hold
translations, and no partition, core, cluster or message. -/

namespace Sys2Proof.Package
open Machine Claims

/-- From s to t only memory with its poison, workgroups, frames, replicas, collapses and what is chosen from change. -/
def PageWork (s t : State) : Prop :=
  t = { s with
    mem := t.mem, wgs := t.wgs, frames := t.frames, replicas := t.replicas, collapses := t.collapses, choice := t.choice
    fresh := t.fresh, dev := { s.dev with poison := t.dev.poison } }

theorem PageWork.refl (s : State) : PageWork s s := rfl

theorem PageWork.trans {s t u : State} (a : PageWork s t) (b : PageWork t u) : PageWork s u := by
  unfold PageWork at *; rw [b, a]

theorem PageWork.fold {α : Type} (f : State → α → State) (h : ∀ s a, PageWork s (f s a)) (l : List α) (s : State) :
    PageWork s (l.foldl f s) :=
  List.foldlRecOn l f (motive := PageWork s) (PageWork.refl s) fun t ht a _ => ht.trans (h t a)

theorem PageWork.ite {s t u : State} {c : Prop} [Decidable c] (a : PageWork s t) (b : PageWork s u) :
    PageWork s (if c then t else u) := by
  split
  · exact a
  · exact b

theorem PageWork.fabric {s t : State} (h : PageWork s t) : t.fabric = s.fabric := by unfold PageWork at h; rw [h]
theorem PageWork.parts {s t : State} (h : PageWork s t) : t.parts = s.parts := by unfold PageWork at h; rw [h]
theorem PageWork.clusters {s t : State} (h : PageWork s t) : t.clusters = s.clusters := by unfold PageWork at h; rw [h]
theorem PageWork.lostDies {s t : State} (h : PageWork s t) : t.dev.lostDies = s.dev.lostDies := by unfold PageWork at h; rw [h]

/-! ### Memory and frames -/

theorem pageWork_choose (s : State) : PageWork s s.choose.2 := by
  unfold State.choose; split <;> rfl

theorem pageWork_setPhys (s : State) (a n x : Nat) : PageWork s (s.setPhys a n x) := rfl
theorem pageWork_zeroPhys (s : State) (a n : Nat) : PageWork s (s.zeroPhys a n) := rfl
theorem pageWork_freeFrame (s : State) (b : Nat) : PageWork s (s.freeFrame b) := rfl
theorem pageWork_markTable (s : State) (b : Nat) : PageWork s (s.markTable b) := rfl
theorem pageWork_invalidate (s : State) (p a va n : Nat) : PageWork s (s.invalidate p a va n) := rfl
theorem pageWork_forgetFrame (s : State) (b n : Nat) : PageWork s (s.forgetFrame b n) := rfl
theorem pageWork_dropReplica (s : State) (r : Replica) : PageWork s (s.dropReplica r) := rfl
theorem pageWork_startCollapse (s : State) (who : Who) (va pte : Nat) : PageWork s (s.startCollapse who va pte) := rfl

theorem pageWork_allocFrame {s : State} {pid tier die size : Nat} {x : Nat × State}
    (h : s.allocFrame pid tier die size = some x) : PageWork s x.2 := by
  simp only [State.allocFrame, State.allocRange, Option.map_eq_some_iff] at h
  obtain ⟨a, -, rfl⟩ := h
  exact (pageWork_choose s).trans rfl

theorem pageWork_allocPrefer {s : State} {pid tier die size : Nat} {x : Nat × State}
    (h : s.allocPrefer pid tier die size = some x) : PageWork s x.2 := by
  unfold State.allocPrefer at h
  split at h
  · next r hr => cases h; exact pageWork_allocFrame hr
  · split at h
    · exact pageWork_allocFrame h
    · cases h

theorem pageWork_allocTable {s : State} {pid : Nat} {x : Nat × State} (h : s.allocTable pid = some x) : PageWork s x.2 := by
  simp only [State.allocTable, Option.map_eq_some_iff] at h
  obtain ⟨y, hy, rfl⟩ := h
  exact (pageWork_allocPrefer hy).trans ((pageWork_markTable _ _).trans (pageWork_zeroPhys _ _ _))

theorem pageWork_releaseFrame (s : State) (b n : Nat) : PageWork s (s.releaseFrame b n) :=
  (PageWork.fold _ pageWork_dropReplica _ s).trans <|
    (pageWork_forgetFrame _ b n).trans ((pageWork_zeroPhys _ b n).trans (pageWork_freeFrame _ b))

/-! ### Translation -/

theorem pageWork_markAD (s : State) (l : Leaf) (acc : Acc) : PageWork s (s.markAD l acc) := by
  unfold State.markAD
  exact .ite (.refl s) (pageWork_setPhys _ _ _ _)

theorem pageWork_mayReplicate (s : State) (who : Who) (l : Leaf) (va : Nat) : PageWork s (s.mayReplicate who l va) := by
  unfold State.mayReplicate; dsimp only
  split
  · split
    · exact PageWork.refl s
    · split
      · exact pageWork_choose s
      · split
        · exact pageWork_choose s
        · next h => exact (pageWork_choose s).trans ((pageWork_allocFrame h).trans rfl)
  · exact PageWork.refl s

theorem pageWork_xlate (s : State) (who : Who) (va : Nat) (acc : Acc) (remote : Bool) :
    PageWork s (s.xlate who va acc remote).2.2 := by
  unfold State.xlate
  split
  · exact PageWork.refl s
  · split
    · exact PageWork.refl s
    · split
      · exact PageWork.refl s
      · split
        · dsimp only
          split
          · exact (pageWork_markAD _ _ _).trans (pageWork_mayReplicate _ _ _ _)
          · exact pageWork_markAD _ _ _
        · exact pageWork_markAD _ _ _
        · exact pageWork_markAD _ _ _
        · exact PageWork.refl s

/-- Frames that are freed take no replica away. -/
theorem freeFrames_replicas (rs : List Replica) (s : State) :
    (rs.foldl (fun s r => s.freeFrame r.frame) s).replicas = s.replicas :=
  List.foldlRecOn rs _ (motive := fun t : State => t.replicas = s.replicas) rfl fun _ h _ _ => h

/-- A collapse that is carried out is page work, and leaves no replica that was not there. -/
theorem finishCollapse_pageWork (s : State) (c : Collapse) :
    PageWork s (s.finishCollapse c) ∧ ∀ r ∈ (s.finishCollapse c).replicas, r ∈ s.replicas := by
  unfold State.finishCollapse
  split
  · exact ⟨rfl, fun _ h => h⟩
  · refine ⟨PageWork.trans ?_ (pageWork_setPhys _ _ _ _), fun r hr => ?_⟩
    · exact PageWork.trans (t := { s.invalidate _ _ _ _ with replicas := _, collapses := _ }) rfl
        (PageWork.fold _ (fun _ _ => pageWork_freeFrame _ _) _ _)
    · rw [State.setPhys_replicas, freeFrames_replicas] at hr
      exact (List.mem_filter.1 hr).1

theorem pageWork_finishCollapse (s : State) (c : Collapse) : PageWork s (s.finishCollapse c) := (finishCollapse_pageWork s c).1

/-! ### Demand mapping and the accesses of agents -/

theorem pageWork_mapLeafGo (pid va lvl leaf : Nat) : ∀ (n tab : Nat) (s t : State),
    State.mapLeaf.go pid va lvl leaf n tab s = some t → PageWork s t
  | 0, tab, s, t, h => by
    simp only [State.mapLeaf.go, Option.some.injEq] at h
    exact h ▸ pageWork_setPhys _ _ _ _
  | n + 1, tab, s, t, h => by
    unfold State.mapLeaf.go at h
    dsimp only at h
    split at h
    · exact pageWork_mapLeafGo pid va lvl leaf n _ s t h
    · split at h
      · cases h
      · next hf => exact (pageWork_allocTable hf).trans ((pageWork_setPhys _ _ _ _).trans (pageWork_mapLeafGo pid va lvl leaf n _ _ t h))

theorem pageWork_mapLeaf {s t : State} {pid l4 va lvl leaf : Nat} (h : s.mapLeaf pid l4 va lvl leaf = some t) : PageWork s t :=
  pageWork_mapLeafGo _ _ _ _ _ _ _ _ h

theorem pageWork_mapRegionPage {s t : State} {pid l4 va : Nat} {r : BitVec 256} (h : s.mapRegionPage pid l4 va r = some t) :
    PageWork s t := by
  unfold State.mapRegionPage at h
  dsimp only at h
  split at h
  · exact pageWork_mapLeaf h
  · exact pageWork_mapLeaf h
  · split at h
    · cases h
    · next hf => exact (pageWork_allocPrefer hf).trans ((pageWork_zeroPhys _ _ _).trans (pageWork_mapLeaf h))

theorem pageWork_resolve {s t : State} {pid ctx va cause sub : Nat} (h : s.resolve pid ctx va cause sub = .installed t) :
    PageWork s t := by
  unfold State.resolve at h
  split at h
  · cases h
  · split at h
    · cases h
    · split at h
      · dsimp only at h
        split at h
        · cases h; exact PageWork.refl _
        · split at h
          · next u hu =>
            cases h
            refine (pageWork_mapRegionPage hu).trans (PageWork.trans ?_ (pageWork_invalidate _ _ _ _ _))
            cases (s.walk va _ 4).toOption with
            | none => exact PageWork.refl u
            | some l => exact pageWork_releaseFrame _ _ _
          · cases h
      · cases h

theorem pageWork_agentXlate (who : Who) (va : Nat) (acc : Acc) : ∀ (n : Nat) (s : State),
    PageWork s (s.agentXlate who va acc n).2
  | 0, s => PageWork.refl s
  | n + 1, s => by
    have hx := pageWork_xlate s who va acc false
    have again (t : State) (h : PageWork (s.xlate who va acc false).2.2 t) : PageWork s (t.agentXlate who va acc n).2 :=
      (hx.trans h).trans (pageWork_agentXlate who va acc n t)
    unfold State.agentXlate
    dsimp only
    split
    · split
      · split
        · exact again _ ((pageWork_startCollapse _ _ _ _).trans (pageWork_finishCollapse _ _))
        · exact hx
      · split
        · next hr => exact again _ (pageWork_resolve hr)
        · exact hx
        · exact hx
    · exact again _ ((pageWork_startCollapse _ _ _ _).trans (pageWork_finishCollapse _ _))
    · split
      · exact again _ (pageWork_finishCollapse _ _)
      · exact again _ (PageWork.refl _)
    · exact hx

theorem pageWork_agentUpdate (s : State) (who : Who) (va n : Nat) (f : Nat → Nat) : PageWork s (s.agentUpdate who va n f).2 := by
  have h := pageWork_agentXlate who va .atomic 5 s
  unfold State.agentUpdate
  split
  · next e => rw [e] at h; exact h
  · next e =>
    rw [e] at h
    split
    · split
      · exact h
      · exact h.trans (pageWork_setPhys _ _ _ _)
    · exact h

end Sys2Proof.Package
end

section
/-! SUPPORT. The Tarile side (R30 to R32, R90, R302): the groups recorded for message sources, flits received, ports that fail, the
fabric barrier, and that O37 holds. -/

namespace Sys2Proof.Package
open Machine Claims

/-! ### Recorded groups (R90) -/

/-- The fabric group recorded for a source and its partition. -/
def recorded (fb : Fabric) (src spart : Nat) : Option Nat :=
  (fb.pairs.find? fun e => e.1 == src && e.2.1 == spart).map (·.2.2)

theorem pairGroup_of_ne {s : State} {src : Nat} (spart : Nat) (h : src ≠ s.fabric.devId) :
    s.pairGroup src spart = recorded s.fabric src spart := by rw [State.pairGroup, if_neg h, recorded]

/-- A record of another pair is found as if this one's were not there. -/
theorem find_other_pair (ps : List (Nat × Nat × Nat)) {a b src spart : Nat} (h : ¬ (a = src ∧ b = spart)) :
    ((ps.filter fun e => !(e.1 == a && e.2.1 == b)).find? fun e => e.1 == src && e.2.1 == spart) =
      ps.find? fun e => e.1 == src && e.2.1 == spart := by
  rw [List.find?_filter]
  congr 1
  funext e
  cases he : (e.1 == src && e.2.1 == spart) with
  | false => exact decide_eq_false fun hn => nomatch hn.2
  | true =>
    refine decide_eq_true ⟨?_, rfl⟩
    rw [Bool.not_eq_true', Bool.eq_false_iff]
    intro hab
    simp only [Bool.and_eq_true, beq_iff_eq] at he hab
    exact h ⟨hab.1.symm.trans he.1, hab.2.symm.trans he.2⟩

/-- Once its records are taken out, a pair has none. -/
theorem find_own_pair (ps : List (Nat × Nat × Nat)) (a b : Nat) :
    ((ps.filter fun e => !(e.1 == a && e.2.1 == b)).find? fun e => e.1 == a && e.2.1 == b) = none := by
  simp only [List.find?_eq_none, List.mem_filter]
  rintro e ⟨-, he⟩ h
  rw [h] at he
  cases he

/-- Noting a message records what firmware holds for its pair, and leaves every other pair. -/
theorem recorded_notePair (now : Nat) (fb : Fabric) (m : Msg) (src spart : Nat) :
    recorded (fb.notePair now m) src spart =
      if m.src = src ∧ m.spart = spart then Config.pairGroup now src spart else recorded fb src spart := by
  by_cases h : m.src = src ∧ m.spart = spart
  · obtain ⟨rfl, rfl⟩ := h
    simp only [and_self, if_true, recorded, Fabric.notePair]
    cases Config.pairGroup now m.src m.spart with
    | none => simp only [find_own_pair, Option.map_none]
    | some g => simp
  · rw [if_neg h]
    have hb : (m.src == src && m.spart == spart) = false := by simpa using h
    simp only [recorded, Fabric.notePair]
    cases Config.pairGroup now m.src m.spart with
    | none => simp only [find_other_pair _ h]
    | some g => simp only [List.find?_cons, hb, find_other_pair _ h]

/-- The pairs of some messages have what firmware holds recorded, every other pair what it had. -/
theorem recorded_notePairs (now src spart : Nat) : ∀ (ms : List Msg) (fb : Fabric),
    recorded (ms.foldl (Fabric.notePair now) fb) src spart =
      if ∃ m ∈ ms, m.src = src ∧ m.spart = spart then Config.pairGroup now src spart else recorded fb src spart
  | [], fb => by simp
  | m :: ms, fb => by
    rw [List.foldl_cons, recorded_notePairs now src spart ms, recorded_notePair]
    simp only [List.mem_cons, exists_eq_or_imp]
    by_cases h : ∃ x ∈ ms, x.src = src ∧ x.spart = spart
    · rw [if_pos h, if_pos (.inr h)]
    · rw [if_neg h]
      simp only [h, or_false]

/-- Noting messages changes nothing else of the Tarile side. -/
theorem notePairs_eq (now : Nat) (ms : List Msg) (fb : Fabric) :
    ms.foldl (Fabric.notePair now) fb = { fb with pairs := (ms.foldl (Fabric.notePair now) fb).pairs } :=
  List.foldlRecOn ms (Fabric.notePair now) (motive := fun x : Fabric => x = { fb with pairs := x.pairs }) rfl
    fun x hx m _ => by rw [hx]; rfl

/-! ### Flits and ports (R30 to R32) -/

/-- The Tarile side once a port has taken messages of its next flit. -/
def Fabric.took (fb : Fabric) (now port seq : Nat) (ms : List Msg) : Fabric :=
  let mine := ms.filter fun m => m.dst == fb.devId
  { fb with
    pairs := (mine.foldl (Fabric.notePair now) fb).pairs
    rxSeq := tabSet fb.rxSeq port ((seq + 1) % 4096), rx := fb.rx ++ mine }

/-- The flit that a port expects next, if it is good and holds whole messages, is taken. -/
theorem flitReceive_next {s : State} {port : Nat} {flit : List Byte} {ms : List Msg} (hp : port < 16)
    (up : s.fabric.portsDown.getLsbD port = false) (good : flitGood flit = true)
    (due : flitSeq flit = (tabGet s.fabric.rxSeq port).getD 0) (hold : flitMsgs flit = some ms) :
    exec (.flitReceive port flit) s = .next { s with fabric := Fabric.took s.fabric s.ns port (flitSeq flit) ms } := by
  change execFlitReceive port flit s = _
  simp only [execFlitReceive]
  rw [if_neg (by simp only [up, good, due, bne_self_eq_false, Bool.not_true, Bool.or_false, decide_eq_true_eq]; omega), hold]
  dsimp only
  rw [notePairs_eq, ← due]
  rfl

/-- Any other flit is discarded. -/
theorem flitReceive_other {s : State} {port : Nat} {flit : List Byte}
    (h : ¬ (flitGood flit = true ∧ flitSeq flit = (tabGet s.fabric.rxSeq port).getD 0 ∧ (flitMsgs flit).isSome = true)) :
    exec (.flitReceive port flit) s = .next s := by
  change execFlitReceive port flit s = _
  simp only [execFlitReceive]
  split
  · rfl
  · next hc =>
    simp only [Bool.or_eq_true, Bool.not_eq_true', bne_iff_ne, ne_eq, not_or, Bool.not_eq_false, Decidable.not_not] at hc
    obtain ⟨⟨-, good⟩, due⟩ := hc
    cases hm : flitMsgs flit with
    | none => rfl
    | some ms => exact absurd ⟨good, due, by simp [hm]⟩ h

/-- After messages of other devices have been taken their pairs have what firmware holds, and the other pairs what they had. -/
theorem took_pairGroup (s : State) (port seq : Nat) (ms : List Msg) (src spart : Nat) (h : src ≠ s.fabric.devId) :
    ({ s with fabric := Fabric.took s.fabric s.ns port seq ms } : State).pairGroup src spart =
      if ∃ m ∈ ms.filter (fun m : Msg => m.dst == s.fabric.devId), m.src = src ∧ m.spart = spart then Config.pairGroup s.ns src spart
      else s.pairGroup src spart := by
  rw [pairGroup_of_ne (s := { s with fabric := Fabric.took s.fabric s.ns port seq ms }) spart h, pairGroup_of_ne spart h,
    ← recorded_notePairs]
  rfl

theorem flitReceive_effect (s : State) (port : Nat) (flit : List Byte) (hp : port < 16)
    (up : s.fabric.portsDown.getLsbD port = false) :
    if flitGood flit = true ∧ flitSeq flit = (tabGet s.fabric.rxSeq port).getD 0 ∧ (flitMsgs flit).isSome = true then
      ∃ t ms, flitMsgs flit = some ms ∧ exec (.flitReceive port flit) s = .next t ∧
        let mine := ms.filter fun m => m.dst == s.fabric.devId
        t.fabric.rx = s.fabric.rx ++ mine ∧ tabGet t.fabric.rxSeq port = some ((flitSeq flit + 1) % 4096) ∧ t.mem = s.mem ∧
        t.wgs = s.wgs ∧ (∀ m ∈ mine, m.src ≠ s.fabric.devId → t.pairGroup m.src m.spart = Config.pairGroup s.ns m.src m.spart) ∧
        ∀ src spart, (∀ m ∈ mine, ¬ (m.src = src ∧ m.spart = spart)) → t.pairGroup src spart = s.pairGroup src spart
    else exec (.flitReceive port flit) s = .next s := by
  split
  · next h =>
    obtain ⟨good, due, holds⟩ := h
    obtain ⟨ms, hms⟩ := Option.isSome_iff_exists.1 holds
    refine ⟨_, ms, hms, flitReceive_next hp up good due hms, rfl, Laws.tabGet_tabSet_self _ _ _, rfl, rfl, ?_, ?_⟩
    · intro m hm hne
      rw [took_pairGroup s port _ ms _ _ hne, if_pos ⟨m, hm, rfl, rfl⟩]
    · intro src spart none
      by_cases hs : src = s.fabric.devId
      · unfold State.pairGroup
        exact (if_pos hs).trans (if_pos hs).symm
      · rw [took_pairGroup s port _ ms _ _ hs, if_neg fun ⟨m, hm, he⟩ => none m hm he]
  · next h => exact flitReceive_other h

/-- The mask of a port has that port's bit alone. -/
theorem getLsbD_portBit (port q : Nat) (hp : port < 16) : (1#16 <<< port).getLsbD q = decide (q = port) := by
  simp only [BitVec.getLsbD_shiftLeft, BitVec.getLsbD_one]
  by_cases h : q = port
  · subst h; simp [hp]
  · by_cases h2 : q < port
    · simp [h, h2]
    · have : q - port ≠ 0 := by omega
      simp [h, this]

/-- Up to four failed lanes leave a port that is up at half width. -/
theorem laneFailure_few (s : State) {port lanes : Nat} (hp : port < 16) (h0 : 0 < lanes) (few : lanes ≤ 4) :
    exec (.laneFailure port lanes) s = .next (if s.fabric.portsDown.getLsbD port then s
      else { s with fabric := { s.fabric with portsHalf := s.fabric.portsHalf ||| (1#16 <<< port) } }) := by
  change execLaneFailure port lanes s = _
  simp only [execLaneFailure]
  rw [if_neg (by omega), if_pos few]

/-- More failed lanes take a port down, which is reported if it was up. -/
theorem laneFailure_many (s : State) {port lanes : Nat} (hp : port < 16) (many : 4 < lanes) :
    exec (.laneFailure port lanes) s = .next { s with fabric := { s.fabric with
      portsDown := s.fabric.portsDown ||| (1#16 <<< port), portsHalf := s.fabric.portsHalf &&& ~~~(1#16 <<< port)
      portReports := if s.fabric.portsDown.getLsbD port then s.fabric.portReports else s.fabric.portReports ++ [port] } } := by
  change execLaneFailure port lanes s = _
  simp only [execLaneFailure]
  rw [if_neg (by omega), if_neg (by omega)]

theorem laneFailure_effect (s : State) (port lanes : Nat) (hp : port < 16) (h0 : 0 < lanes) :
    ∃ t, exec (.laneFailure port lanes) s = .next t ∧ t.mem = s.mem ∧ t.wgs = s.wgs ∧
      (4 < lanes → t.fabric.portsDown.getLsbD port = true ∧ t.fabric.portReports =
        if s.fabric.portsDown.getLsbD port then s.fabric.portReports else s.fabric.portReports ++ [port]) ∧
      (lanes ≤ 4 → t.fabric.portsDown = s.fabric.portsDown ∧ t.fabric.portReports = s.fabric.portReports ∧
        (s.fabric.portsDown.getLsbD port = false → t.fabric.portsHalf.getLsbD port = true)) ∧
      ∀ q, q ≠ port → t.fabric.portsDown.getLsbD q = s.fabric.portsDown.getLsbD q ∧
        t.fabric.portsHalf.getLsbD q = s.fabric.portsHalf.getLsbD q := by
  by_cases few : lanes ≤ 4
  · refine ⟨_, laneFailure_few s hp h0 few, ?_⟩
    cases down : s.fabric.portsDown.getLsbD port with
    | true => exact ⟨rfl, rfl, fun h => absurd few (by omega), fun _ => ⟨rfl, rfl, by simp⟩, fun _ _ => ⟨rfl, rfl⟩⟩
    | false =>
      refine ⟨rfl, rfl, fun h => absurd few (by omega), fun _ => ⟨rfl, rfl, fun _ => ?_⟩, fun q hq => ⟨rfl, ?_⟩⟩
      · simp [getLsbD_portBit port port hp]
      · simp [getLsbD_portBit port q hp, hq]
  · refine ⟨_, laneFailure_many s hp (by omega), rfl, rfl, fun _ => ⟨?_, rfl⟩, fun h => absurd h few, fun q hq => ⟨?_, ?_⟩⟩
    · simp [getLsbD_portBit port port hp]
    · simp [getLsbD_portBit port q hp, hq]
    · by_cases hq16 : q < 16
      · rw [BitVec.getLsbD_and, BitVec.getLsbD_not, getLsbD_portBit port q hp]
        simp [hq, hq16]
      · exact (BitVec.getLsbD_of_ge _ q (by omega)).trans (BitVec.getLsbD_of_ge _ q (by omega)).symm

theorem flitsAreReceived : FlitsAreReceived :=
  ⟨flitReceive_effect, laneFailure_effect, fun _ _ _ _ _ _ h fits => flitOf_holds h fits⟩

/-! ### The fabric barrier (R302) -/

theorem fabGroup_setFabGroup_same (s : State) (g : Nat) (x : FabGroup) : (s.setFabGroup g x).fabGroup g = x := by
  simp [State.fabGroup, State.setFabGroup, Laws.tabGet_tabSet_self]

theorem fabGroup_setFabGroup_other (s : State) {g h : Nat} (x : FabGroup) (hne : h ≠ g) :
    (s.setFabGroup g x).fabGroup h = s.fabGroup h := by
  simp [State.fabGroup, State.setFabGroup, Laws.tabGet_tabSet_ne _ _ _ _ hne]

theorem fabGroup_of_fabric {s t : State} (h : t.fabric = s.fabric) (g : Nat) : t.fabGroup g = s.fabGroup g := by
  rw [State.fabGroup, h, State.fabGroup]

/-- The arrival of a member, or one that this device has sent, counts in its group. -/
theorem fabricBarrierArrival_effect (s : State) (g dev : Nat)
    (h : dev ≠ s.fabric.devId ∧ dev ∈ (s.fabGroup g).members ∨ dev = s.fabric.devId ∧ (g, dev) ∈ s.fabric.counterTx) :
    ∃ t, exec (.fabricBarrierArrival g dev) s = .next t ∧
      t.fabGroup g = { s.fabGroup g with arrived := (s.fabGroup g).arrived ++ [dev] } ∧
      (∀ h, h ≠ g → t.fabGroup h = s.fabGroup h) ∧ t.mem = s.mem ∧ t.wgs = s.wgs := by
  change ∃ t, execFabricBarrierArrival g dev s = .next t ∧ _
  simp only [execFabricBarrierArrival]
  obtain ⟨hne, hm⟩ | ⟨heq, hm⟩ := h
  · rw [if_neg hne, if_pos (by simpa using hm)]
    exact ⟨_, rfl, fabGroup_setFabGroup_same _ _ _, fun _ hh => fabGroup_setFabGroup_other _ _ hh, rfl, rfl⟩
  · rw [if_pos heq, if_pos (by simpa using hm)]
    exact ⟨_, rfl, fabGroup_setFabGroup_same _ _ _, fun _ hh => fabGroup_setFabGroup_other _ _ hh, rfl, rfl⟩

/-- An object whose PHC is advanced leaves the Tarile side alone. -/
theorem advancePhc_fabric (s : State) (o : Nat × Nat × DWord) : (s.advancePhc o).fabric = s.fabric := by
  have h := pageWork_agentUpdate s (agentOf o.1 o.2.1) o.2.2.toNat 16 fun v =>
      v / 2 ^ 96 * 2 ^ 96 + (lvPhc v + 1) % 2 ^ 32 * 2 ^ 64 + v % 2 ^ 64
  unfold State.advancePhc
  split
  all_goals
    next e => rw [e] at h; exact h.fabric

/-- An object that can be reached has its PHC advanced, and no more is done. -/
theorem advancePhc_ok {s t : State} {o : Nat × Nat × DWord} {v : Unit}
    (h : s.agentUpdate (agentOf o.1 o.2.1) o.2.2.toNat 16 (fun v =>
      v / 2 ^ 96 * 2 ^ 96 + (v / 2 ^ 64 % 2 ^ 32 + 1) % 2 ^ 32 * 2 ^ 64 + v % 2 ^ 64) = (.ok v, t)) : s.advancePhc o = t := by
  unfold State.advancePhc
  simp only [show ∀ v, lvPhc v = v / 2 ^ 64 % 2 ^ 32 from fun _ => rfl, h]

/-- A group without the arrivals of one round and without what waits. -/
def FabGroup.released (x : FabGroup) : FabGroup :=
  { x with arrived := x.members.foldl (fun a d => a.erase d) x.arrived, waiting := [] }

/-- Once every member has arrived, the release reaches what waits; before, it does nothing. -/
theorem fabricBarrierRelease_eq (s : State) (g : Nat) : exec (.fabricBarrierRelease g) s =
    if (s.fabGroup g).members ≠ [] ∧ ∀ d ∈ (s.fabGroup g).members, d ∈ (s.fabGroup g).arrived then
      .next ((s.fabGroup g).waiting.foldl State.advancePhc (s.setFabGroup g (FabGroup.released (s.fabGroup g))))
    else .next s := by
  change execFabricBarrierRelease g s = _
  simp only [execFabricBarrierRelease]
  exact ite_congr (propext (by simp only [Bool.and_eq_true, Bool.not_eq_true', List.isEmpty_eq_false_iff, ne_eq, List.all_eq_true,
    List.contains_iff_mem])) (fun _ => rfl) fun _ => rfl

theorem fabricBarrierRelease_effect (s : State) (g : Nat) (o : Nat × Nat × DWord) (hw : (s.fabGroup g).waiting = [o]) :
    if (s.fabGroup g).members ≠ [] ∧ ∀ d ∈ (s.fabGroup g).members, d ∈ (s.fabGroup g).arrived then
      ∃ t s1, exec (.fabricBarrierRelease g) s = .next t ∧ (t.fabGroup g).waiting = [] ∧ (t.fabGroup g).g = (s.fabGroup g).g ∧
        s1 = s.setFabGroup g (t.fabGroup g) ∧
        ∀ s2 v, s1.agentUpdate (agentOf o.1 o.2.1) o.2.2.toNat 16 (fun v =>
            v / 2 ^ 96 * 2 ^ 96 + (v / 2 ^ 64 % 2 ^ 32 + 1) % 2 ^ 32 * 2 ^ 64 + v % 2 ^ 64) = (.ok v, s2) → t = s2
    else exec (.fabricBarrierRelease g) s = .next s := by
  rw [fabricBarrierRelease_eq]
  split
  · rw [hw]
    have hg : ((s.setFabGroup g (FabGroup.released (s.fabGroup g))).advancePhc o).fabGroup g =
        FabGroup.released (s.fabGroup g) := by
      rw [fabGroup_of_fabric (advancePhc_fabric _ o), fabGroup_setFabGroup_same]
    refine ⟨_, _, rfl, ?_, ?_, rfl, fun s2 v h => ?_⟩
    · exact congrArg FabGroup.waiting hg
    · exact (congrArg FabGroup.g hg).trans rfl
    · simp only [List.foldl_cons, List.foldl_nil, hg] at h ⊢
      exact advancePhc_ok h
  · rfl

theorem fabricBarrierReleases : FabricBarrierReleases := ⟨fabricBarrierArrival_effect, fabricBarrierRelease_effect⟩

/-- Settles O37: what a port takes, what a lane failure does and what a flit holds, then arrivals and the release. -/
theorem flitsAndFabricBarriersComplete : Obligations.FlitsAndFabricBarriersComplete := ⟨flitsAreReceived, fabricBarrierReleases⟩

end Sys2Proof.Package
end

section
/-! SUPPORT. Contexts that leave the device (R18, R29, R150): what discarding their workgroups, halting them with their die and
destroying their partition can change. -/

namespace Sys2Proof.Package
open Machine Claims

/-! ### Parts of the state after an update -/

theorem part?_setPart (s : State) (n k : Nat) (p : Partition) :
    (s.setPart n p).part? k = if k = n then some p else s.part? k := by
  rw [State.part?, State.setPart_parts]
  split
  · next h => rw [h, Laws.tabGet_tabSet_self]
  · next h => rw [Laws.tabGet_tabSet_ne _ _ _ _ h, State.part?]

theorem part?_modPart (s : State) (n k : Nat) (f : Partition → Partition) :
    (s.modPart n f).part? k = if k = n then (s.part? n).map f else s.part? k := by
  unfold State.modPart
  split
  · next p hp => rw [part?_setPart, hp, Option.map_some]
  · next hp =>
    split
    · next h => rw [h, hp, Option.map_none]
    · rfl

theorem ctx?_modPart (s : State) (n pid k : Nat) (f : Partition → Partition) :
    (s.modPart n f).ctx? pid k = if pid = n then (s.part? n).bind fun p => tabGet (f p).ctxs k else s.ctx? pid k := by
  rw [State.ctx?, part?_modPart]
  split
  · cases s.part? n <;> rfl
  · rfl

theorem ctx?_setCtx_self {s : State} {pid n : Nat} {c : Context} (c' : Context) (h : s.ctx? pid n = some c) :
    (s.setCtx pid n c').ctx? pid n = some c' := by
  obtain ⟨p, hp, -⟩ := Option.bind_eq_some_iff.1 h
  rw [State.setCtx, ctx?_modPart, if_pos rfl, hp, Option.bind_some, Laws.tabGet_tabSet_self]

theorem ctx?_modCtx_self {s : State} {pid n : Nat} {c : Context} (f : Context → Context) (h : s.ctx? pid n = some c) :
    (s.modCtx pid n f).ctx? pid n = some (f c) := by
  rw [State.modCtx, h]
  exact ctx?_setCtx_self _ h

theorem cluster_setCluster (s : State) (n k : Nat) (c : Cluster) :
    (s.setCluster n c).cluster k = if k = n then c else s.cluster k := by
  rw [State.cluster, State.setCluster_clusters]
  split
  · next e => rw [e, Laws.tabGet_tabSet_self, Option.getD_some]
  · next e => rw [Laws.tabGet_tabSet_ne _ _ _ _ e, State.cluster]

/-! ### What leaving the device can change -/

/-- A context that is halted with DIE_LOST (R18). -/
def DieHalted (c : Context) : Prop := c.cstate = 4 ∧ c.haltrsn = 6

/-- What no step of a loss or destruction undoes: the clusters that are offline, the replicas and dies that are gone, the partitions that
are not there or FAILED or CLEARING, and the contexts that are halted with their die. -/
structure Leaves (s t : State) : Prop where
  dies : t.dev.lostDies = s.dev.lostDies
  replicas : ∀ r ∈ t.replicas, r ∈ s.replicas
  offline : ∀ k, (t.cluster k).offline = (s.cluster k).offline
  absent : ∀ n, s.part? n = none → t.part? n = none
  part : ∀ n P, s.part? n = some P → ∃ P', t.part? n = some P' ∧ (P'.state = 5 ↔ P.state = 5) ∧ (P.state = 4 → P'.state = 4)
  ctx : ∀ n k c, s.ctx? n k = some c → ∃ c', t.ctx? n k = some c' ∧ (DieHalted c → DieHalted c')

theorem Leaves.refl (s : State) : Leaves s s :=
  ⟨rfl, fun _ h => h, fun _ => rfl, fun _ h => h, fun _ P h => ⟨P, h, Iff.rfl, id⟩, fun _ _ c h => ⟨c, h, id⟩⟩

theorem Leaves.trans {s t u : State} (a : Leaves s t) (b : Leaves t u) : Leaves s u where
  dies := b.dies.trans a.dies
  replicas r h := a.replicas r (b.replicas r h)
  offline k := (b.offline k).trans (a.offline k)
  absent n h := b.absent n (a.absent n h)
  part n P h := by
    obtain ⟨P', h', h5, h4⟩ := a.part n P h
    obtain ⟨P'', h'', k5, k4⟩ := b.part n P' h'
    exact ⟨P'', h'', k5.trans h5, fun h => k4 (h4 h)⟩
  ctx n k c h := by
    obtain ⟨c', h', hc⟩ := a.ctx n k c h
    obtain ⟨c'', h'', hc'⟩ := b.ctx n k c' h'
    exact ⟨c'', h'', fun h => hc' (hc h)⟩

theorem Leaves.fold {α : Type} (f : State → α → State) (h : ∀ s a, Leaves s (f s a)) (l : List α) (s : State) :
    Leaves s (l.foldl f s) :=
  List.foldlRecOn l f (motive := Leaves s) (Leaves.refl s) fun t ht a _ => ht.trans (h t a)

/-- What one element of a fold brings about, and nothing undoes, holds in the end. -/
theorem Leaves.fold_reaches {α : Type} {f : State → α → State} {q : State → Prop} (h : ∀ s a, Leaves s (f s a))
    (keep : ∀ s t, Leaves s t → q s → q t) {a : α} {l : List α} (ha : a ∈ l) {s : State}
    (reach : ∀ t, Leaves s t → q (f t a)) : q (l.foldl f s) := by
  obtain ⟨l1, l2, rfl⟩ := List.append_of_mem ha
  rw [List.foldl_append, List.foldl_cons]
  exact keep _ _ (Leaves.fold f h l2 _) (reach _ (Leaves.fold f h l1 s))

/-- What changes no partition, no cluster and no lost die, and adds no replica. -/
theorem Leaves.of_eq {s t : State} (d : t.dev.lostDies = s.dev.lostDies) (r : ∀ r ∈ t.replicas, r ∈ s.replicas)
    (c : t.clusters = s.clusters) (p : t.parts = s.parts) : Leaves s t where
  dies := d
  replicas := r
  offline k := by rw [State.cluster, c, State.cluster]
  absent n h := by rw [State.part?, p]; exact h
  part n P h := ⟨P, by rw [State.part?, p]; exact h, Iff.rfl, id⟩
  ctx n k c h := ⟨c, by rw [State.ctx?, State.part?, p]; exact h, id⟩

/-- What changes one partition's record by f, which keeps FAILED and CLEARING and the contexts that are halted with their die. -/
theorem leaves_modPart (s : State) (n : Nat) {f : Partition → Partition}
    (hs : ∀ P, s.part? n = some P → ((f P).state = 5 ↔ P.state = 5) ∧ (P.state = 4 → (f P).state = 4))
    (hc : ∀ P, s.part? n = some P → ∀ k c, tabGet P.ctxs k = some c →
      ∃ c', tabGet (f P).ctxs k = some c' ∧ (DieHalted c → DieHalted c')) :
    Leaves s (s.modPart n f) where
  dies := by simp
  replicas r h := by simpa using h
  offline k := by rw [State.cluster, State.modPart_clusters, State.cluster]
  absent k h := by
    rw [part?_modPart]
    split
    · next e => rw [← e, h, Option.map_none]
    · exact h
  part k P h := by
    rw [part?_modPart]
    split
    · next e =>
      rw [← e, h]
      exact ⟨f P, rfl, hs P (e ▸ h)⟩
    · exact ⟨P, h, Iff.rfl, id⟩
  ctx pid k c h := by
    rw [ctx?_modPart]
    split
    · next e =>
      obtain ⟨P, hP, hk⟩ := Option.bind_eq_some_iff.1 h
      rw [← e, hP, Option.bind_some]
      exact hc P (e ▸ hP) k c hk
    · exact ⟨c, h, id⟩

/-- What leaves the contexts and the state of a partition. -/
theorem leaves_modPart_other (s : State) (n : Nat) {f : Partition → Partition} (hs : ∀ P, (f P).state = P.state)
    (hc : ∀ P, (f P).ctxs = P.ctxs) : Leaves s (s.modPart n f) :=
  leaves_modPart s n (fun P _ => by rw [hs]; exact ⟨Iff.rfl, id⟩) fun P _ k c h => ⟨c, by rw [hc]; exact h, id⟩

theorem leaves_raiseVf (s : State) (n v : Nat) : Leaves s (s.raiseVf n v) :=
  leaves_modPart_other s n (fun _ => rfl) fun _ => rfl

theorem leaves_addHeld (s : State) (w : Wg) (i : Int) : Leaves s (s.addHeld w i) :=
  leaves_modPart_other s _ (fun _ => rfl) fun _ => rfl

/-- R423 moves no partition into or out of FAILED and CLEARING. -/
theorem leaves_settlePart (s : State) (n : Nat) : Leaves s (s.settlePart n) := by
  refine leaves_modPart s n (fun P _ => ?_) fun P _ k c h => ⟨c, ?_, id⟩
  · split
    · dsimp only
      split
      · omega
      · split <;> omega
    · exact ⟨Iff.rfl, id⟩
  · split <;> exact h

/-- A change of one context that keeps DIE_LOST. -/
theorem leaves_modCtx (s : State) (pid n : Nat) {f : Context → Context} (hf : ∀ c, DieHalted c → DieHalted (f c)) :
    Leaves s (s.modCtx pid n f) := by
  unfold State.modCtx
  split
  · next c0 h0 =>
    refine leaves_modPart s pid (fun P _ => ⟨Iff.rfl, id⟩) fun P hP k c hk => ?_
    by_cases e : k = n
    · subst e
      rw [State.ctx?, hP, Option.bind_some, hk] at h0
      cases h0
      exact ⟨f c0, Laws.tabGet_tabSet_self _ _ _, hf c0⟩
    · exact ⟨c, by rw [Laws.tabGet_tabSet_ne _ _ _ _ e]; exact hk, id⟩
  · exact Leaves.refl s

/-! ### Workgroups that are discarded (R115, R150) -/

theorem leaves_modCore (s : State) (n : Nat) (f : Core → Core) : Leaves s (s.modCore n f) :=
  .of_eq rfl (fun _ h => h) rfl rfl

/-- A cluster that is changed and not taken offline. -/
theorem leaves_setCluster (s : State) (n : Nat) (c : Cluster) (h : c.offline = (s.cluster n).offline) :
    Leaves s (s.setCluster n c) where
  dies := rfl
  replicas _ h := h
  offline k := by
    rw [cluster_setCluster]
    split
    · next e => rw [e, h]
    · rfl
  absent _ h := h
  part _ P h := ⟨P, h, Iff.rfl, id⟩
  ctx _ _ c h := ⟨c, h, id⟩

theorem leaves_clearCore (s : State) (w : Wg) : Leaves s (s.clearCore w) := by
  unfold State.clearCore
  dsimp only
  refine Leaves.trans ?_ (leaves_modCore _ _ _)
  split
  · exact Leaves.refl s
  · exact leaves_setCluster s _ _ rfl

theorem leaves_leaveCore (s : State) (w : Wg) : Leaves s (s.leaveCore w) :=
  (leaves_clearCore s w).trans (.of_eq rfl (fun _ h => h) rfl rfl)

theorem leaves_finishCollapse (s : State) (c : Collapse) : Leaves s (s.finishCollapse c) :=
  have ⟨work, sub⟩ := finishCollapse_pageWork s c
  .of_eq work.lostDies sub work.clusters work.parts

/-- Sending what may be sent changes the Tarile side and waiting threads alone. -/
theorem serveSlots_eq (s : State) : s.serveSlots = { s with fabric := s.serveSlots.fabric, wgs := s.serveSlots.wgs } := by
  unfold State.serveSlots
  dsimp only
  generalize hx : List.foldl _ _ _ = x
  have h : x.1 = { s with fabric := x.1.fabric } := by
    rw [← hx]
    refine List.foldlRecOn (motive := fun x : State × List Nat => x.1 = { s with fabric := x.1.fabric }) _ _ rfl fun x hx r _ => ?_
    split
    · exact hx
    · split
      · rw [hx]; rfl
      · exact hx
  rw [h]

theorem leaves_serveSlots (s : State) : Leaves s s.serveSlots := by
  rw [serveSlots_eq]
  exact .of_eq rfl (fun _ h => h) rfl rfl

theorem leaves_discardWg (s : State) (w : Wg) : Leaves s (s.discardWg w) := by
  unfold State.discardWg
  refine Leaves.trans ?_ (leaves_serveSlots _)
  refine Leaves.trans ?_ (leaves_leaveCore _ w)
  exact (Leaves.fold _ leaves_finishCollapse (s.collapsesOf w) s).trans (.of_eq rfl (fun _ h => h) rfl rfl)

theorem leaves_dropSaved (s : State) (x : Saved) : Leaves s ((s.dropSaved x).closeWindows x.wg) :=
  (leaves_addHeld s x.wg (-1)).trans (.of_eq rfl (fun _ h => h) rfl rfl)

theorem leaves_discardAll (s : State) (pid ctx : Nat) : Leaves s (s.discardAll pid ctx) :=
  Leaves.trans ((Leaves.fold _ leaves_discardWg _ s).trans (Leaves.fold _ leaves_dropSaved _ _))
    (leaves_modCtx _ pid ctx fun _ h => h)

end Sys2Proof.Package
end

section
/-! SUPPORT. The host link (R29), die-to-die links and lost dies (R17, R18), the scrub (R21), and that O52 holds. -/

namespace Sys2Proof.Package
open Machine Claims

/-! ### The host link (R29) -/

/-- What a lost link makes of a context: HALTED stays, one with a step halts at its end, any other now. -/
def linkHalt (c : Context) : Context :=
  if c.cstate = 4 then c
  else if c.run.isSome then { c with haltAtClose := true }
  else { c with cstate := 4, haltrsn := 2, formNext := false }

def linkHaltAll (p : Partition) : Partition := { p with ctxs := p.ctxs.map fun c => (c.1, linkHalt c.2) }

/-- The state when the link has just been lost, before the partitions settle. -/
def linkLostIn (s : State) : State :=
  { s with
    dev := { s.dev with linkLost := true, linkLostAt := s.ns, hostWait := true }
    parts := s.parts.map fun e => (e.1, linkHaltAll e.2) }

theorem loseLink_eq (s : State) : s.loseLink = (linkLostIn s).parts.foldl (fun s e => s.settlePart e.1) (linkLostIn s) := rfl

theorem ctx?_linkLostIn (s : State) (pid n : Nat) : (linkLostIn s).ctx? pid n = (s.ctx? pid n).map linkHalt := by
  have hp : (linkLostIn s).part? pid = (s.part? pid).map linkHaltAll := Laws.tabGet_map (fun _ => linkHaltAll) _ _
  rw [State.ctx?, hp, State.ctx?]
  cases s.part? pid with
  | none => rfl
  | some p => exact Laws.tabGet_map (fun _ => linkHalt) _ _

theorem linkHalt_of_halted {c : Context} (h : c.cstate = 4) : linkHalt c = c := if_pos h

theorem linkHalt_of_run {c : Context} (h : c.cstate ≠ 4) (hr : c.run ≠ none) : linkHalt c = { c with haltAtClose := true } := by
  rw [linkHalt, if_neg h, if_pos (Option.isSome_iff_ne_none.2 hr)]

theorem linkHalt_of_idle {c : Context} (h : c.cstate ≠ 4) (hr : c.run = none) :
    linkHalt c = { c with cstate := 4, haltrsn := 2, formNext := false } := by
  rw [linkHalt, if_neg h, hr]; rfl

/-- No halt of a lost link changes the step number or the slots. -/
theorem linkHalt_keeps (c : Context) : (linkHalt c).stepn = c.stepn ∧ (linkHalt c).adm.slots = c.adm.slots := by
  unfold linkHalt
  split
  · exact ⟨rfl, rfl⟩
  · split <;> exact ⟨rfl, rfl⟩

/-- Settling a partition changes no context. -/
theorem ctx?_settlePart (s : State) (m pid n : Nat) : (s.settlePart m).ctx? pid n = s.ctx? pid n := by
  rw [State.settlePart, ctx?_modPart]
  split
  · next e =>
    rw [e, State.ctx?]
    congr 1
    funext p
    split <;> rfl
  · rfl

/-- Settling partitions leaves the rest of the machine, the device and every context. -/
theorem settleParts_effect (ps : List (Nat × Partition)) (s : State) :
    let t := ps.foldl (fun s e => s.settlePart e.1) s
    SameMachine s t ∧ t.dev = s.dev ∧ ∀ pid n, t.ctx? pid n = s.ctx? pid n :=
  List.foldlRecOn ps _ (motive := fun t : State => SameMachine s t ∧ t.dev = s.dev ∧ ∀ pid n, t.ctx? pid n = s.ctx? pid n)
    ⟨⟨rfl, rfl, rfl, rfl, rfl, rfl⟩, rfl, fun _ _ => rfl⟩ fun t ⟨⟨hm, hw, hc, hd, hf, hr⟩, hdev, hctx⟩ e _ =>
      ⟨⟨by simp [State.settlePart, hm], by simp [State.settlePart, hw], by simp [State.settlePart, hc],
        by simp [State.settlePart, hd], by simp [State.settlePart, hf], by simp [State.settlePart, hr]⟩,
        by simp [State.settlePart, hdev], fun pid n => by rw [ctx?_settlePart, hctx]⟩

theorem linkDown_effect (s : State) : ∃ t, exec .linkDown s = .next t ∧ SameMachine s t ∧
    t.dev = { s.dev with linkLost := true, linkLostAt := s.ns, hostWait := true } ∧
    ∀ pid n c, s.ctx? pid n = some c → ∃ c', t.ctx? pid n = some c' ∧ c'.stepn = c.stepn ∧ c'.adm.slots = c.adm.slots ∧
      (c.cstate = 4 → c' = c) ∧ (c.cstate ≠ 4 → c.run ≠ none → c' = { c with haltAtClose := true }) ∧
      (c.cstate ≠ 4 → c.run = none → c'.cstate = 4 ∧ c'.haltrsn = 2) := by
  obtain ⟨same, dev, ctx⟩ := settleParts_effect (linkLostIn s).parts (linkLostIn s)
  refine ⟨s.loseLink, rfl, same, dev, fun pid n c h => ⟨linkHalt c, ?_, (linkHalt_keeps c).1, (linkHalt_keeps c).2,
    linkHalt_of_halted, linkHalt_of_run, fun h4 hr => ?_⟩⟩
  · rw [loseLink_eq, ctx, ctx?_linkLostIn, h, Option.map_some]
  · rw [linkHalt_of_idle h4 hr]; exact ⟨rfl, rfl⟩

/-- A loss of more than 10 ms is a lost link, a shorter one nothing. -/
theorem hostLinkTimeout_effect (s : State) (lostAt : Nat) :
    (s.ns ≤ lostAt + 10000000 → exec (.hostLinkTimeout lostAt) s = .next s) ∧
    (lostAt + 10000000 < s.ns → exec (.hostLinkTimeout lostAt) s = exec .linkDown s) := by
  change (_ → execHostLinkTimeout lostAt s = _) ∧ (_ → execHostLinkTimeout lostAt s = execLinkDown s)
  simp only [execHostLinkTimeout, execLinkDown]
  exact ⟨fun h => by rw [if_neg (by omega)], fun h => by rw [if_pos h]⟩

/-- A ring entry that cannot be delivered is counted in the context and in its dump area. -/
theorem putEntry_linkLost (s : State) (pid n : Nat) (c : Context) (r : Request) (e : RingEntry) (h : s.ctx? pid n = some c)
    (lost : s.dev.linkLost = true) : s.putEntry pid n r e = (.written, r,
      ((s.setCtx pid n { c with ringLost := c.ringLost + 1 }).agentWrite (agentOf pid n) (c.dumpb.toNat + c.dumpsz - 8)
        (bytesOf 8 (c.ringLost + 1))).2) := by
  simp only [State.putEntry, lost, if_true, State.ringLoss, ctx?_modCtx_self _ h]
  rw [State.modCtx, h]

/-! ### Partitions that are destroyed (R48) -/

theorem mem_of_tabGet {α : Type} {t : Tab α} {k : Nat} {v : α} (h : tabGet t k = some v) : (k, v) ∈ t := by
  induction t with
  | nil => cases h
  | cons e r ih =>
    obtain ⟨j, x⟩ := e
    rw [tabGet] at h
    split at h
    · next hj => cases h; rw [hj]; exact List.mem_cons_self
    · exact List.mem_cons_of_mem _ (ih h)

theorem leaves_zeroPhys (s : State) (a n : Nat) : Leaves s (s.zeroPhys a n) := .of_eq rfl (fun _ h => h) rfl rfl

/-- The state without what partition n has under way. -/
def withoutWork (s : State) (n : Nat) : State :=
  { s with
    engines := s.engines.filter fun r => r.pid != n
    frecs := s.frecs.filter fun e => e.2.pid != n
    fabric := { s.fabric with out := s.fabric.out.filter fun r => r.msg.spart != n }
    replicas := s.replicas.filter fun r => r.pid != n
    collapses := s.collapses.filter fun c => c.pid != n
    cores := s.cores.map fun (e : Nat × Core) =>
      (e.1, { e.2 with dcache := e.2.dcache.filter fun (d : Desc) => d.id / 65536 != n }) }

/-- Every context of partition n is discarded and its frames are zeroed. -/
def emptied (s : State) (n : Nat) (p : Partition) : State :=
  let t := withoutWork (p.ctxs.foldl (fun s e => (s.discardAll n e.1).forgetBarriers n e.1) s) n
  (t.frames.filter fun f => f.pid == n).foldl (fun s f => s.zeroPhys f.base f.size) t

/-- The state without the record and the frames of partition n. -/
def unlisted (s : State) (n : Nat) : State :=
  { s with frames := s.frames.filter fun f => f.pid != n, parts := tabDel s.parts n }

/-- The counters of some clusters are 0. -/
def clearCounters (s : State) (ks : List Nat) : State :=
  ks.foldl (fun s k => s.setCluster k { s.cluster k with counters := [] }) s

theorem destroy_eq {s : State} {n : Nat} {p : Partition} (h : s.part? n = some p) : s.destroy n =
    (clearCounters (unlisted (emptied s n p) n) (clustersOf p.clmask.toNat)).joinDomain p.clmask.toNat 0 := by
  unfold State.destroy
  rw [h]
  rfl

theorem leaves_emptied (s : State) (n : Nat) (p : Partition) : Leaves s (emptied s n p) := by
  have discard := Leaves.fold (fun s (e : Nat × Context) => (s.discardAll n e.1).forgetBarriers n e.1)
    (fun s e => (leaves_discardAll s n e.1).trans (.of_eq rfl (fun _ h => h) rfl rfl)) p.ctxs s
  have work (t : State) : Leaves t (withoutWork t n) := .of_eq rfl (fun _ h => (List.mem_filter.1 h).1) rfl rfl
  exact (discard.trans (work _)).trans (Leaves.fold _ (fun s f => leaves_zeroPhys s _ _) _ _)

theorem leaves_clearCounters (s : State) (ks : List Nat) : Leaves s (clearCounters s ks) :=
  Leaves.fold _ (fun s k => leaves_setCluster s k { s.cluster k with counters := [] } rfl) ks s

theorem leaves_joinDomain (s : State) (m dom : Nat) : Leaves s (s.joinDomain m dom) :=
  Leaves.fold _ (fun s k => leaves_modCore s k fun c => { c with eSeen := (s.domain dom).e.toNat }) _ s

theorem part?_unlisted (s : State) (n k : Nat) : (unlisted s n).part? k = if k = n then none else s.part? k :=
  Laws.tabGet_tabDel _ _ _

/-- A partition that is destroyed is gone, and none that was not there comes. -/
theorem destroy_absent (s : State) (n k : Nat) (h : k = n ∨ s.part? k = none) : (s.destroy n).part? k = none := by
  cases hp : s.part? n with
  | none =>
    have hk : s.part? k = none := by
      obtain rfl | h := h
      · exact hp
      · exact h
    rw [State.destroy, hp]
    exact hk
  | some p =>
    rw [destroy_eq hp]
    refine ((leaves_clearCounters _ _).trans (leaves_joinDomain _ _ _)).absent k ?_
    rw [part?_unlisted]
    split
    · rfl
    · next hne => exact (leaves_emptied s n p).absent k (h.resolve_left hne)

/-- Partitions that are destroyed one after the other are all gone. -/
theorem destroyAll_absent (n : Nat) : ∀ (ps : List (Nat × Partition)) (s : State),
    (∀ p, s.part? n = some p → ∃ q, (n, q) ∈ ps) → (ps.foldl (fun s e => s.destroy e.1) s).part? n = none
  | [], s, h => by
    cases hp : s.part? n with
    | none => exact hp
    | some p => exact absurd (h p hp) (by simp)
  | e :: ps, s, h => by
    refine destroyAll_absent n ps _ fun p hp => ?_
    have hne : ¬ (n = e.1 ∨ s.part? n = none) := fun hn => by rw [destroy_absent s e.1 n hn] at hp; cases hp
    obtain ⟨hn, hs⟩ := not_or.1 hne
    obtain ⟨p0, hp0⟩ := Option.ne_none_iff_exists'.1 hs
    obtain ⟨q, hq⟩ := h p0 hp0
    obtain rfl | hq := List.mem_cons.1 hq
    · exact absurd rfl hn
    · exact ⟨q, hq⟩

/-- The host reset that the device waits for clears every partition; any other changes nothing. -/
theorem hostReset_effect (s : State) : (s.dev.hostWait = false → exec .hostReset s = .next s) ∧
    (s.dev.hostWait = true → ∃ t, exec .hostReset s = .next t ∧ (∀ n, t.part? n = none) ∧ t.dev.hostWait = false ∧
      t.dev.linkLost = false) := by
  change (_ → execHostReset s = _) ∧ (_ → ∃ t, execHostReset s = _ ∧ _)
  simp only [execHostReset]
  refine ⟨fun h => if_neg (by simp [h]), fun h => ⟨_, if_pos h, fun n => ?_, rfl, rfl⟩⟩
  exact destroyAll_absent n s.parts s fun p hp => ⟨p, mem_of_tabGet hp⟩

theorem hostLinkIsLost : HostLinkIsLost :=
  ⟨hostLinkTimeout_effect, linkDown_effect, putEntry_linkLost, hostReset_effect⟩

/-! ### Die-to-die links (R17, R18) -/

theorem linkFailure_effect (s : State) (link : DieLink) (there : s.linkGone link = false) (up : s.dev.downSince link = none) :
    exec (.linkFailure link) s = .next { s with dev := { s.dev with linkDown := s.dev.linkDown ++ [(link, s.ns)] } } := by
  have hno : (s.dev.linkDown.any fun e => e.1 == link) = false := by
    rw [Device.downSince, Option.map_eq_none_iff] at up
    rw [List.any_eq_false]
    exact List.find?_eq_none.1 up
  change execLinkFailure link s = _
  rw [execLinkFailure, there, hno]
  rfl

theorem linkRetrain_effect (s : State) (link : DieLink) (t : Nat) (down : s.dev.downSince link = some t) :
    (s.ns ≤ t + 1000000 → exec (.linkRetrain link) s = .next { s with dev := s.dev.dropLink link }) ∧
    (t + 1000000 < s.ns → exec (.linkRetrain link) s = .next s) := by
  change (_ → execLinkRetrain link s = _) ∧ (_ → execLinkRetrain link s = _)
  simp only [execLinkRetrain, down]
  exact ⟨fun h => by rw [if_pos h], fun h => by rw [if_neg (by omega)]⟩

theorem linkRetire_effect (s : State) (ring t : Nat) (down : s.dev.downSince (.ring ring) = some t) :
    (s.ns < t + 1000000 → exec (.linkRetire ring) s = .next s) ∧
    (t + 1000000 ≤ s.ns → exec (.linkRetire ring) s = .next
      { s with dev := { s.dev.dropLink (.ring ring) with ringRetired := s.dev.ringRetired ||| (1#4 <<< ring) } }) := by
  change (_ → execLinkRetire ring s = _) ∧ (_ → execLinkRetire ring s = _)
  simp only [execLinkRetire, down]
  exact ⟨fun h => by rw [if_neg (by omega)], fun h => by rw [if_pos h]⟩

/-! ### A lost die (R18) -/

theorem leaves_dieHalt (s : State) (pid n : Nat) : Leaves s (s.dieHalt pid n) :=
  ((leaves_discardAll s pid n).trans (leaves_modCtx _ pid n fun _ _ => ⟨rfl, rfl⟩)).trans (leaves_raiseVf _ _ _)

/-- A context that is there is halted with its die. -/
theorem dieHalt_halts {s : State} {pid n : Nat} {c : Context} (h : s.ctx? pid n = some c) :
    ∃ c', (s.dieHalt pid n).ctx? pid n = some c' ∧ DieHalted c' := by
  obtain ⟨c1, h1, -⟩ := (leaves_discardAll s pid n).ctx pid n c h
  obtain ⟨c', h', hc⟩ := (leaves_raiseVf _ pid 1).ctx pid n _ (ctx?_modCtx_self (fun c => { c with
    cstate := 4, haltrsn := 6, run := none, wasIdle := false, haltAtClose := false, formNext := false }) h1)
  exact ⟨c', h', hc ⟨rfl, rfl⟩⟩

/-- The contexts of a partition that a die's loss reaches: all of them if the die holds its records, otherwise those that run on its
clusters. -/
def diePart (d n : Nat) (s : State) (p : Partition) : State :=
  p.ctxs.foldl (fun s e => if n % 4 = d ∨ (e.2.clmask &&& dieClusters d) ≠ 0 then s.dieHalt n e.1 else s) s

theorem leaves_dieHaltIf (s : State) (n k : Nat) {q : Prop} [Decidable q] : Leaves s (if q then s.dieHalt n k else s) := by
  split
  · exact leaves_dieHalt s n k
  · exact Leaves.refl s

theorem leaves_diePart (d n : Nat) (s : State) (p : Partition) : Leaves s (diePart d n s p) :=
  Leaves.fold _ (fun s _ => leaves_dieHaltIf s n _) _ s

/-- A context halted with its die stays so. -/
theorem Leaves.dieHalted {s t : State} {n k : Nat} (h : Leaves s t) : (∃ c, s.ctx? n k = some c ∧ DieHalted c) →
    ∃ c, t.ctx? n k = some c ∧ DieHalted c := fun ⟨c, hc, hd⟩ =>
  have ⟨c', hc', h'⟩ := h.ctx n k c hc
  ⟨c', hc', h' hd⟩

/-- A partition is as the loss of the die that holds its records leaves it: CLEARING stays, any other is FAILED. -/
def DieFailed (P : Partition) (t : State) (n : Nat) : Prop :=
  ∃ P', t.part? n = some P' ∧ P'.state = if P.state = 5 then 5 else 4

theorem Leaves.dieFailed {s t : State} {n : Nat} {P : Partition} (h : Leaves s t) : DieFailed P s n → DieFailed P t n :=
  fun ⟨P1, h1, e1⟩ => by
    obtain ⟨P2, h2, h5, h4⟩ := h.part n P1 h1
    refine ⟨P2, h2, ?_⟩
    by_cases h : P.state = 5
    · rw [if_pos h] at e1 ⊢; exact h5.2 e1
    · rw [if_neg h] at e1 ⊢; exact h4 e1

/-- The part of a partition's loss that follows the halts. -/
theorem partLosesDie_eq (s : State) (d n : Nat) (p : Partition) : s.partLosesDie d n p =
    if n % 4 = d then
      ((diePart d n s p).modPart n fun p => { p with state := if p.state = 5 then 5 else 4, rq := [] }).raiseVf n 1
    else (diePart d n s p).settlePart n := by
  unfold State.partLosesDie diePart
  split
  · next h => simp only [h, true_or, if_true]
  · next h => simp only [h, false_or, bne_iff_ne]

theorem leaves_failPart (s : State) (n : Nat) :
    Leaves s (s.modPart n fun p => { p with state := if p.state = 5 then 5 else 4, rq := [] }) :=
  leaves_modPart s n (fun P _ => by dsimp only; split <;> omega) fun _ _ _ c h => ⟨c, h, id⟩

theorem leaves_afterDiePart (s : State) (d n : Nat) (p : Partition) : Leaves (diePart d n s p) (s.partLosesDie d n p) := by
  rw [partLosesDie_eq]
  split
  · exact (leaves_failPart _ n).trans (leaves_raiseVf _ _ _)
  · exact leaves_settlePart _ n

theorem leaves_partLosesDie (s : State) (d n : Nat) (p : Partition) : Leaves s (s.partLosesDie d n p) :=
  (leaves_diePart d n s p).trans (leaves_afterDiePart s d n p)

/-- The partition whose records the die holds fails. -/
theorem partLosesDie_fails {s t : State} {d n : Nat} {P : Partition} (p : Partition) (h : Leaves s t) (hP : s.part? n = some P)
    (hd : n % 4 = d) : DieFailed P (t.partLosesDie d n p) n := by
  obtain ⟨P1, h1, h5, -⟩ := (h.trans (leaves_diePart d n t p)).part n P hP
  rw [partLosesDie_eq, if_pos hd]
  refine (leaves_raiseVf _ n 1).dieFailed ⟨_, by rw [part?_modPart, if_pos rfl, h1, Option.map_some], ?_⟩
  exact ite_congr (propext h5) (fun _ => rfl) fun _ => rfl

/-- A context that the loss reaches is halted with its die. -/
theorem partLosesDie_halts {s t : State} {d n k : Nat} {P : Partition} {c : Context} (h : Leaves s t) (hP : s.part? n = some P)
    (hc : tabGet P.ctxs k = some c) (hr : n % 4 = d ∨ (c.clmask &&& dieClusters d) ≠ 0) :
    ∃ c', (t.partLosesDie d n P).ctx? n k = some c' ∧ DieHalted c' := by
  refine (leaves_afterDiePart t d n P).dieHalted ?_
  refine Leaves.fold_reaches (fun s _ => leaves_dieHaltIf s n _) (fun _ _ hl => hl.dieHalted) (mem_of_tabGet hc) fun u hu => ?_
  rw [if_pos hr]
  obtain ⟨c1, h1, -⟩ := (h.trans hu).ctx n k c (by rw [State.ctx?, hP, Option.bind_some, hc])
  exact dieHalt_halts h1

/-- Clusters are taken offline. -/
def takeOffline (s : State) (ks : List Nat) : State :=
  ks.foldl (fun s k => s.setCluster k { s.cluster k with offline := true }) s

theorem takeOffline_eq (s : State) (ks : List Nat) : takeOffline s ks = { s with clusters := (takeOffline s ks).clusters } :=
  List.foldlRecOn ks _ (motive := fun t : State => t = { s with clusters := t.clusters }) rfl fun t ht k _ => by rw [ht]; rfl

theorem takeOffline_offline : ∀ (ks : List Nat) (s : State) (k : Nat), k ∈ ks ∨ (s.cluster k).offline = true →
    ((takeOffline s ks).cluster k).offline = true
  | [], _, _, h => h.resolve_left (by simp)
  | j :: ks, s, k, h => by
    refine takeOffline_offline ks _ k ?_
    rw [cluster_setCluster]
    by_cases e : k = j
    · rw [if_pos e]; exact .inr rfl
    · rw [if_neg e]
      exact h.imp_left fun hm => (List.mem_cons.1 hm).resolve_left e

/-- The state when a die has just been lost: its link is given up, and its replicas with their frames and its clusters are gone. -/
def dieGone (s : State) (die : Nat) : State :=
  takeOffline { s with
    dev := { s.dev.dropLink (.iod die) with lostDies := s.dev.lostDies ||| (1#4 <<< die) }
    replicas := s.replicas.filter fun r => r.die != die
    frames := s.frames.filter fun f => !(s.replicas.any fun r => r.die == die && r.frame == f.base) }
    ((List.range 18).map (18 * die + ·))

theorem dieGone_parts (s : State) (die : Nat) : (dieGone s die).parts = s.parts := by
  rw [dieGone, takeOffline_eq]

theorem dieGone_effect (s : State) (die : Nat) : (dieGone s die).dev.lostDies = s.dev.lostDies ||| (1#4 <<< die) ∧
    (∀ i, i < 18 → ((dieGone s die).cluster (18 * die + i)).offline = true) ∧ ∀ r ∈ (dieGone s die).replicas, r.die ≠ die := by
  refine ⟨?_, fun i hi => ?_, fun r hr => ?_⟩
  · rw [dieGone, takeOffline_eq]
  · exact takeOffline_offline _ _ _ (.inl (List.mem_map.2 ⟨i, List.mem_range.2 hi, rfl⟩))
  · rw [dieGone, takeOffline_eq] at hr
    simpa using (List.mem_filter.1 hr).2

/-- The loss of a die whose link has been down for 1 ms: what it held is gone, then each partition loses what the die had of it. -/
theorem dieLost_due {s : State} {die t : Nat} (down : s.dev.downSince (.iod die) = some t) (due : t + 1000000 ≤ s.ns) :
    exec (.dieLost die) s = .next (s.parts.foldl (fun s e => s.partLosesDie die e.1 e.2) (dieGone s die)) := by
  have hn : ¬ s.ns < t + 1000000 := by omega
  rw [← dieGone_parts s die]
  change execDieLost die s = _
  simp only [execDieLost, down, if_neg hn, dieGone, takeOffline, List.foldl_map]

theorem dieLost_early {s : State} {die t : Nat} (down : s.dev.downSince (.iod die) = some t) (early : s.ns < t + 1000000) :
    exec (.dieLost die) s = .next s := by
  change execDieLost die s = _
  simp only [execDieLost, down, if_pos early]

theorem dieLost_effect (s : State) (die t : Nat) (_ : die < 4) (down : s.dev.downSince (.iod die) = some t) :
    (s.ns < t + 1000000 → exec (.dieLost die) s = .next s) ∧
    (t + 1000000 ≤ s.ns → ∃ t', exec (.dieLost die) s = .next t' ∧ t'.dev.lostDies = s.dev.lostDies ||| (1#4 <<< die) ∧
      (∀ i, i < 18 → (t'.cluster (18 * die + i)).offline = true) ∧ (∀ r ∈ t'.replicas, r.die ≠ die) ∧
      (∀ n P, s.part? n = some P → n % 4 = die → ∃ P', t'.part? n = some P' ∧ P'.state = (if P.state = 5 then 5 else 4)) ∧
      ∀ n k c, s.ctx? n k = some c → n % 4 = die ∨ (c.clmask &&& dieClusters die) ≠ 0 →
        ∃ c', t'.ctx? n k = some c' ∧ c'.cstate = 4 ∧ c'.haltrsn = 6) := by
  refine ⟨dieLost_early down, fun due => ⟨_, dieLost_due down due, ?_⟩⟩
  obtain ⟨dies, offline, replicas⟩ := dieGone_effect s die
  have step (s : State) (e : Nat × Partition) : Leaves s (s.partLosesDie die e.1 e.2) := leaves_partLosesDie s die e.1 e.2
  have all := Leaves.fold _ step s.parts (dieGone s die)
  have hpart (n : Nat) : (dieGone s die).part? n = s.part? n := by rw [State.part?, dieGone_parts, State.part?]
  refine ⟨all.dies.trans dies, fun i hi => (all.offline _).trans (offline i hi), fun r hr => replicas r (all.replicas r hr),
    fun n P hP hd => ?_, fun n k c hc hr => ?_⟩
  · exact Leaves.fold_reaches step (fun _ _ h => h.dieFailed) (mem_of_tabGet hP) fun u hu =>
      partLosesDie_fails P hu ((hpart n).trans hP) hd
  · obtain ⟨P, hP, hk⟩ := Option.bind_eq_some_iff.1 hc
    exact Leaves.fold_reaches step (fun _ _ h => h.dieHalted) (mem_of_tabGet hP) fun u hu =>
      partLosesDie_halts hu ((hpart n).trans hP) hk hr

/-! ### The scrub (R21) -/

theorem scrub_effect (s : State) (sector d : Nat) (_ : d < 4) (near : nearDie (32 * sector) = some d) :
    exec (.scrub sector .none) s = .next s ∧
    exec (.scrub sector .corrected) s = .next { s with dev := { s.dev with
      corrected := tabSet s.dev.corrected d ((tabGet s.dev.corrected d).getD 0 + 1) } } ∧
    ∃ t, exec (.scrub sector .uncorrectable) s = .next t ∧ sector ∈ t.dev.poison ∧ t.mem = s.mem ∧
      t.dev.uncorrectable = if sector ∈ s.dev.poison then s.dev.uncorrectable else s.dev.uncorrectable + 1 := by
  change execScrub sector .none s = _ ∧ execScrub sector .corrected s = _ ∧ ∃ t, execScrub sector .uncorrectable s = _ ∧ _
  simp only [execScrub, near]
  refine ⟨trivial, trivial, _, rfl, ?_⟩
  by_cases h : sector ∈ s.dev.poison
  · simp [h]
  · simp [h]

theorem linksAndSectorsFail : LinksAndSectorsFail :=
  ⟨linkFailure_effect, linkRetrain_effect, linkRetire_effect, dieLost_effect, scrub_effect⟩

/-- Settles O52: the host link, then die-to-die links, lost dies and bad sectors, each row by its lemma. -/
theorem linksDiesAndSectorsFail : Obligations.LinksDiesAndSectorsFail := ⟨hostLinkIsLost, linksAndSectorsFail⟩

end Sys2Proof.Package
end
